-- ==== Sys2Proof/Word.lean ====
section
/-! DEFINITION. The words, numbers and sets of the bridge (00_scope.md, "Conventions"; 12 section 12.4). -/

namespace Sys2Proof

/-- A 32-bit word of a Pool Link message (chapter 12). -/
abbrev Word := BitVec 32

/-- A node, which is also the number of its Pool Link port (00_scope.md). -/
abbrev NodeId := Fin 8

/-- A set of nodes: bit n stands for node n (12 section 12.2). -/
abbrev NodeSet := BitVec 8

/-- A block number, 0 to 3_FFFF_FFFFh. -/
abbrev Block := BitVec 34

/-- A memory address of one memory controller, counted in blocks, 0 to 3_FFFF_FFFFh. -/
abbrev MemAddr := BitVec 34

/-- A request tag, 0 to 255. -/
abbrev ReqTag := BitVec 8

/-- A value of the 32-bit time base, in microseconds (R148). -/
abbrev Time := BitVec 32

/-- A recall or memory timeout, 1 to 4095 microseconds. -/
abbrev Timeout := BitVec 12

/-- An index of the Transaction Table (R57). -/
abbrev TTIdx := Fin 48

/-- A place of the Writeback Buffer (R114). -/
abbrev WBIdx := Fin 8

/-- A region index (chapter 2). -/
abbrev RegionIdx := Fin 16

/-- A set of the Directory (R36). -/
abbrev SetIdx := Fin 2048

/-- A way of a set (R36). -/
abbrev WayIdx := Fin 8

/-- A memory tag of one Memory Port (R121). -/
abbrev MemTag := Fin 16

/-- The eight nodes in ascending order. -/
def allNodes : List NodeId := [0, 1, 2, 3, 4, 5, 6, 7]

/-- The eight ways in ascending order. -/
def allWays : List WayIdx := [0, 1, 2, 3, 4, 5, 6, 7]

/-- The sixteen memory tags in ascending order. -/
def allTags : List MemTag := [0, 1, 2, 3, 4, 5, 6, 7, 8, 9, 10, 11, 12, 13, 14, 15]

/-- The sixteen region indices in ascending order. -/
def allRegions : List RegionIdx := [0, 1, 2, 3, 4, 5, 6, 7, 8, 9, 10, 11, 12, 13, 14, 15]

/-- The 48 Transaction Table indices in ascending order. -/
def allTT : List TTIdx :=
  [0, 1, 2, 3, 4, 5, 6, 7, 8, 9, 10, 11, 12, 13, 14, 15, 16, 17, 18, 19, 20, 21, 22, 23] ++
  [24, 25, 26, 27, 28, 29, 30, 31, 32, 33, 34, 35, 36, 37, 38, 39, 40, 41, 42, 43, 44, 45, 46, 47]

namespace NodeSet

/-- The set with no member. -/
def none : NodeSet := 0#8

/-- The set of one node. -/
def only (n : NodeId) : NodeSet := 1#8 <<< n.val

/-- Membership. -/
def has (s : NodeSet) (n : NodeId) : Bool := s.getLsbD n.val

/-- The set with one node added. -/
def add (s : NodeSet) (n : NodeId) : NodeSet := s ||| only n

/-- The set with one node taken out. -/
def del (s : NodeSet) (n : NodeId) : NodeSet := s &&& ~~~(only n)

/-- The members in ascending order. -/
def toList (s : NodeSet) : List NodeId := allNodes.filter (has s)

end NodeSet

/-- One 16-byte quarter of a block with its poison mark (00_scope.md). Byte k of the beat is bits
8k + 7 to 8k (12 section 12.1). -/
structure Beat where
  data : BitVec 128
  poison : Bool
  deriving DecidableEq, Repr

/-- A block's data: four beats. -/
abbrev BlockData := Vector Beat 4

namespace BlockData

/-- Four beats of zeros, unmarked. -/
def zero : BlockData := Vector.replicate 4 ⟨0#128, false⟩

/-- R81: the owner-lost block, four beats, every byte zero and every mark set. -/
def ownerLost : BlockData := Vector.replicate 4 ⟨0#128, true⟩

/-- A block with any poisoned beat is a poisoned block (00_scope.md, "Conventions"). -/
def poisoned (d : BlockData) : Bool := d.toList.any (·.poison)

end BlockData

end Sys2Proof
end

