-- ==== Sys2Proof/Syntax.lean ====
section
/-! DEFINITION. The commands of the bridge: one constructor per row of spec/opcode_table.json. -/

namespace Sys2Proof

/-- The two message classes of a Pool Link port (chapter 1). -/
inductive MsgClass where
  | request
  | ret
  deriving DecidableEq, Repr

/-- The two Memory Ports (chapter 7). -/
inductive MPort where
  | mp0
  | mp1
  deriving DecidableEq, Repr

/-- The two causes of a cold reset (R186): the RESET input and the power-up detector. -/
inductive ResetCause where
  | resetInput
  | powerUp
  deriving DecidableEq, Repr

/-- One step of the bridge. A management command has no operand here: its step is the agent's take of
the head of the Control Queue, which carries the sender, the tag and the arguments (R176). -/
inductive Instr where
  /-- MESSAGE_ARRIVAL (R3): a message's words arrive whole at a port in a class. -/
  | messageArrival (port : NodeId) (cls : MsgClass) (words : List Word)
  /-- LINK_UP (R8). -/
  | linkUp (port : NodeId)
  /-- LINK_DOWN (R9). -/
  | linkDown (port : NodeId)
  /-- DEPARTURE (R10). -/
  | departure (port : NodeId)
  /-- INTAKE_TAKE (R13). -/
  | intakeTake
  /-- RETURN_TAKE (R102). -/
  | returnTake (port : NodeId)
  /-- RECALL_DEADLINE_EXPIRY (R66): of the member for `node` in the entry `tt`. -/
  | recallDeadlineExpiry (tt : TTIdx) (node : NodeId)
  /-- MEMORY_ISSUE (R120). -/
  | memoryIssue (mp : MPort)
  /-- MBEAT (R122). The tag and the beat index are as the response names them, in range or not. -/
  | mbeat (mp : MPort) (tag : Nat) (beat : Nat) (data : BitVec 128) (mark : Bool)
  /-- MACK (R130). -/
  | mack (mp : MPort) (tag : Nat)
  /-- MFAULT (R124, R131). -/
  | mfault (mp : MPort) (tag : Nat)
  /-- MREFUSE (R126, R131). -/
  | mrefuse (mp : MPort) (tag : Nat)
  /-- MEMORY_DEADLINE_EXPIRY (R125, R131). -/
  | memoryDeadlineExpiry (mp : MPort) (tag : MemTag)
  /-- READ_NODE (R146). -/
  | readNode
  /-- WRITE_NODE (R146). -/
  | writeNode
  /-- ADMIT_NODE (R138). -/
  | admitNode
  /-- QUIESCE_NODE (R139). -/
  | quiesceNode
  /-- FENCE_NODE (R141). -/
  | fenceNode
  /-- RELEASE_NODE (R144). -/
  | releaseNode
  /-- SET_NOTICE_NODE (R147). -/
  | setNoticeNode
  /-- READ_REGION (R31). -/
  | readRegion
  /-- WRITE_REGION (R32). -/
  | writeRegion
  /-- OPEN_REGION (R33). -/
  | openRegion
  /-- CLOSE_REGION (R34). -/
  | closeRegion
  /-- PROBE_BLOCK (R179). -/
  | probeBlock
  /-- RECLAIM_BLOCK (R180). -/
  | reclaimBlock
  /-- READ_CAPTURE (R172). -/
  | readCapture
  /-- RELEASE_CAPTURE (R173). -/
  | releaseCapture
  /-- READ_STATUS, part GENERAL (R182). -/
  | readStatusGeneral
  /-- READ_STATUS, part JOBS (R183). -/
  | readStatusJobs
  /-- SET_MEMORY_TIMEOUT (R135). -/
  | setMemoryTimeout
  /-- RESET_MEMORY_PORT (R135). -/
  | resetMemoryPort
  /-- RESTART (R184). -/
  | restart
  /-- A CONTROL whose command code names no command (R177). -/
  | badCommandCode
  /-- COLD_RESET (R186): the RESET input asserted, or power applied. -/
  | coldReset (cause : ResetCause)
  /-- COLD_RESET_RELEASE (R186): the RESET input released, or power good reported. -/
  | coldResetRelease (cause : ResetCause)
  /-- TIME_BASE_ADVANCE (R148). -/
  | timeBaseAdvance
  deriving DecidableEq, Repr

end Sys2Proof
end

