-- ==== Sys2Proof/Decode.lean ====
section
/-! DEFINITION. The commands that the table's bits spell: none, for no row of spec/opcode_table.json gives bits. -/

namespace Sys2Proof

/-- The command that a word spells by the table's bits. The table gives no row any bits. -/
def decodeTableWord (_nbits _w : Nat) : Option Instr := none

end Sys2Proof
end

