-- ==== Sys2Proof/Config.lean ====
section
/-! DEFINITION. What holds for every 6240 (00_scope.md "Fixed numbers", 12 section 12.4), and the values the spec leaves open. -/

namespace Sys2Proof.Config

/-- Request Inbox entries per port (R6). -/
def requestCapacity : Nat := 8

/-- Return Inbox entries per port (R6). -/
def returnCapacity : Nat := 4

/-- Control Queue entries (R176). -/
def controlCapacity : Nat := 4

/-- Hold Queue entries (R72). -/
def holdCapacity : Nat := 32

/-- Most records an overflow count shows (R167). -/
def overflowMax : Nat := 15

/-- Largest block number and memory address, 3_FFFF_FFFFh. -/
def maxBlock : Nat := 0x3FFFFFFFF

/-- Largest block count of a region, 4_0000_0000h (R32). -/
def maxCount : Nat := 0x400000000

/-- Cold value of every recall timeout (R150). -/
def coldRecallTimeout : Timeout := 500#12

/-- Cold value of both memory timeouts (R136). -/
def coldMemoryTimeout : Timeout := 1000#12

/-- Most internal actions `settle` makes in one step. MODEL's own bound (log entry 6): every action
starts, advances or retires one piece of admitted work, and a step has far fewer. -/
def settleFuel : Nat := 262144

/-- FREE VALUE (log entry 8): the tag that an UNEXPECTED_RESPONSE capture records when the response
named a tag value outside 0 to 15 (R121, R134, R164). -/
opaque capturedTag (tag : Nat) : MemTag

end Sys2Proof.Config
end

