-- ==== Sys2Proof/Machine/State.lean ====
section
/-! DEFINITION. Everything the spec gives the bridge to hold, as plain data, and the state after cold reset. -/

namespace Sys2Proof.Machine

/-! ### Messages (chapters 1 and 12) -/

/-- A node-to-bridge message as it arrived: its header word and the words behind it. -/
structure InMsg where
  header : Word
  body : List Word
  deriving DecidableEq, Repr

/-- The FAULT reasons (12 section 12.2). -/
inductive FaultReason where
  | nodeLeaving | malformed | noRegion | regionClosed | notTracked | notPermitted | notManager
  | setBusy | ownerConflict | poisoned | writeFailed
  deriving DecidableEq, Repr

/-- The kinds of RECALL (chapter 1). -/
inductive RecallKind where
  | invalidate | downgrade
  deriving DecidableEq, Repr

/-- The CONTROL_REPLY statuses (chapter 11). -/
inductive Status where
  | ok | accepted | busy | badArgument | badState | badCommand
  deriving DecidableEq, Repr

/-- The capture classes, in slot order (chapter 10). -/
inductive CaptureClass where
  | node | memory | dataLoss | directory
  deriving DecidableEq, Repr

/-- The capture reasons (chapter 10, first table). -/
inductive CaptureReason where
  | malformed | creditOverrun | notPermitted | notManager | unexpectedAck | ackMismatch
  | strayWriteback | ownerConflict | recallTimeout | linkLost
  | readFault | readTimeout | writeFault | writeTimeout | portRefused | unexpectedResponse | duplicateBeat
  | ownerLost | absentOwner | writeFailed
  | holderCheck | multipleData
  deriving DecidableEq, Repr

/-- RECOVERED or DATA_LOST (R164). -/
inductive Severity where
  | recovered | dataLost
  deriving DecidableEq, Repr

/-- The outcomes of a job (R151). -/
inductive JobOutcome where
  | completed | abandoned
  deriving DecidableEq, Repr

/-- What a job does and to what (R151). -/
inductive JobKind where
  | closeRegion (r : RegionIdx) (untracked : Bool)
  | quiesceNode (n : NodeId)
  | fenceNode (n : NodeId)
  deriving DecidableEq, Repr

/-- The messages from the bridge to a node (chapter 1, first table). -/
inductive Msg where
  | grantS (tag : ReqTag) (b : Block) (d : BlockData)
  | grantX (tag : ReqTag) (b : Block) (d : BlockData)
  | grantUp (tag : ReqTag) (b : Block)
  | data (tag : ReqTag) (b : Block) (d : BlockData)
  | done (tag : ReqTag) (b : Block)
  | fault (tag : ReqTag) (b : Block) (reason : FaultReason) (retryable : Bool)
  | recall (b : Block) (kind : RecallKind)
  | controlReply (tag : ReqTag) (status : Status) (results : List Word)
  | faultNotice (reason : CaptureReason) (severity : Severity) (overflow : BitVec 4)
  | jobNotice (kind : JobKind) (outcome : JobOutcome)
  | disconnect
  deriving DecidableEq, Repr

/-- The block that queued a message and paces itself by its departure (R10, R11). -/
inductive Producer where
  | tt (i : TTIdx)
  | wb (w : WBIdx)
  | intake
  | agent
  /-- The lock notice of a slot when `escalation` is false, its escalation notice when it is true. -/
  | capture (c : CaptureClass) (escalation : Bool)
  | job (k : JobKind)
  | nodeManager
  deriving DecidableEq, Repr

/-- A message in an Outbound Queue with its producer (R10). -/
structure OutMsg where
  msg : Msg
  producer : Producer
  deriving DecidableEq, Repr

/-! ### Requests -/

/-- The coherent and uncached request kinds. -/
inductive ReqKind where
  | fetchS | fetchX | upgrade | readOnce | writeThru
  deriving DecidableEq, Repr

/-- A WRITE_THRU's byte mask and beats (R57, R72). -/
structure WriteData where
  mask : BitVec 64
  beats : BlockData
  deriving DecidableEq, Repr

/-- A whole coherent or uncached request (R18). -/
structure Request where
  node : NodeId
  tag : ReqTag
  kind : ReqKind
  block : Block
  write : Option WriteData
  deriving DecidableEq, Repr

/-- An entry of the Hold Queue (R72): READY when `ready`, WAITING otherwise. -/
structure HoldEntry where
  req : Request
  ready : Bool
  deriving DecidableEq, Repr

/-- A CONTROL request (R176). -/
structure ControlReq where
  sender : NodeId
  tag : ReqTag
  code : BitVec 8
  args : List Word
  deriving DecidableEq, Repr

/-! ### Ports and nodes (chapters 1 and 8) -/

/-- The link state (R8, R9). -/
inductive LinkState where
  | down | up
  deriving DecidableEq, Repr

/-- A Pool Link port (chapter 1). The link state has its one home here (R137). -/
structure Port where
  requests : List InMsg
  returns : List InMsg
  requestCredits : Nat
  returnCredits : Nat
  outbound : List OutMsg
  link : LinkState
  deriving DecidableEq, Repr

/-- The node states (chapter 8). -/
inductive NodeState where
  | offline | active | quiescing | fenced
  deriving DecidableEq, Repr

/-- Why a node was fenced (R137, R141). -/
inductive FenceReason where
  | control | recallTimeout | linkLost
  deriving DecidableEq, Repr

/-- A record of the Node Table (R137), less the link. -/
structure NodeRec where
  state : NodeState
  manager : Bool
  recallTimeout : Timeout
  fenceReason : Option FenceReason
  fenceJob : Bool
  deriving DecidableEq, Repr

/-! ### The Region Map (chapter 2) -/

/-- The region states. -/
inductive RegionState where
  | closed | coherent | untracked | closing
  deriving DecidableEq, Repr

/-- The poison policies (R30). -/
inductive Policy where
  | deliver | refuse
  deriving DecidableEq, Repr

/-- A region record (chapter 2, first table). -/
structure Region where
  state : RegionState
  base : Block
  count : Nat
  port : MPort
  memBase : MemAddr
  readSet : NodeSet
  writeSet : NodeSet
  policy : Policy
  deriving DecidableEq, Repr

/-- What a lookup in a region that is not CLOSED gives (R23). -/
structure Loc where
  region : RegionIdx
  port : MPort
  addr : MemAddr
  deriving DecidableEq, Repr

/-! ### The Directory (chapter 3) -/

/-- Who holds a block and with what right (R37). An OWNED entry's one holder is its owner. -/
inductive Rights where
  | shared (holders : NodeSet)
  | owned (owner : NodeId)
  deriving DecidableEq, Repr

/-- A directory entry (R37). `failed` is the holder-check status FAILED. -/
structure DirEntry where
  block : Block
  rights : Rights
  failed : Bool
  deriving DecidableEq, Repr

/-- A way of a set (R36). -/
inductive Way where
  | empty
  | held (e : DirEntry)
  | reserved (i : TTIdx) (b : Block)
  deriving DecidableEq, Repr

/-- A set of the Directory with its recency order, most recently granted first (R36, R38). -/
structure DirSet where
  ways : Vector Way 8
  recency : List WayIdx
  deriving DecidableEq, Repr

/-- A set whose ways are all EMPTY. -/
def DirSet.empty : DirSet := ⟨Vector.replicate 8 .empty, []⟩

/-- The Directory: the sets that are not empty, in ascending order (`Directory.wf`). -/
abbrev Directory := List (SetIdx × DirSet)

/-! ### The Transaction Table (chapter 4) -/

/-- The kinds of a TT entry (R57). -/
inductive TTKind where
  | req (k : ReqKind)
  | reclaim
  | poison
  deriving DecidableEq, Repr

/-- Who started an entry (R57). -/
inductive Starter where
  | intake | hold | sweep | control
  deriving DecidableEq, Repr

/-- The two blocks an entry may work on (R59). -/
inductive Role where
  | primary | victim
  deriving DecidableEq, Repr

/-- How far a member's RECALL has gone (R58). -/
inductive SentState where
  | notQueued | queued | departed
  deriving DecidableEq, Repr

/-- A member's status (R58). -/
inductive MemberStatus where
  | awaiting | absorbedWb | absorbedEvict
  deriving DecidableEq, Repr

/-- A member's resolution (R58). -/
inductive Resolution where
  | data | clean | absent | ownerLost
  deriving DecidableEq, Repr

/-- A member of a recall set (R58). The status is kept after the resolution, as R80 reads it. -/
structure Member where
  node : NodeId
  kind : RecallKind
  sent : SentState
  deadline : Option Time
  status : MemberStatus
  resolution : Option Resolution
  deriving DecidableEq, Repr

/-- Where a data buffer's beats came from (R57). -/
inductive DataSource where
  | memory | node | forwarded | absorbed
  deriving DecidableEq, Repr

/-- A data buffer (R57): the beats, a present flag for each, and their source. -/
structure DataBuffer where
  beats : BlockData
  present : BitVec 4
  source : Option DataSource
  deriving DecidableEq, Repr

/-- The buffer at an entry's start: every present flag clear (R57). -/
def DataBuffer.empty : DataBuffer := ⟨BlockData.zero, 0#4, none⟩

/-- A buffer filled whole from one source. -/
def DataBuffer.full (d : BlockData) (src : DataSource) : DataBuffer := ⟨d, 15#4, some src⟩

/-- Every beat present. -/
def DataBuffer.isFull (b : DataBuffer) : Bool := b.present == 15#4

/-- The result of a Directory lookup (R45). -/
inductive LookupResult where
  | held (w : WayIdx) (e : DirEntry)
  | reservedNew (w : WayIdx)
  | victim (w : WayIdx) (e : DirEntry)
  | notHeld
  | setBusy
  deriving DecidableEq, Repr

/-- The victim of an entry (R57): its way and recorded entry, its place in memory, its recall set and
its data buffer. -/
structure Victim where
  way : WayIdx
  entry : DirEntry
  loc : Option Loc
  recalls : List Member
  buffer : DataBuffer
  deriving DecidableEq, Repr

/-- The phases of an entry (R62). -/
inductive Phase where
  | repairing | evicting | recalling | reading | writing | responding
  deriving DecidableEq, Repr

/-- The two kinds of memory operation (R119). -/
inductive OpKind where
  | read | write
  deriving DecidableEq, Repr

/-- An entry's own note of its memory operation (R57): QUEUED without a tag, IN_FLIGHT with one. -/
structure OpNote where
  kind : OpKind
  role : Role
  tag : Option MemTag
  deriving DecidableEq, Repr

/-- A TT entry in use (R57). -/
structure TTEntry where
  kind : TTKind
  starter : Starter
  requester : Option (NodeId × ReqTag)
  orphaned : Bool
  block : Block
  loc : Option Loc
  lookup : Option LookupResult
  victim : Option Victim
  phase : Phase
  recalls : List Member
  buffer : DataBuffer
  write : Option WriteData
  changed : Bool
  memOp : Option OpNote
  held : List (NodeId × Msg)
  /-- R51: the lowest-numbered member of a repair that was resolved at a fence. -/
  repairNote : Option NodeId
  /-- MODEL: the FAULT the entry has decided to answer, if any (R78). -/
  verdict : Option FaultReason
  /-- MODEL: the work that ends a repair's or an eviction's recalls, or the update and the answer of
  RESPONDING, has been done; the phase waits for its write or for its held answer. -/
  opened : Bool
  /-- MODEL: an UPGRADE whose second holder query answered NOT_HOLDER, served as FETCH_X (R91). -/
  upgradeAsX : Bool
  /-- MODEL: the outcome RECLAIMED of a RECLAIM entry (R99). -/
  reclaimed : Bool
  deriving DecidableEq, Repr

/-- An index of the Transaction Table: its pacing marks, which outlive its work (R64), and its work. -/
structure TTSlot where
  pacing : NodeSet
  work : Option TTEntry
  deriving DecidableEq, Repr

/-! ### The Writeback Buffer and the Memory Ports (chapters 6 and 7) -/

/-- The states of a Writeback Buffer entry (chapter 6). -/
inductive WBState where
  | queued | writing | donePending
  deriving DecidableEq, Repr

/-- What a Writeback Buffer entry writes (R114); `second` is attempt 2. -/
structure WBWrite where
  port : MPort
  addr : MemAddr
  beats : BlockData
  second : Bool
  deriving DecidableEq, Repr

/-- A Writeback Buffer entry (R114). -/
structure WBEntry where
  writer : NodeId
  block : Block
  write : Option WBWrite
  fenced : Bool
  state : WBState
  deriving DecidableEq, Repr

/-- The owner of a memory operation (R119). -/
inductive OpOwner where
  | tt (i : TTIdx) (role : Role)
  | wb (w : WBIdx)
  deriving DecidableEq, Repr

/-- A memory operation (R119). `refused` is a READ's refusal count of 1. A WRITE's beats, attempt and
superseded mark have their one home in the Write Order Table, under the same owner (R127). -/
structure MemOp where
  owner : OpOwner
  kind : OpKind
  addr : MemAddr
  refused : Bool
  deriving DecidableEq, Repr

/-- A write of the Write Order Table (R127); `second` is attempt 2. -/
structure WriteRec where
  owner : OpOwner
  addr : MemAddr
  beats : BlockData
  second : Bool
  superseded : Bool
  deriving DecidableEq, Repr

/-- The states of a memory tag (R121). -/
inductive TagState where
  | free
  | inFlight (op : MemOp) (deadline : Time) (got : Vector (Option Beat) 4)
  | stale (kind : OpKind) (got : BitVec 4)
  deriving DecidableEq, Repr

/-- A Memory Port (chapter 7). `writes` is the Write Order Table: all its writes, oldest first; the list
of one address is the sublist of that address (`MemPort.writesAt`). -/
structure MemPort where
  issueQ : List MemOp
  tags : Vector TagState 16
  writes : List WriteRec
  timeout : Timeout
  deriving DecidableEq, Repr

/-! ### The Sweep Engine (chapter 9) -/

/-- A job's notice state in DONE (R151). -/
inductive JobNotice where
  | pending | queued
  deriving DecidableEq, Repr

/-- What a job holds in WALKING (R151). -/
structure Walk where
  pos : SetIdx
  /-- The entries started. -/
  started : List TTIdx
  /-- MODEL: the walk has left set 2047 (R159). -/
  passed : Bool
  /-- MODEL: a reading of the set is due (R154). -/
  due : Bool
  /-- MODEL: the latest reading found unclaimed ways that need a TT entry and have not been granted one, so
  the job is a claimant of the allocator (R155). -/
  wants : Bool
  deriving DecidableEq, Repr

/-- A walk that enters a set reads it at once (R154). -/
def Walk.enter (pos : SetIdx) : Walk := ⟨pos, [], false, true, false⟩

/-- A job's phase with what it holds there (R151). -/
inductive JobPhase where
  | queued
  | draining
  | walking (w : Walk)
  | done (outcome : JobOutcome) (notice : JobNotice)
  deriving DecidableEq, Repr

/-- A job of the Sweep List (R151). -/
structure Job where
  kind : JobKind
  phase : JobPhase
  deriving DecidableEq, Repr

/-! ### The Fault Capture Unit (chapter 10) -/

/-- A capture record (R164). Class and severity are the reason's (`CaptureReason.cls`, `.severity`). -/
structure CaptureRecord where
  reason : CaptureReason
  node : Option NodeId
  block : Option Block
  mem : Option (MPort × MemTag)
  tt : Option TTIdx
  beats : Option (Fin 5)
  stamp : Time
  deriving DecidableEq, Repr

/-- The states of a slot's notice (R169). -/
inductive NoticeState where
  | none | pending | queued | delivered
  deriving DecidableEq, Repr

/-- A capture slot: LOCKED when it has a record (R166, R169). -/
structure CaptureSlot where
  record : Option CaptureRecord
  overflow : BitVec 4
  escalated : Bool
  escalationReason : Option CaptureReason
  lockNotice : NoticeState
  escalationNotice : NoticeState
  outstanding : Bool
  deriving DecidableEq, Repr

/-- An EMPTY slot (R175). -/
def CaptureSlot.empty : CaptureSlot := ⟨none, 0#4, false, none, .none, .none, false⟩

/-! ### The Management Agent (chapter 11) -/

/-- A RECLAIM_BLOCK in progress (R180). -/
structure ReclaimCmd where
  sender : NodeId
  tag : ReqTag
  block : Block
  deriving DecidableEq, Repr

/-- The agent's state and its command in progress (chapter 11). -/
inductive AgentState where
  | ready
  | waiting (c : ReclaimCmd)
  | reclaiming (c : ReclaimCmd) (i : TTIdx)
  | replyPending
  deriving DecidableEq, Repr

/-! ### Inputs and outputs -/

/-- What one step takes from outside beside its command (log entry 5): for each Directory lookup of the
step that reads a HELD way, in turn, whether it meets a holder-check failure (R50; none where the list
has ended), and which TT entries act first where several can (the rest follow in ascending order). -/
structure StepInput where
  checks : List Bool
  order : List TTIdx
  deriving DecidableEq, Repr

/-- The input of a step with no holder-check failure and entries acting in ascending order. -/
def StepInput.plain : StepInput := ⟨[], []⟩

/-- What the bridge drives on its links in a step (log entry 4). -/
inductive OutEvent where
  /-- A message delivered to a node, as its words (R10, R190). -/
  | deliver (port : NodeId) (words : List Word)
  /-- A message lost because it departed while the link was DOWN (R10). -/
  | lost (port : NodeId)
  /-- Credits returned to a node (R5, R6). -/
  | credits (port : NodeId) (cls : MsgClass) (count : Nat)
  /-- MREAD (R120). -/
  | mread (mp : MPort) (tag : MemTag) (addr : MemAddr)
  /-- MWRITE (R120). -/
  | mwrite (mp : MPort) (tag : MemTag) (addr : MemAddr) (beats : BlockData)
  deriving DecidableEq, Repr

/-! ### The whole state -/

/-- Everything the bridge holds, the queue of commands waiting for it, and the model's inputs and outputs. -/
structure State where
  /-- MODEL: the commands that wait, first in, first out. -/
  pending : List Instr
  /-- MODEL: the inputs of the steps to come, one for each command (log entry 5). -/
  inputs : List StepInput
  /-- MODEL: what is left of the current step's input. -/
  now : StepInput
  /-- MODEL: what the last step drove on the links (log entry 4). -/
  out : List OutEvent
  resetAsserted : Bool
  powerGood : Bool
  timeBase : Time
  noticeNode : NodeId
  intakePos : NodeId
  refusalMarks : NodeSet
  ports : Vector Port 8
  nodes : Vector NodeRec 8
  regions : Vector Region 16
  dir : Directory
  tt : Vector TTSlot 48
  hold : List HoldEntry
  wb : Vector (Option WBEntry) 8
  mp0 : MemPort
  mp1 : MemPort
  jobs : List Job
  slots : Vector CaptureSlot 4
  agent : AgentState
  controlQ : List ControlReq
  deriving DecidableEq, Repr

/-- A port after cold reset (R21). -/
def Port.cold : Port := ⟨[], [], 0, 0, [], .down⟩

/-- A node record after cold reset (R150): the manager flag is set for node 0 alone. -/
def NodeRec.cold (manager : Bool) : NodeRec := ⟨.offline, manager, Config.coldRecallTimeout, none, false⟩

/-- A region record after cold reset (R35). -/
def Region.cold : Region := ⟨.closed, 0#34, 0, .mp0, 0#34, NodeSet.none, NodeSet.none, .deliver⟩

/-- A free TT index with clear pacing marks (R77). -/
def TTSlot.cold : TTSlot := ⟨NodeSet.none, none⟩

/-- A Memory Port after cold reset (R136). -/
def MemPort.cold : MemPort := ⟨[], Vector.replicate 16 .free, [], Config.coldMemoryTimeout⟩

/-- R186, R187: every piece of state at its cold-reset value, with the reset released (log entry 1). -/
def State.reset : State where
  pending := []
  inputs := []
  now := StepInput.plain
  out := []
  resetAsserted := false
  powerGood := true
  timeBase := 0#32
  noticeNode := 0
  intakePos := 7
  refusalMarks := NodeSet.none
  ports := Vector.replicate 8 Port.cold
  nodes := (Vector.replicate 8 (NodeRec.cold false)).set 0 (NodeRec.cold true)
  regions := Vector.replicate 16 Region.cold
  dir := []
  tt := Vector.replicate 48 TTSlot.cold
  hold := []
  wb := Vector.replicate 8 none
  mp0 := MemPort.cold
  mp1 := MemPort.cold
  jobs := []
  slots := Vector.replicate 4 CaptureSlot.empty
  agent := .ready
  controlQ := []

/-! ### Stops -/

/-- The faults of the machine: none. Every fault the spec describes is answered, captured and gone on
from, so no step of the bridge stops it; safe. -/
inductive Fault where
  deriving DecidableEq, Repr

/-- The refusals of the machine. -/
inductive Refusal where
  /-- A command without a meaning, rejected by name in exec's arm; safe. No arm does so. -/
  | notModelled (mnemonic : String)
  deriving DecidableEq, Repr

end Sys2Proof.Machine
end

