-- ==== Sys2Proof/Machine/Operands.lean ====
section
/-! DEFINITION. Reading the fields of messages and command arguments, and writing messages and results as words (chapter 12). -/

namespace Sys2Proof.Machine

/-- Bits `lo + w - 1` to `lo` of a word. -/
def field (x : Word) (lo w : Nat) : BitVec w := x.extractLsb' lo w

/-- A value placed at bit `lo` of a word. -/
def place (lo : Nat) (v : Nat) : Word := BitVec.ofNat 32 v <<< lo

/-- A flag at bit `lo` of a word: 1 is set or UP. -/
def placeBit (lo : Nat) (b : Bool) : Word := place lo b.toNat

/-! ### Node-to-bridge messages (R2, R189) -/

/-- The message whose words arrived; none where there is no header word. -/
def InMsg.ofWords : List Word → Option InMsg
  | [] => none
  | h :: rest => some ⟨h, rest⟩

/-- The nine node-to-bridge kinds (chapter 1). -/
inductive InKind where
  | req (k : ReqKind)
  | control | writeback | evictClean | recallAck
  deriving DecidableEq, Repr

/-- The kind codes of chapter 12's first table. Every other code, a bridge-to-node one among them, is no kind of a
node-to-bridge message (R189). -/
def InKind.ofCode (c : BitVec 5) : Option InKind :=
  match c.toNat with
  | 0x01 => some (.req .fetchS)
  | 0x02 => some (.req .fetchX)
  | 0x03 => some (.req .upgrade)
  | 0x04 => some (.req .readOnce)
  | 0x05 => some (.req .writeThru)
  | 0x06 => some .control
  | 0x09 => some .writeback
  | 0x0A => some .evictClean
  | 0x0B => some .recallAck
  | _ => none

/-- The class a kind belongs to (chapter 1). -/
def InKind.cls : InKind → MsgClass
  | .req _ => .request
  | .control => .request
  | _ => .ret

/-- Every kind but CONTROL has a block field (chapter 1, section 1.1). -/
def InKind.hasBlock : InKind → Bool
  | .control => false
  | _ => true

/-- The tag: header bits 7:0. -/
def InMsg.tag (m : InMsg) : ReqTag := field m.header 0 8

/-- The kind as received: header bits 12:8. -/
def InMsg.kind (m : InMsg) : Option InKind := InKind.ofCode (field m.header 8 5)

/-- The qualifier: header bits 15:13. -/
def InMsg.qualifier (m : InMsg) : Nat := (field m.header 13 3).toNat

/-- The detail: header bits 23:16. -/
def InMsg.detail (m : InMsg) : BitVec 8 := field m.header 16 8

/-- The count: header bits 31:28. -/
def InMsg.count (m : InMsg) : Nat := (field m.header 28 4).toNat

/-- The message's length in words. -/
def InMsg.length (m : InMsg) : Nat := m.body.length + 1

/-- Word `n` of the message, word 0 being the header. -/
def InMsg.word (m : InMsg) (n : Nat) : Word := (m.header :: m.body).getD n 0#32

/-- The block field where the kind as received has one and it holds a value within 0 to 3_FFFF_FFFFh:
header bits 27:26 zero, bits 25:24 above word 1 (R1, R189). A message without a word 1 has none (log entry 9), and so has
one whose kind code is none of the nine, a bridge-to-node kind that carries a block among them: DESIGN CHOICE, R1 does not
say whether such a kind as received has a block field (log entry 27). -/
def InMsg.block (m : InMsg) : Option Block :=
  match m.kind with
  | none => none
  | some k =>
    if k.hasBlock && 2 ≤ m.length && field m.header 26 2 == 0#2
    then some (field m.header 24 2 ++ m.word 1) else none

/-- The length in words that the first table of chapter 12 gives for a kind, qualifier and count. -/
def InMsg.expectedLength (m : InMsg) : InKind → Nat
  | .req .writeThru => 21
  | .req _ => 2
  | .control => 2 + m.count
  | .writeback => 19
  | .evictClean => 2
  | .recallAck => if m.qualifier = 0 then 19 else 2

/-- A WRITE_THRU's byte mask: words 2 and 3 (12 section 12.1). -/
def InMsg.mask (m : InMsg) : BitVec 64 := m.word 3 ++ m.word 2

/-- R2, R189: a message of a class is well formed when none of the cases holds. -/
def InMsg.wellFormed (m : InMsg) (cls : MsgClass) : Bool :=
  match m.kind with
  | none => false
  | some k =>
    k.cls == cls && (!k.hasBlock || field m.header 26 2 == 0#2) && m.length == m.expectedLength k &&
    (k != .req .writeThru || m.mask != 0#64) && (k != .control || m.count ≤ 6) &&
    (k != .recallAck || m.qualifier ≤ 2)

/-- The four beats of a message whose mark word is word `w` (12 section 12.1). -/
def InMsg.beatsAt (m : InMsg) (w : Nat) : BlockData :=
  let beat (b : Nat) : Beat :=
    ⟨m.word (w + 4 * b + 4) ++ m.word (w + 4 * b + 3) ++ m.word (w + 4 * b + 2) ++ m.word (w + 4 * b + 1),
      (m.word w).getLsbD b⟩
  #v[beat 0, beat 1, beat 2, beat 3]

/-- The result of a RECALL_ACK with its beats (chapter 1, section 1.1). -/
inductive AckResult where
  | data (d : BlockData)
  | clean
  | absent
  deriving DecidableEq, Repr

/-- A message after the check of form. -/
inductive Parsed where
  | malformed
  | req (k : ReqKind) (b : Block) (w : Option WriteData)
  | control (code : BitVec 8) (args : List Word)
  | writeback (b : Block) (d : BlockData)
  | evictClean (b : Block)
  | recallAck (b : Block) (r : AckResult)
  deriving DecidableEq, Repr

/-- A message of a class, read as chapter 12 lays it out. -/
def InMsg.parse (m : InMsg) (cls : MsgClass) : Parsed :=
  if m.wellFormed cls then
    let b := m.block.getD 0#34
    match m.kind with
    | none => .malformed
    | some (.req .writeThru) => .req .writeThru b (some ⟨m.mask, m.beatsAt 4⟩)
    | some (.req k) => .req k b none
    | some .control => .control m.detail (m.body.drop 1)
    | some .writeback => .writeback b (m.beatsAt 2)
    | some .evictClean => .evictClean b
    | some .recallAck =>
      if m.qualifier = 0 then .recallAck b (.data (m.beatsAt 2))
      else if m.qualifier = 1 then .recallAck b .clean else .recallAck b .absent
  else .malformed

/-! ### Codes (12 section 12.2) -/

def FaultReason.code : FaultReason → Nat
  | .nodeLeaving => 0x01 | .malformed => 0x02 | .noRegion => 0x03 | .regionClosed => 0x04
  | .notTracked => 0x05 | .notPermitted => 0x06 | .notManager => 0x07 | .setBusy => 0x08
  | .ownerConflict => 0x09 | .poisoned => 0x0A | .writeFailed => 0x0B

def Status.code : Status → Nat
  | .ok => 0 | .accepted => 1 | .busy => 2 | .badArgument => 3 | .badState => 4 | .badCommand => 5

/-- A class's slot number, which is also its code. -/
def CaptureClass.index : CaptureClass → Fin 4
  | .node => 0 | .memory => 1 | .dataLoss => 2 | .directory => 3

/-- The classes in slot order. -/
def allClasses : List CaptureClass := [.node, .memory, .dataLoss, .directory]

/-- The class of a reason (chapter 10, first table). -/
def CaptureReason.cls : CaptureReason → CaptureClass
  | .malformed | .creditOverrun | .notPermitted | .notManager | .unexpectedAck | .ackMismatch => .node
  | .strayWriteback | .ownerConflict | .recallTimeout | .linkLost => .node
  | .readFault | .readTimeout | .writeFault | .writeTimeout => .memory
  | .portRefused | .unexpectedResponse | .duplicateBeat => .memory
  | .ownerLost | .absentOwner | .writeFailed => .dataLoss
  | .holderCheck | .multipleData => .directory

/-- The severity of a reason (chapter 10, first table). -/
def CaptureReason.severity (r : CaptureReason) : Severity :=
  if r.cls = .dataLoss ∨ r = .multipleData then .dataLost else .recovered

def CaptureReason.code : CaptureReason → Nat
  | .malformed => 1 | .creditOverrun => 2 | .notPermitted => 3 | .notManager => 4 | .unexpectedAck => 5
  | .ackMismatch => 6 | .strayWriteback => 7 | .ownerConflict => 8 | .recallTimeout => 9 | .linkLost => 10
  | .readFault => 1 | .readTimeout => 2 | .writeFault => 3 | .writeTimeout => 4 | .portRefused => 5
  | .unexpectedResponse => 6 | .duplicateBeat => 7
  | .ownerLost => 1 | .absentOwner => 2 | .writeFailed => 3
  | .holderCheck => 1 | .multipleData => 2

def NodeState.code : NodeState → Nat
  | .offline => 0 | .active => 1 | .quiescing => 2 | .fenced => 3

def RegionState.code : RegionState → Nat
  | .closed => 0 | .coherent => 1 | .untracked => 2 | .closing => 3

def fenceReasonCode : Option FenceReason → Nat
  | none => 0 | some .control => 1 | some .recallTimeout => 2 | some .linkLost => 3

/-- The code of a memory port. -/
def portCodeOf : MPort → Nat
  | .mp0 => 0 | .mp1 => 1

/-- The memory port a code names. -/
def portOfCode (c : Nat) : Option MPort := if c = 0 then some .mp0 else if c = 1 then some .mp1 else none

def Policy.code : Policy → Nat
  | .deliver => 0 | .refuse => 1

/-- The poison policy a code names. -/
def Policy.ofCode (c : Nat) : Option Policy := if c = 0 then some .deliver else if c = 1 then some .refuse else none

/-- The state an OPEN_REGION mode code names. -/
def openMode (c : Nat) : Option RegionState := if c = 1 then some .coherent else if c = 2 then some .untracked else none

def JobKind.code : JobKind → Nat
  | .closeRegion _ _ => 0 | .quiesceNode _ => 1 | .fenceNode _ => 2

/-- A job's target: a region index or a node. -/
def JobKind.target : JobKind → Nat
  | .closeRegion r _ => r.val | .quiesceNode n => n.val | .fenceNode n => n.val

def JobPhase.code : JobPhase → Nat
  | .queued => 0 | .draining => 1 | .walking _ => 2 | .done _ _ => 3

def NoticeState.code : NoticeState → Nat
  | .none => 0 | .pending => 1 | .queued => 2 | .delivered => 3

/-! ### Bridge-to-node messages (R190) -/

/-- Word 0 of a message. -/
def headerWord (tag : ReqTag) (kind qualifier detail blockHi count : Nat) : Word :=
  tag.zeroExtend 32 ||| place 8 kind ||| place 13 qualifier ||| place 16 detail ||| place 24 blockHi ||| place 28 count

/-- The two words that open a message about a block. -/
def blockWords (tag : ReqTag) (kind qualifier detail : Nat) (b : Block) : List Word :=
  [headerWord tag kind qualifier detail (b.extractLsb' 32 2).toNat 0, b.extractLsb' 0 32]

/-- The mark word and the sixteen data words (12 section 12.1). -/
def dataWords (d : BlockData) : List Word :=
  (placeBit 0 d[0].poison ||| placeBit 1 d[1].poison ||| placeBit 2 d[2].poison ||| placeBit 3 d[3].poison) ::
    d.toList.flatMap fun b =>
      [b.data.extractLsb' 0 32, b.data.extractLsb' 32 32, b.data.extractLsb' 64 32, b.data.extractLsb' 96 32]

/-- A bridge-to-node message as its words (chapter 12); every field its kind leaves unused is zero (R190). -/
def Msg.words : Msg → List Word
  | .grantS tag b d => blockWords tag 0x11 0 0 b ++ dataWords d
  | .grantX tag b d => blockWords tag 0x12 0 0 b ++ dataWords d
  | .grantUp tag b => blockWords tag 0x13 0 0 b
  | .data tag b d => blockWords tag 0x14 0 0 b ++ dataWords d
  | .done tag b => blockWords tag 0x15 0 0 b
  | .fault tag b reason retryable => blockWords tag 0x16 retryable.toNat reason.code b
  | .recall b kind => blockWords 0#8 0x18 (match kind with | .invalidate => 0 | .downgrade => 1) 0 b
  | .controlReply tag status results => [headerWord tag 0x19 0 status.code 0 results.length, 0#32] ++ results
  | .faultNotice reason severity overflow =>
    [headerWord 0#8 0x1A 0 0 0 0, 0#32,
      place 0 reason.cls.index.val ||| placeBit 2 (severity == .dataLost) ||| place 4 reason.code |||
        place 8 overflow.toNat]
  | .jobNotice kind outcome =>
    [headerWord 0#8 0x1A 1 0 0 0, 0#32,
      place 0 kind.code ||| place 4 kind.target ||| placeBit 8 (outcome == .abandoned)]
  | .disconnect => [headerWord 0#8 0x1F 0 0 0 0, 0#32]

/-! ### Command arguments (12 section 12.3) -/

/-- Argument word `n` of a command. -/
def ControlReq.arg (c : ControlReq) (n : Nat) : Word := c.args.getD n 0#32

/-- The index in bits 7:0 of the first argument word: a node, region, slot, memory port or part. -/
def ControlReq.index (c : ControlReq) : Nat := (field (c.arg 0) 0 8).toNat

/-- The node an index names. -/
def nodeOf (n : Nat) : Option NodeId := if h : n < 8 then some ⟨n, h⟩ else none

/-- The region an index names. -/
def regionOf (n : Nat) : Option RegionIdx := if h : n < 16 then some ⟨n, h⟩ else none

/-- The slot class an index names (R172). -/
def slotOf (n : Nat) : Option CaptureClass :=
  if n = 0 then some .node else if n = 1 then some .memory else if n = 2 then some .dataLoss
  else if n = 3 then some .directory else none

/-- The timeout in bits 31:16 of the first argument word, where it is 1 to 4095. -/
def ControlReq.timeout (c : ControlReq) : Option Timeout :=
  let t := (field (c.arg 0) 16 16).toNat
  if 1 ≤ t ∧ t ≤ 4095 then some (BitVec.ofNat 12 t) else none

/-- WRITE_NODE's manager flag, bit 8. -/
def ControlReq.managerFlag (c : ControlReq) : Bool := (c.arg 0).getLsbD 8

/-- OPEN_REGION's mode code, bits 11:8. -/
def ControlReq.mode (c : ControlReq) : Nat := (field (c.arg 0) 8 4).toNat

/-- The 40-bit block argument of PROBE_BLOCK and RECLAIM_BLOCK, where it is at most 3_FFFF_FFFFh. -/
def ControlReq.blockArg (c : ControlReq) : Option Block :=
  let b := (field (c.arg 1) 0 8 ++ c.arg 0).toNat
  if b ≤ Config.maxBlock then some (BitVec.ofNat 34 b) else none

/-- WRITE_REGION's base block, words 1 and 2. -/
def ControlReq.baseArg (c : ControlReq) : Nat := (field (c.arg 2) 0 8 ++ c.arg 1).toNat

/-- WRITE_REGION's block count, words 2 and 3. -/
def ControlReq.countArg (c : ControlReq) : Nat := (field (c.arg 2) 8 8 ++ c.arg 3).toNat

/-- WRITE_REGION's memory base, words 2 and 4. -/
def ControlReq.memBaseArg (c : ControlReq) : Nat := (field (c.arg 2) 16 8 ++ c.arg 4).toNat

/-- WRITE_REGION's memory port code, bits 11:8 of word 0. -/
def ControlReq.portCode (c : ControlReq) : Nat := (field (c.arg 0) 8 4).toNat

/-- WRITE_REGION's poison policy code, bits 15:12 of word 0. -/
def ControlReq.policyCode (c : ControlReq) : Nat := (field (c.arg 0) 12 4).toNat

/-- WRITE_REGION's read set, bits 23:16 of word 0. -/
def ControlReq.readSetArg (c : ControlReq) : NodeSet := field (c.arg 0) 16 8

/-- WRITE_REGION's write set, bits 31:24 of word 0. -/
def ControlReq.writeSetArg (c : ControlReq) : NodeSet := field (c.arg 0) 24 8

/-- The nineteen commands by code, with the argument words each takes (12 section 12.3). -/
def commandArgs (code : BitVec 8) : Option Nat :=
  match code.toNat with
  | 0x01 => some 1 | 0x02 => some 1 | 0x03 => some 1 | 0x04 => some 1 | 0x05 => some 1 | 0x06 => some 1
  | 0x07 => some 1 | 0x08 => some 1 | 0x09 => some 5 | 0x0A => some 1 | 0x0B => some 1 | 0x0C => some 2
  | 0x0D => some 2 | 0x0E => some 1 | 0x0F => some 1 | 0x10 => some 1 | 0x11 => some 1 | 0x12 => some 1
  | 0x13 => some 0
  | _ => none

/-! ### Command results (12 section 12.3) -/

/-- READ_NODE's result word. -/
def nodeWords (link : LinkState) (r : NodeRec) : List Word :=
  [place 0 r.state.code ||| placeBit 2 (link == .up) ||| placeBit 3 r.manager ||| place 4 (fenceReasonCode r.fenceReason) |||
    placeBit 6 r.fenceJob ||| place 16 r.recallTimeout.toNat]

/-- READ_REGION's result words. -/
def regionWords (i : RegionIdx) (r : Region) : List Word :=
  [place 0 i.val ||| place 8 (portCodeOf r.port) ||| place 12 r.policy.code ||| place 16 r.readSet.toNat |||
      place 24 r.writeSet.toNat,
    r.base.extractLsb' 0 32,
    place 0 (r.base.toNat / 2 ^ 32) ||| place 8 (r.count / 2 ^ 32) ||| place 16 (r.memBase.toNat / 2 ^ 32) |||
      place 24 r.state.code,
    BitVec.ofNat 32 r.count,
    r.memBase.extractLsb' 0 32]

/-- The presence bits and the fields of a capture record: READ_CAPTURE's words 1 to 3. An absent field
reads zero (log entry 10). -/
def recordWords (r : CaptureRecord) : List Word :=
  [placeBit 0 r.node.isSome ||| placeBit 1 r.block.isSome ||| placeBit 2 r.mem.isSome ||| placeBit 3 r.tt.isSome |||
      placeBit 4 r.beats.isSome ||| place 8 (r.node.map (·.val)|>.getD 0) |||
      place 11 (r.mem.map (fun p => portCodeOf p.1)|>.getD 0) ||| place 12 (r.mem.map (·.2.val)|>.getD 0) |||
      place 16 (r.tt.map (·.val)|>.getD 0) ||| place 24 (r.beats.map (·.val)|>.getD 0) |||
      place 28 ((r.block.getD 0#34).toNat / 2 ^ 32),
    (r.block.getD 0#34).extractLsb' 0 32,
    r.stamp]

/-- READ_CAPTURE's result words: an EMPTY slot returns zero apart from the outstanding mark. -/
def slotWords (s : CaptureSlot) : List Word :=
  match s.record with
  | none => [placeBit 24 s.outstanding, 0#32, 0#32, 0#32]
  | some r =>
    (placeBit 0 true ||| place 2 r.reason.cls.index.val ||| place 4 r.reason.code |||
      placeBit 8 (r.reason.severity == .dataLost) ||| placeBit 9 s.escalated |||
      place 12 (s.escalationReason.map (·.code)|>.getD 0) ||| place 16 s.overflow.toNat |||
      place 20 s.lockNotice.code ||| place 22 s.escalationNotice.code ||| placeBit 24 s.outstanding) :: recordWords r

/-- A job's half-word in READ_STATUS JOBS. -/
def Job.halfWord (j : Job) : Nat :=
  j.kind.code + 4 * j.kind.target + 64 * j.phase.code +
    (match j.phase with
      | .done o n => 256 * (o == .abandoned).toNat + 512 * (n == .queued).toNat
      | _ => 0)

/-- READ_STATUS JOBS' result words (R162, R183). -/
def jobWords (jobs : List Job) : List Word :=
  let walk := (jobs.findSome? fun j => match j.phase with | .walking w => some w.pos.val | _ => none).getD 0
  let half (n : Nat) : Nat := (jobs[n]?.map Job.halfWord).getD 0
  (place 0 jobs.length ||| place 16 walk) ::
    [0, 1, 2, 3, 4].map fun k => place 0 (half (2 * k)) ||| place 16 (half (2 * k + 1))

end Sys2Proof.Machine
end

