-- ==== Sys2Proof/Machine/Flags.lean ====
section
/-! DEFINITION. Reading the state: the records by name, the claims, the lookups and the conditions that the blocks test. -/

namespace Sys2Proof.Machine

/-! ### Records by name -/

def State.port (s : State) (n : NodeId) : Port := s.ports[n]
def State.node (s : State) (n : NodeId) : NodeRec := s.nodes[n]
def State.region (s : State) (r : RegionIdx) : Region := s.regions[r]
def State.slot (s : State) (c : CaptureClass) : CaptureSlot := s.slots[c.index]
def State.ttSlot (s : State) (i : TTIdx) : TTSlot := s.tt[i]
/-- The work of a TT index, none when it is free. -/
def State.entry (s : State) (i : TTIdx) : Option TTEntry := (s.ttSlot i).work
def State.wbEntry (s : State) (w : WBIdx) : Option WBEntry := s.wb[w]
def State.mp (s : State) : MPort → MemPort
  | .mp0 => s.mp0
  | .mp1 => s.mp1

/-- R186: the bridge runs while the RESET input is released and power is good. -/
def State.running (s : State) : Bool := !s.resetAsserted && s.powerGood

/-- The node is ACTIVE or QUIESCING: its port counts credits (R3) and it may be fenced (R141). -/
def NodeState.counted : NodeState → Bool
  | .active | .quiescing => true
  | _ => false

/-- R147: the notice node is reachable while its link is UP and it is not FENCED. -/
def State.reachable (s : State) : Bool :=
  (s.port s.noticeNode).link == .up && (s.node s.noticeNode).state != .fenced

/-- R66, R125, R148: the time base has reached a deadline. A deadline lies at most 4095 ahead when it is
set, so the difference modulo 2^32 tells reached from still to come (log entry 7). -/
def State.reached (s : State) (deadline : Time) : Bool := (s.timeBase - deadline).toNat < 2 ^ 31

/-! ### The Region Map (R22, R23) -/

/-- R22: the record contains the block. -/
def Region.contains (r : Region) (b : Block) : Bool :=
  r.base.toNat ≤ b.toNat && b.toNat < r.base.toNat + r.count

/-- R23: the memory address of a block of the region. -/
def Region.address (r : Region) (b : Block) : MemAddr :=
  BitVec.ofNat 34 (r.memBase.toNat + (b.toNat - r.base.toNat))

/-- The outcome of a lookup (R23). -/
inductive MapResult where
  | region (l : Loc) (state : RegionState)
  | closedRegion (r : RegionIdx)
  | noRegion
  deriving DecidableEq, Repr

/-- R22: first the records that are not CLOSED, then the lowest-numbered CLOSED record that contains the
block; a record of block count 0 contains none. -/
def State.mapLookup (s : State) (b : Block) : MapResult :=
  match allRegions.find? fun r => (s.region r).state != .closed && (s.region r).contains b with
  | some r => .region ⟨r, (s.region r).port, (s.region r).address b⟩ (s.region r).state
  | none =>
    match allRegions.find? fun r => (s.region r).state == .closed && (s.region r).contains b with
    | some r => .closedRegion r
    | none => .noRegion

/-- Where a block is stored, for a block of a region that is not CLOSED. -/
def State.locate (s : State) (b : Block) : Option Loc :=
  match s.mapLookup b with
  | .region l _ => some l
  | _ => none

/-- R25, R27: the block lies in a COHERENT or CLOSING region, whose blocks the Directory tracks. -/
def State.tracked (s : State) (b : Block) : Bool :=
  match s.mapLookup b with
  | .region _ .coherent => true
  | .region _ .closing => true
  | _ => false

/-- R17, R29: the request kinds governed by the read set; the others are governed by the write set. -/
def ReqKind.reads : ReqKind → Bool
  | .fetchS | .readOnce => true
  | _ => false

/-- R17: the kinds that an UNTRACKED region admits. -/
def ReqKind.uncached : ReqKind → Bool
  | .readOnce | .writeThru => true
  | _ => false

/-- The outcome of the region checks. -/
inductive RegionCheck where
  | pass (l : Loc)
  | fail (reason : FaultReason)
  deriving DecidableEq, Repr

/-- Steps 3 to 5 of R17, which are also steps 1 to 3 of R74. -/
def State.regionCheck (s : State) (n : NodeId) (k : ReqKind) (b : Block) : RegionCheck :=
  match s.mapLookup b with
  | .noRegion => .fail .noRegion
  | .closedRegion _ => .fail .regionClosed
  | .region _ .closed => .fail .regionClosed
  | .region _ .closing => .fail .regionClosed
  | .region l st =>
    if st = .untracked ∧ k.uncached = false then .fail .notTracked
    else
      let r := s.region l.region
      if NodeSet.has (if k.reads then r.readSet else r.writeSet) n then .pass l else .fail .notPermitted

/-! ### Claims (R59) -/

/-- The block an entry claims in a role. -/
def TTEntry.blockOf (e : TTEntry) : Role → Option Block
  | .primary => some e.block
  | .victim => e.victim.map (·.entry.block)

/-- The role in which an entry claims a block, if it does. -/
def TTEntry.claims (e : TTEntry) (b : Block) : Option Role :=
  if e.blockOf .primary = some b then some .primary
  else if e.blockOf .victim = some b then some .victim
  else none

/-- R59: the entry that claims a block, with its role. -/
def State.claimant (s : State) (b : Block) : Option (TTIdx × Role) :=
  allTT.findSome? fun i => (s.entry i).bind fun e => (e.claims b).map fun r => (i, r)

def State.claimed (s : State) (b : Block) : Bool := (s.claimant b).isSome

/-- The recall set of an entry for the block of a role (R108). -/
def TTEntry.recallsOf (e : TTEntry) : Role → List Member
  | .primary => e.recalls
  | .victim => (e.victim.map (·.recalls)).getD []

/-- The data buffer of an entry for the block of a role (R105). -/
def TTEntry.bufferOf (e : TTEntry) : Role → DataBuffer
  | .primary => e.buffer
  | .victim => (e.victim.map (·.buffer)).getD .empty

/-- The place in memory of the block of a role (R63). -/
def TTEntry.locOf (e : TTEntry) : Role → Option Loc
  | .primary => e.loc
  | .victim => e.victim.bind (·.loc)

def Member.resolved (m : Member) : Bool := m.resolution.isSome

/-- R58: a recall set is fully resolved when every member is. -/
def fullyResolved (ms : List Member) : Bool := ms.all (·.resolved)

/-- The unresolved member for a node in the recall set of a role. -/
def TTEntry.openMember (e : TTEntry) (r : Role) (n : NodeId) : Option Member :=
  (e.recallsOf r).find? fun m => m.node == n && !m.resolved

/-- The entry's lookup of its primary block read a FAILED way (R61). -/
def TTEntry.primaryFailed (e : TTEntry) : Bool :=
  match e.lookup with
  | some (.held _ d) => d.failed
  | _ => false

/-- R108, R112: the recall set of the role is a repair's. -/
def TTEntry.repairs (e : TTEntry) : Role → Bool
  | .primary => e.phase == .repairing
  | .victim => (e.victim.map (·.entry.failed)).getD false

/-- The holders recorded in an entry (R37). -/
def Rights.holders : Rights → NodeSet
  | .shared hs => hs
  | .owned o => NodeSet.only o

/-- The owner recorded in an entry (R37). -/
def Rights.owner : Rights → Option NodeId
  | .shared _ => none
  | .owned o => some o

/-- The directory entry that the entry's lookup recorded for the block of a role. -/
def TTEntry.recorded (e : TTEntry) : Role → Option DirEntry
  | .primary => match e.lookup with
    | some (.held _ d) => some d
    | _ => none
  | .victim => e.victim.map (·.entry)

/-- R109: the node that the entry's lookup recorded as owner of the block of a role. -/
def TTEntry.ownerOf (e : TTEntry) (r : Role) : Option NodeId := (e.recorded r).bind (·.rights.owner)

/-! ### Reading the Directory (R36, R42, R55) -/

/-- R36: a block's set is its block number modulo 2048. -/
def setOf (b : Block) : SetIdx := Fin.ofNat 2048 b.toNat

/-- A set of the Directory; a set that is not listed is empty. -/
def Directory.get (d : Directory) (k : SetIdx) : DirSet :=
  match d with
  | [] => DirSet.empty
  | (j, v) :: rest => if j = k then v else Directory.get rest k

def State.dirSet (s : State) (k : SetIdx) : DirSet := Directory.get s.dir k

def DirSet.way (ds : DirSet) (w : WayIdx) : Way := ds.ways[w]

/-- The entry of a HELD way. -/
def Way.entry? : Way → Option DirEntry
  | .held e => some e
  | _ => none

/-- The HELD way of a block with its entry. -/
def DirSet.findHeld (ds : DirSet) (b : Block) : Option (WayIdx × DirEntry) :=
  allWays.findSome? fun w => (ds.way w).entry?.bind fun e => if e.block = b then some (w, e) else none

/-- The way that a TT index has reserved. -/
def DirSet.findReserved (ds : DirSet) (i : TTIdx) : Option WayIdx :=
  allWays.find? fun w => match ds.way w with | .reserved j _ => j == i | _ => false

/-- R46: the lowest-numbered EMPTY way. -/
def DirSet.firstEmpty (ds : DirSet) : Option WayIdx := allWays.find? fun w => ds.way w == .empty

/-- The directory entry of a block. -/
def State.dirEntry (s : State) (b : Block) : Option DirEntry := ((s.dirSet (setOf b)).findHeld b).map (·.2)

/-- R42: where a node stands. -/
inductive Standing where
  | owner | sharer | notHolder | underRepair
  deriving DecidableEq, Repr

/-- R42: the answer to a holder query. -/
def State.standing (s : State) (n : NodeId) (b : Block) : Standing :=
  match s.dirEntry b with
  | none => .notHolder
  | some e =>
    if e.failed then .underRepair
    else match e.rights with
      | .owned o => if o = n then .owner else .notHolder
      | .shared hs => if hs.has n then .sharer else .notHolder

/-- The set is in the canonical form: it is listed, in ascending order, only if it is not empty. -/
def Directory.wf (d : Directory) : Bool :=
  match d with
  | [] => true
  | (k, v) :: rest => v != DirSet.empty && rest.all (fun p => decide (k < p.1)) && Directory.wf rest

/-! ### Memory Ports -/

/-- R127: the list of writes of a memory address, oldest first. -/
def MemPort.writesAt (p : MemPort) (a : MemAddr) : List WriteRec := p.writes.filter fun w => w.addr == a

/-- The write of an owner in the Write Order Table. -/
def MemPort.writeOf (p : MemPort) (o : OpOwner) : Option WriteRec := p.writes.find? fun w => w.owner == o

/-- R120: the lowest-numbered FREE tag. -/
def MemPort.freeTag (p : MemPort) : Option MemTag := allTags.find? fun t => p.tags[t] == .free

/-- The beat indices received under a tag. -/
def gotSet (got : Vector (Option Beat) 4) : BitVec 4 :=
  BitVec.ofNat 4 (got[0].isSome.toNat + 2 * got[1].isSome.toNat + 4 * got[2].isSome.toNat + 8 * got[3].isSome.toNat)

/-- How many beats have been received. -/
def gotCount (got : Vector (Option Beat) 4) : Nat := got.toList.countP (·.isSome)

/-- R124: the beats received as they came, and the others zero and marked. -/
def gotBeats (got : Vector (Option Beat) 4) : BlockData := got.map fun o => o.getD ⟨0#128, true⟩

/-- The block an operation works on. -/
def State.opBlock (s : State) : OpOwner → Option Block
  | .tt i r => (s.entry i).bind (·.blockOf r)
  | .wb w => (s.wbEntry w).map (·.block)

/-- The TT index that a capture records for an operation. -/
def OpOwner.ttIndex : OpOwner → Option TTIdx
  | .tt i _ => some i
  | .wb _ => none

/-- The writer node that a capture records for an operation. -/
def State.opWriter (s : State) : OpOwner → Option NodeId
  | .tt _ _ => none
  | .wb w => (s.wbEntry w).map (·.writer)

/-- The lowest free place of the Writeback Buffer (log entry 17). -/
def State.freeWB (s : State) : Option WBIdx := allNodes.find? fun w => (s.wbEntry w).isNone

/-- The lowest-numbered free TT index (R60). -/
def State.freeTT (s : State) : Option TTIdx := allTT.find? fun i => (s.entry i).isNone

end Sys2Proof.Machine
end

