-- ==== Sys2Proof/Machine/Ops.lean ====
section
/-! DEFINITION. The shared operations on the state: one setter per kind of record, the Outbound Queues, the capture slots and the notices. -/

namespace Sys2Proof.Machine

/-! ### Setters -/

def State.modPort (s : State) (n : NodeId) (f : Port → Port) : State :=
  { s with ports := s.ports.set n (f (s.port n)) }

def State.modNode (s : State) (n : NodeId) (f : NodeRec → NodeRec) : State :=
  { s with nodes := s.nodes.set n (f (s.node n)) }

def State.modRegion (s : State) (r : RegionIdx) (f : Region → Region) : State :=
  { s with regions := s.regions.set r (f (s.region r)) }

def State.modSlot (s : State) (c : CaptureClass) (f : CaptureSlot → CaptureSlot) : State :=
  { s with slots := s.slots.set c.index (f (s.slot c)) }

def State.modTT (s : State) (i : TTIdx) (f : TTSlot → TTSlot) : State :=
  { s with tt := s.tt.set i (f (s.ttSlot i)) }

/-- Puts work in a TT index, or frees it; its pacing marks stay (R64). -/
def State.setEntry (s : State) (i : TTIdx) (o : Option TTEntry) : State :=
  s.modTT i fun t => { t with work := o }

def State.modEntry (s : State) (i : TTIdx) (f : TTEntry → TTEntry) : State :=
  s.modTT i fun t => { t with work := t.work.map f }

def State.setWB (s : State) (w : WBIdx) (o : Option WBEntry) : State :=
  { s with wb := s.wb.set w o }

def State.modMP (s : State) (p : MPort) (f : MemPort → MemPort) : State :=
  match p with
  | .mp0 => { s with mp0 := f s.mp0 }
  | .mp1 => { s with mp1 := f s.mp1 }

/-- Something driven on a link in this step. -/
def State.emit (s : State) (e : OutEvent) : State := { s with out := s.out ++ [e] }

/-! ### Outbound Queues (R10) -/

/-- R10: a message is placed at the tail of the node's Outbound Queue. -/
def State.enqueue (s : State) (n : NodeId) (p : Producer) (m : Msg) : State :=
  s.modPort n fun q => { q with outbound := q.outbound ++ [⟨m, p⟩] }

/-! ### The Fault Capture Unit (chapter 10) -/

/-- A record with no optional field, stamped now (R164). -/
def State.stamped (s : State) (r : CaptureReason) : CaptureRecord :=
  ⟨r, none, none, none, none, none, s.timeBase⟩

/-- R169, R170: a slot's PENDING notice is queued when the notice node is reachable and the slot's
outstanding mark is clear, the lock notice first. Its fields are formed now. -/
def State.queueNotice (s : State) (c : CaptureClass) : State :=
  let slot := s.slot c
  if s.reachable && !slot.outstanding then
    match slot.record with
    | none => s
    | some r =>
      if slot.lockNotice = .pending then
        (s.modSlot c fun t => { t with lockNotice := .queued, outstanding := true }).enqueue s.noticeNode (.capture c false)
          (.faultNotice r.reason r.reason.severity slot.overflow)
      else if slot.escalationNotice = .pending then
        (s.modSlot c fun t => { t with escalationNotice := .queued, outstanding := true }).enqueue s.noticeNode (.capture c true)
          (.faultNotice (slot.escalationReason.getD r.reason) .dataLost slot.overflow)
      else s
  else s

/-- What an offer makes of a slot (R166, R167, R168). -/
def CaptureSlot.offer (t : CaptureSlot) (r : CaptureRecord) : CaptureSlot :=
  match t.record with
  | none => { t with record := some r, overflow := 0#4, escalated := false, escalationReason := none,
                     lockNotice := .pending, escalationNotice := .none }
  | some locked =>
    let t' := { t with overflow := if t.overflow.toNat < Config.overflowMax then t.overflow + 1#4 else t.overflow }
    if r.reason.severity = .dataLost ∧ locked.reason.severity = .recovered ∧ t.escalated = false then
      { t' with escalated := true, escalationReason := some r.reason, escalationNotice := .pending }
    else t'

/-- R165: one record applied to the slot of its class. -/
def State.capture (s : State) (r : CaptureRecord) : State := s.modSlot r.reason.cls fun t => t.offer r

/-- R165: one record offered to the slot of its class; a notice it makes PENDING is queued at once when
R170 allows. -/
def State.offer (s : State) (r : CaptureRecord) : State := (s.capture r).queueNotice r.reason.cls

/-- R171, R173: the state of a notice of a slot becomes `next` if it is QUEUED; the outstanding mark clears. -/
def CaptureSlot.noticeGone (t : CaptureSlot) (escalation : Bool) (next : NoticeState) : CaptureSlot :=
  if escalation then
    { t with escalationNotice := if t.escalationNotice = .queued then next else t.escalationNotice, outstanding := false }
  else
    { t with lockNotice := if t.lockNotice = .queued then next else t.lockNotice, outstanding := false }

/-- The JOB_NOTICE that a job owes (R161). -/
def Job.owed (j : Job) : Option OutMsg :=
  match j.phase with
  | .done o .pending => some ⟨.jobNotice j.kind o, .job j.kind⟩
  | _ => none

/-- A job whose owed notice has been queued. -/
def Job.noticeQueued (j : Job) : Job :=
  match j.phase with
  | .done o .pending => { j with phase := .done o .queued }
  | _ => j

/-- R161: the notices of every PENDING job are queued, in list order, when the notice node is reachable. -/
def State.queueJobNotices (s : State) : State :=
  if s.reachable then
    { (s.modPort s.noticeNode fun q => { q with outbound := q.outbound ++ s.jobs.filterMap Job.owed }) with
      jobs := s.jobs.map Job.noticeQueued }
  else s

/-- R147: when one event lets pending notices be queued together, the FAULT_NOTICEs go first, in slot
order, and the JOB_NOTICEs behind them, in list order. -/
def State.flushNotices (s : State) : State :=
  ((((s.queueNotice .node).queueNotice .memory).queueNotice .dataLoss).queueNotice .directory).queueJobNotices

/-- A job notice that left the queue by withdrawal is pending again (R12, R161). -/
def Job.noticeWithdrawn (k : JobKind) (j : Job) : Job :=
  match j.phase with
  | .done o .queued => if j.kind = k then { j with phase := .done o .pending } else j
  | _ => j

/-! ### TT messages and recall members (R58, R64, R65) -/

/-- An entry with the recall set of a role replaced. -/
def TTEntry.setRecalls (e : TTEntry) (r : Role) (ms : List Member) : TTEntry :=
  match r with
  | .primary => { e with recalls := ms }
  | .victim => { e with victim := e.victim.map fun v => { v with recalls := ms } }

/-- An entry with the data buffer of a role replaced. -/
def TTEntry.setBuffer (e : TTEntry) (r : Role) (b : DataBuffer) : TTEntry :=
  match r with
  | .primary => { e with buffer := b }
  | .victim => { e with victim := e.victim.map fun v => { v with buffer := b } }

/-- An entry with its member for a node changed. -/
def TTEntry.modMember (e : TTEntry) (r : Role) (n : NodeId) (f : Member → Member) : TTEntry :=
  e.setRecalls r ((e.recallsOf r).map fun m => if m.node = n then f m else m)

/-- The member for a node in the recall set for a block is changed, where the entry has one. -/
def State.modMemberFor (s : State) (i : TTIdx) (b : Block) (n : NodeId) (f : Member → Member) : State :=
  s.modEntry i fun e => match e.claims b with
    | some r => e.modMember r n f
    | none => e

/-- R64, R65: a message of a TT index is queued and sets its pacing mark; a queued RECALL's member
becomes QUEUED. -/
def State.queueTT (s : State) (i : TTIdx) (n : NodeId) (m : Msg) : State :=
  let s := (s.enqueue n (.tt i) m).modTT i fun t => { t with pacing := t.pacing.add n }
  match m with
  | .recall b _ => s.modMemberFor i b n fun x => { x with sent := .queued }
  | _ => s

/-- R64: while the pacing mark for the node is set the message is kept in the entry. -/
def State.sendTT (s : State) (i : TTIdx) (n : NodeId) (m : Msg) : State :=
  if (s.ttSlot i).pacing.has n then s.modEntry i fun e => { e with held := e.held ++ [(n, m)] }
  else s.queueTT i n m

/-- R64: when the mark for a node clears, the message held for it is queued. -/
def State.flushHeld (s : State) (i : TTIdx) (n : NodeId) : State :=
  match (s.entry i).bind fun e => e.held.find? fun p => p.1 == n with
  | none => s
  | some (_, m) => (s.modEntry i fun e => { e with held := e.held.eraseP fun p => p.1 == n }).queueTT i n m

/-! ### The agent's replies (R178) -/

/-- R178: a reply is queued to its sender and the agent becomes REPLY_PENDING; a reply to a FENCED
sender is discarded and the agent becomes READY. -/
def State.reply (s : State) (n : NodeId) (tag : ReqTag) (st : Status) (results : List Word) : State :=
  if (s.node n).state = .fenced then { s with agent := .ready }
  else { s.enqueue n .agent (.controlReply tag st results) with agent := .replyPending }

end Sys2Proof.Machine
end

