-- ==== Sys2Proof/Machine/Directory.lean ====
section
/-! DEFINITION. The requests that reach the Directory: removals, updates and lookups (chapter 3). -/

namespace Sys2Proof.Machine

/-- A set written back, keeping the Directory's canonical form. -/
def Directory.put (d : Directory) (k : SetIdx) (v : DirSet) : Directory :=
  match d with
  | [] => if v = DirSet.empty then [] else [(k, v)]
  | (j, u) :: rest =>
    if j = k then (if v = DirSet.empty then rest else (k, v) :: rest)
    else if k < j then (if v = DirSet.empty then (j, u) :: rest else (k, v) :: (j, u) :: rest)
    else (j, u) :: Directory.put rest k v

def State.putSet (s : State) (k : SetIdx) (v : DirSet) : State := { s with dir := s.dir.put k v }

/-- A way given new contents, the recency order kept. -/
def DirSet.setWay (ds : DirSet) (w : WayIdx) (x : Way) : DirSet := { ds with ways := ds.ways.set w x }

/-- R38: a HELD way that becomes EMPTY or RESERVED leaves the recency order. -/
def DirSet.vacate (ds : DirSet) (w : WayIdx) (x : Way) : DirSet :=
  { (ds.setWay w x) with recency := ds.recency.erase w }

/-- R38: a way moved, or placed, at the front. -/
def DirSet.refresh (ds : DirSet) (w : WayIdx) : DirSet := { ds with recency := w :: ds.recency.erase w }

/-- R43: the kinds whose claim keeps a vacated way for their grant. -/
def TTKind.keepsWay : TTKind → Bool
  | .req .fetchS | .req .fetchX | .req .upgrade => true
  | _ => false

/-- R43: what the way of a removed entry becomes, by the claim on its block. -/
def State.vacated (s : State) (b : Block) : Way :=
  match s.claimant b with
  | none => .empty
  | some (i, r) =>
    match s.entry i with
    | none => .empty
    | some e =>
      match r with
      | .victim => .reserved i e.block
      | .primary => if e.kind.keepsWay then .reserved i b else .empty

/-- R43: the directory entry of a block is removed whole; nothing changes when there is none. -/
def State.removeEntry (s : State) (b : Block) : State :=
  let ds := s.dirSet (setOf b)
  match ds.findHeld b with
  | none => s
  | some (w, _) => s.putSet (setOf b) (ds.vacate w (s.vacated b))

/-- R42: a node is removed from the holders of an entry with status GOOD; the entry goes with its last
holder. -/
def State.removeHolder (s : State) (n : NodeId) (b : Block) : State :=
  let ds := s.dirSet (setOf b)
  match ds.findHeld b with
  | none => s
  | some (w, e) =>
    if e.failed || !e.rights.holders.has n then s
    else match e.rights with
      | .owned _ => s.removeEntry b
      | .shared hs =>
        if hs.del n = NodeSet.none then s.removeEntry b
        else s.putSet (setOf b) (ds.setWay w (.held { e with rights := .shared (hs.del n) }))

/-! ### Updates (R40, R79) -/

/-- The steps of an update (R40). -/
inductive UStep where
  | addSharer (n : NodeId)
  | downgrade
  | makeOwner (n : NodeId)
  | remove (n : NodeId)
  deriving DecidableEq, Repr

/-- R40, R42: one step on the way, of the block `b`, that an update acts on; `vac` is what the way becomes
when the step removes the last holder (R43). -/
def Way.step (b : Block) (vac : Way) (x : Way) (u : UStep) : Way :=
  match x with
  | .empty => .empty
  | .reserved _ _ =>
    match u with
    | .addSharer n => .held ⟨b, .shared (NodeSet.only n), false⟩
    | .makeOwner n => .held ⟨b, .owned n, false⟩
    | .downgrade => x
    | .remove _ => x
  | .held e =>
    match u with
    | .addSharer n => .held { e with rights := .shared (e.rights.holders.add n) }
    | .downgrade => .held { e with rights := .shared e.rights.holders }
    | .makeOwner n => .held { e with rights := .owned n }
    | .remove n =>
      if e.failed || !e.rights.holders.has n then x
      else if e.rights.holders.del n = NodeSet.none then vac
      else .held { e with rights := .shared (e.rights.holders.del n) }

/-- R38: an update refreshes the way when it added a holder, or changed the state or the owner. -/
def Rights.grew (old new : Rights) : Bool :=
  match old, new with
  | .shared a, .shared b => (b &&& ~~~a) != 0#8
  | _, _ => old != new

/-- The way that an update by an entry acts on: the HELD way of the block, or the entry's own RESERVED way
(R40). -/
def DirSet.updateWay (ds : DirSet) (i : TTIdx) (b : Block) : Option WayIdx :=
  match ds.findHeld b with
  | some (w, _) => some w
  | none => ds.findReserved i

/-- R40, R79: the steps are applied together as one request, and the recency order moves once for the
whole update (R38). -/
def State.applyUpdate (s : State) (i : TTIdx) (b : Block) (us : List UStep) : State :=
  let ds := s.dirSet (setOf b)
  match ds.updateWay i b with
  | none => s
  | some w =>
    let old := ds.way w
    let new := us.foldl (Way.step b (s.vacated b)) old
    let ds' := ds.setWay w new
    s.putSet (setOf b) <|
      match old.entry?, new.entry? with
      | some e, some e' => if e.rights.grew e'.rights then ds'.refresh w else ds'
      | none, some _ => ds'.refresh w
      | some _, none => { ds' with recency := ds'.recency.erase w }
      | none, none => ds'

/-- R44: a RESERVED way that names an entry is given back. -/
def State.giveBack (s : State) (i : TTIdx) (b : Block) : State :=
  let ds := s.dirSet (setOf b)
  match ds.findReserved i with
  | none => s
  | some w => s.putSet (setOf b) (ds.setWay w .empty)

/-! ### Lookup (R45 to R50) -/

/-- R50: the next holder-check outcome of the step is taken; true is a failure. -/
def State.takeCheck (s : State) : Bool × State :=
  match s.now.checks with
  | [] => (false, s)
  | c :: rest => (c, { s with now := { s.now with checks := rest } })

/-- R50: a lookup reads a HELD way and may meet a holder-check failure, which makes the entry FAILED. -/
def State.readHeld (s : State) (k : SetIdx) (w : WayIdx) (e : DirEntry) : DirEntry × State :=
  let (fails, s) := s.takeCheck
  if fails then
    let e' := { e with failed := true }
    (e', s.putSet k ((s.dirSet k).setWay w (.held e')))
  else (e, s)

/-- R47: the victim is the least recent HELD way whose block no TT entry claims. -/
def State.chooseVictim (s : State) (ds : DirSet) : Option (WayIdx × DirEntry) :=
  ds.recency.reverse.findSome? fun w =>
    (ds.way w).entry?.bind fun e => if s.claimed e.block then none else some (w, e)

/-- R47, R73: Hold Queue entries naming a block become WAITING or READY, keeping their places. -/
def State.setHeldReady (s : State) (b : Block) (ready : Bool) : State :=
  { s with hold := s.hold.map fun h => if h.req.block = b then { h with ready := ready } else h }

/-- R45: the lookup of a block by an entry whose kind needs a new entry or not. -/
def State.lookup (s : State) (i : TTIdx) (b : Block) (needsNew : Bool) : LookupResult × State :=
  let k := setOf b
  let ds := s.dirSet k
  match ds.findHeld b with
  | some (w, e) =>
    let (e', s) := s.readHeld k w e
    (.held w e', s)
  | none =>
    if !needsNew then (.notHeld, s)
    else match ds.firstEmpty with
      | some w => (.reservedNew w, s.putSet k (ds.setWay w (.reserved i b)))
      | none =>
        match s.chooseVictim ds with
        | none => (.setBusy, s)
        | some (w, e) =>
          let (e', s) := s.readHeld k w e
          (.victim w e', s.setHeldReady e.block false)

end Sys2Proof.Machine
end

