-- ==== Sys2Proof/Machine/Memory.lean ====
section
/-! DEFINITION. Placing memory operations, and delivering their ends to their owners (chapter 7, sections 7.1 and 7.4). -/

namespace Sys2Proof.Machine

/-! ### The Write Order Table (R127 to R129) -/

/-- R129: the newest write to an address. -/
def MemPort.newest (p : MemPort) (a : MemAddr) : Option WriteRec := (p.writesAt a).getLast?

/-- R128: a write placed for its first attempt marks every earlier write to its address superseded and
joins the end of the address's list. -/
def MemPort.addWrite (p : MemPort) (w : WriteRec) : MemPort :=
  { p with writes := p.writes.map (fun v => if v.addr = w.addr then { v with superseded := true } else v) ++ [w] }

/-- R130, R131, R132: the write of an owner leaves its list. -/
def MemPort.dropWrite (p : MemPort) (o : OpOwner) : MemPort :=
  { p with writes := p.writes.filter fun v => v.owner != o }

/-- R131: the write of an owner enters its second attempt, keeping its place. -/
def MemPort.retryWrite (p : MemPort) (o : OpOwner) : MemPort :=
  { p with writes := p.writes.map fun v => if v.owner = o then { v with second := true } else v }

/-- R119: an operation at the tail of the Issue Queue. -/
def MemPort.queueOp (p : MemPort) (op : MemOp) : MemPort := { p with issueQ := p.issueQ ++ [op] }

/-- A tag given a state (R121). -/
def MemPort.setTag (p : MemPort) (t : MemTag) (x : TagState) : MemPort := { p with tags := p.tags.set t x }

/-- R119, R128: a WRITE placed by an owner. -/
def State.placeWrite (s : State) (o : OpOwner) (mp : MPort) (a : MemAddr) (d : BlockData) : State :=
  s.modMP mp fun p => (p.addWrite ⟨o, a, d, false, false⟩).queueOp ⟨o, .write, a, false⟩

/-! ### Operations of TT entries (R63) -/

/-- R63: a write of a TT entry for the block of a role. -/
def State.writeTT (s : State) (i : TTIdx) (r : Role) (d : BlockData) : State :=
  match (s.entry i).bind (·.locOf r) with
  | none => s
  | some l =>
    (s.placeWrite (.tt i r) l.port l.addr d).modEntry i fun e => { e with memOp := some ⟨.write, r, none⟩ }

/-- R119, R126, R129: a READ of a TT entry's primary block, forwarded when the Write Order Table holds its
address and queued otherwise. `refused` is its refusal count. -/
def State.placeRead (s : State) (i : TTIdx) (mp : MPort) (a : MemAddr) (refused : Bool) : State :=
  match (s.mp mp).newest a with
  | some w => s.modEntry i fun e => { e with buffer := .full w.beats .forwarded, memOp := none }
  | none =>
    (s.modMP mp fun p => p.queueOp ⟨.tt i .primary, .read, a, refused⟩).modEntry i fun e =>
      { e with memOp := some ⟨.read, .primary, none⟩ }

/-- R63: the one memory read of an entry. -/
def State.readTT (s : State) (i : TTIdx) : State :=
  match (s.entry i).bind (·.loc) with
  | none => s
  | some l => s.placeRead i l.port l.addr false

/-! ### Ends of operations (R82, R115) -/

/-- R123 to R126: a read's four beats are delivered to its owner. -/
def State.deliverRead (s : State) (o : OpOwner) (d : BlockData) : State :=
  match o with
  | .tt i _ => s.modEntry i fun e => { e with buffer := .full d .memory, memOp := none }
  | .wb _ => s

/-- R115: an entry that enters DONE_PENDING queues DONE, or leaves the buffer when its fenced mark is set. -/
def State.donePending (s : State) (w : WBIdx) : State :=
  match s.wbEntry w with
  | none => s
  | some e =>
    if e.fenced then s.setWB w none
    else (s.setWB w (some { e with state := .donePending })).enqueue e.writer (.wb w) (.done 0#8 e.block)

/-- R82, R95: a write's end as its TT entry takes it. -/
def TTEntry.writeEnded (e : TTEntry) (success : Bool) : TTEntry :=
  { e with
    memOp := none
    verdict := if !success && e.phase == .writing && e.kind == .req .writeThru then some .writeFailed else e.verdict }

/-- R130 to R132: a write's success or final failure is delivered to its owner. -/
def State.deliverWrite (s : State) (o : OpOwner) (success : Bool) : State :=
  match o with
  | .tt i _ => s.modEntry i fun e => e.writeEnded success
  | .wb w => s.donePending w

/-- The owner's own note of its operation: QUEUED with no tag, IN_FLIGHT with one (R57, R120, R131). -/
def State.noteOp (s : State) (o : OpOwner) (tag : Option MemTag) : State :=
  match o with
  | .tt i _ => s.modEntry i fun e => { e with memOp := e.memOp.map fun n => { n with tag := tag } }
  | .wb w => s.setWB w ((s.wbEntry w).map fun e => { e with state := if tag.isSome then .writing else .queued })

/-- R131: a Writeback Buffer entry's second attempt. -/
def State.noteRetry (s : State) (o : OpOwner) : State :=
  match o with
  | .tt _ _ => s.noteOp o none
  | .wb w =>
    (s.setWB w ((s.wbEntry w).map fun e =>
      { e with write := e.write.map fun x => { x with second := true } })).noteOp o none

/-! ### Capture records of a Memory Port (R164) -/

/-- The record of a fault of an operation in flight: port, tag, block, and TT index or writer node. -/
def State.memRecord (s : State) (reason : CaptureReason) (mp : MPort) (t : MemTag) (o : OpOwner) : CaptureRecord :=
  { s.stamped reason with
    node := s.opWriter o, block := s.opBlock o, mem := some (mp, t), tt := o.ttIndex }

/-- The record of a fault of a read: as above, with the number of beats received. -/
def State.readRecord (s : State) (reason : CaptureReason) (mp : MPort) (t : MemTag) (o : OpOwner) (n : Nat) :
    CaptureRecord :=
  { s.memRecord reason mp t o with beats := some (Fin.ofNat 5 n) }

/-- R134: an UNEXPECTED_RESPONSE of no operation in flight records the port and the tag alone. -/
def State.unexpectedResponse (s : State) (mp : MPort) (t : MemTag) : State :=
  s.offer { s.stamped .unexpectedResponse with mem := some (mp, t) }

/-- R134: a response of the wrong kind for an operation in flight. -/
def State.wrongKind (s : State) (mp : MPort) (t : MemTag) (o : OpOwner) : State :=
  s.offer (s.memRecord .unexpectedResponse mp t o)

/-! ### Failures (R124 to R126, R131, R132) -/

/-- R131, R132: a write in flight under a tag has failed; the tag takes the state `x`. -/
def State.failWrite (s : State) (mp : MPort) (t : MemTag) (op : MemOp) (reason : CaptureReason) (x : TagState) : State :=
  let s := s.modMP mp fun p => p.setTag t x
  match (s.mp mp).writeOf op.owner with
  | none => s.deliverWrite op.owner true
  | some w =>
    if w.superseded then (s.modMP mp fun p => p.dropWrite op.owner).deliverWrite op.owner true
    else
      let s := s.offer (s.memRecord reason mp t op.owner)
      if w.second then
        let s := s.offer (s.memRecord .writeFailed mp t op.owner)
        (s.modMP mp fun p => p.dropWrite op.owner).deliverWrite op.owner false
      else (s.modMP mp fun p => (p.retryWrite op.owner).queueOp op).noteRetry op.owner

/-- R124, R125: a read in flight under a tag ends early; the tag takes the state `x`. -/
def State.endReadEarly (s : State) (mp : MPort) (t : MemTag) (op : MemOp) (got : Vector (Option Beat) 4)
    (reason : CaptureReason) (x : TagState) : State :=
  let s := s.modMP mp fun p => p.setTag t x
  let s := s.offer (s.readRecord reason mp t op.owner (gotCount got))
  s.deliverRead op.owner (gotBeats got)

/-- R126: a read in flight under a tag is refused: placed again once, ended early the second time. -/
def State.refuseRead (s : State) (mp : MPort) (t : MemTag) (op : MemOp) : State :=
  if op.refused then s.endReadEarly mp t op (Vector.replicate 4 none) .portRefused .free
  else
    let s := s.modMP mp fun p => p.setTag t .free
    match op.owner with
    | .tt i _ => s.placeRead i mp op.addr true
    | .wb _ => s

end Sys2Proof.Machine
end

