-- ==== Sys2Proof/Machine/Flow.lean ====
section
/-! DEFINITION. The course of a TT entry: its start, its recalls, its phases, its answer and its retirement (chapters 3.5, 4 and 5). -/

namespace Sys2Proof.Machine

/-! ### Recall members (R51, R65, R67) -/

/-- A member as it is formed (R58). -/
def Member.formed (n : NodeId) (k : RecallKind) : Member := ⟨n, k, .notQueued, none, .awaiting, none⟩

/-- A member resolved; its deadline is dropped (R66, R108). -/
def Member.resolve (m : Member) (r : Resolution) : Member := { m with resolution := some r, deadline := none }

/-- R68, R113: the changed-state mark is set when a member of a primary recall set that is no repair's is
resolved. -/
def TTEntry.resolveMember (e : TTEntry) (r : Role) (n : NodeId) (x : Resolution) : TTEntry :=
  let e' := e.modMember r n fun m => if m.resolved then m else m.resolve x
  if r = .primary ∧ e.repairs r = false then { e' with changed := true } else e'

/-- R51: the lowest-numbered member of a repair resolved at a fence. -/
def TTEntry.noteRepair (e : TTEntry) (n : NodeId) : TTEntry :=
  { e with repairNote := some (match e.repairNote with | some m => min m n | none => n) }

/-- R67, R143: the unresolved member for a node in the recall set of a role, if any, is resolved as the
fence of the node resolves it. -/
def State.resolveAtFence (s : State) (i : TTIdx) (r : Role) (n : NodeId) : State :=
  match s.entry i with
  | none => s
  | some e =>
    match e.openMember r n with
    | none => s
    | some m =>
      if e.repairs r then s.modEntry i fun e => (e.resolveMember r n .absent).noteRepair n
      else if e.ownerOf r = some n ∧ m.status ≠ .absorbedWb then
        (s.modEntry i fun e => (e.resolveMember r n .ownerLost).setBuffer r (.full .ownerLost .node)).offer
          { s.stamped .ownerLost with node := some n, block := e.blockOf r }
      else s.modEntry i fun e => e.resolveMember r n .absent

/-- R65: the RECALL of one formed member is sent, or, for a FENCED node, the member is resolved at once. -/
def State.sendRecall (s : State) (i : TTIdx) (r : Role) (b : Block) (m : NodeId × RecallKind) : State :=
  if (s.node m.1).state = .fenced then s.resolveAtFence i r m.1 else s.sendTT i m.1 (.recall b m.2)

/-- R65: an entry forms its recall set and sends its RECALLs in the order of the set. -/
def State.formRecalls (s : State) (i : TTIdx) (r : Role) (b : Block) (ms : List (NodeId × RecallKind)) : State :=
  ms.foldl (fun s m => s.sendRecall i r b m)
    (s.modEntry i fun e => e.setRecalls r (ms.map fun m => Member.formed m.1 m.2))

/-- R51: a repair recalls every node that is ACTIVE or QUIESCING. -/
def State.recallAll (s : State) (i : TTIdx) (r : Role) (b : Block) : State :=
  s.formRecalls i r b ((allNodes.filter fun n => (s.node n).state.counted).map fun n => (n, .invalidate))

/-! ### Situations and courses (R78, and the tables of sections 5.2 to 5.10) -/

/-- The directory situations of R78, the owner or holders being those of the lookup result. -/
inductive Situation where
  | notHeld
  | shared (holders : NodeSet)
  | owned (owner : NodeId)
  | setBusy
  deriving DecidableEq, Repr

/-- R78: the situation that the lookup result gives. -/
def TTEntry.situation (e : TTEntry) : Situation :=
  match e.lookup with
  | some (.held _ d) =>
    if d.failed then .notHeld
    else match d.rights with
      | .shared hs => .shared hs
      | .owned o => .owned o
  | some .setBusy => .setBusy
  | _ => .notHeld

/-- The entry's requester is the node. -/
def TTEntry.requestedBy (e : TTEntry) (n : NodeId) : Bool := e.requester.map (·.1) == some n

/-- R93: the byte mask has all 64 flags set. -/
def TTEntry.fullMask (e : TTEntry) : Bool := (e.write.map (·.mask)) == some (BitVec.allOnes 64)

/-- R90: the entry is to answer GRANT_UP: an UPGRADE whose requester the lookup recorded as a holder. -/
def TTEntry.grantsUp (e : TTEntry) : Bool :=
  e.kind == .req .upgrade && !e.upgradeAsX &&
    match e.situation with
    | .shared hs => (e.requester.map fun q => hs.has q.1).getD false
    | .owned o => e.requestedBy o
    | _ => false

/-- The entry serves its request as a FETCH_X (R88 to R90). -/
def TTEntry.asFetchX (e : TTEntry) : Bool :=
  e.kind == .req .fetchX || (e.kind == .req .upgrade && !e.grantsUp)

/-- R84 to R93: the flow needs the block's data. -/
def TTEntry.needsData (e : TTEntry) : Bool :=
  match e.kind with
  | .req .fetchS | .req .fetchX | .req .readOnce => true
  | .req .upgrade => !e.grantsUp
  | .req .writeThru => !e.fullMask
  | .reclaim | .poison => false

/-- R87: a FETCH_S or FETCH_X in situation OWNED_SELF. -/
def TTEntry.conflicts (e : TTEntry) : Bool :=
  (e.kind == .req .fetchS || e.kind == .req .fetchX) &&
    match e.situation with
    | .owned o => e.requestedBy o
    | _ => false

/-- Members of one kind for the nodes of a set, in ascending order. -/
def recallEach (ns : NodeSet) (k : RecallKind) : List (NodeId × RecallKind) := ns.toList.map fun n => (n, k)

/-- R78: the recalls that an entry's flow names (R85 to R93, R99). -/
def TTEntry.planned (e : TTEntry) : List (NodeId × RecallKind) :=
  match e.kind, e.situation with
  | .poison, _ => []
  | .reclaim, .shared hs => recallEach hs .invalidate
  | .reclaim, .owned o => [(o, .invalidate)]
  | .req .fetchS, .owned o => [(o, .downgrade)]
  | .req .readOnce, .owned o => [(o, .downgrade)]
  | .req .fetchX, .shared hs => recallEach (match e.requester with | some q => hs.del q.1 | none => hs) .invalidate
  | .req .upgrade, .shared hs => recallEach (match e.requester with | some q => hs.del q.1 | none => hs) .invalidate
  | .req .fetchX, .owned o => [(o, .invalidate)]
  | .req .upgrade, .owned o => if e.requestedBy o then [] else [(o, .invalidate)]
  | .req .writeThru, .shared hs => recallEach hs .invalidate
  | .req .writeThru, .owned o => [(o, .invalidate)]
  | _, _ => []

/-- R88, R93: the flow issues its memory read at its start: a block not held, or a SHARED block, whose
copy in memory is current. -/
def TTEntry.readsAtStart (e : TTEntry) : Bool :=
  e.needsData &&
    match e.situation with
    | .notHeld => true
    | .shared _ => true
    | _ => false

/-! ### The decision when the data is complete (R69, R78, R81, R94, R96) -/

/-- The byte `k` of a beat, 0 to 15. -/
def beatByte (x : BitVec 128) (k : Nat) : BitVec 8 := x.extractLsb' (8 * k) 8

/-- The bits of a beat that the flags of its sixteen bytes select. -/
def byteSelect (flags : BitVec 16) : BitVec 128 :=
  (List.range 16).foldl (fun acc k => if flags.getLsbD k then acc ||| (0xFF#128 <<< (8 * k)) else acc) 0#128

/-- R94: one beat of the merged block. -/
def mergeBeat (flags : BitVec 16) (base write : Beat) : Beat :=
  if flags = BitVec.allOnes 16 then write
  else if flags = 0#16 then base
  else ⟨(write.data &&& byteSelect flags) ||| (base.data &&& ~~~(byteSelect flags)), base.poison || write.poison⟩

/-- R94: the merged block, beat by beat. -/
def mergeBlock (w : WriteData) (base : BlockData) : BlockData :=
  #v[mergeBeat (w.mask.extractLsb' 0 16) base[0] w.beats[0], mergeBeat (w.mask.extractLsb' 16 16) base[1] w.beats[1],
    mergeBeat (w.mask.extractLsb' 32 16) base[2] w.beats[2], mergeBeat (w.mask.extractLsb' 48 16) base[3] w.beats[3]]

/-- R96: the entry is to answer with data. -/
def TTEntry.answersData (e : TTEntry) : Bool :=
  e.kind == .req .fetchS || e.kind == .req .readOnce || e.asFetchX

/-- The poison policy of the entry's region (R30). -/
def State.policyOf (s : State) (e : TTEntry) : Policy := (e.loc.map fun l => (s.region l.region).policy).getD .deliver

/-- R96: the answer is refused POISONED. -/
def State.refusesPoison (s : State) (e : TTEntry) : Bool :=
  e.answersData && s.policyOf e == .refuse && e.buffer.beats.poisoned

/-- A member of the primary recall set was resolved OWNER_LOST (R81). -/
def TTEntry.lostOwner (e : TTEntry) : Bool := e.recalls.any fun m => m.resolution == some .ownerLost

/-- What the entry writes for its primary block once its data is complete: R86, R92 and R99 (an owner's
beats or the owner-lost block), R69, R81, R89 and R96 (a FETCH_X's data that it will not hand on), R94 (the
merged block). -/
def TTEntry.toWrite (e : TTEntry) (poisoned : Bool) : Option BlockData :=
  match e.kind with
  | .poison => some .ownerLost
  | .req .writeThru => e.write.map fun w => mergeBlock w e.buffer.beats
  | .req .fetchS | .req .readOnce | .reclaim => if e.buffer.source = some .node then some e.buffer.beats else none
  | .req .fetchX | .req .upgrade =>
    if e.asFetchX ∧ e.buffer.source = some .node ∧ (e.lostOwner ∨ e.orphaned ∨ poisoned) then some e.buffer.beats else none

/-- R78: the entry's data is complete: it applies the poison policy and passes to WRITING or RESPONDING. -/
def State.complete (s : State) (i : TTIdx) : State :=
  match s.entry i with
  | none => s
  | some e =>
    let poisoned := s.refusesPoison e
    let s := s.modEntry i fun e => { e with verdict := if poisoned then some .poisoned else e.verdict }
    match e.toWrite poisoned with
    | some d => (s.modEntry i fun e => { e with phase := .writing, changed := true }).writeTT i .primary d
    | none => s.modEntry i fun e => { e with phase := .responding }

/-- R82: the entry enters READING. -/
def State.beginRead (s : State) (i : TTIdx) : State :=
  (s.modEntry i fun e => { e with phase := .reading }).readTT i

/-- R78: the recalls of the primary block are resolved and no read is at work: the flow reads memory when it
needs data and has none, and is complete otherwise. -/
def State.afterRecalls (s : State) (i : TTIdx) : State :=
  match s.entry i with
  | none => s
  | some e => if e.needsData && !e.buffer.isFull then s.beginRead i else s.complete i

/-- R82: the read that a flow issues at its start, if it does. -/
def State.readBeside (s : State) (i : TTIdx) (e : TTEntry) : State := if e.readsAtStart then s.readTT i else s

/-- R78, R87, R48: the first phase of an entry that turns to its primary block: its flow's recalls and its read are
issued, or its answer is decided. -/
def State.enterFlow (s : State) (i : TTIdx) (e : TTEntry) : State :=
  if e.situation = .setBusy then s.modEntry i fun e => { e with phase := .responding, verdict := some .setBusy }
  else if e.conflicts then
    s.modEntry i fun e => { e with phase := .responding, verdict := some .ownerConflict, changed := true }
  else if e.planned = [] then
    if e.readsAtStart then s.beginRead i else s.complete i
  else
    ((s.modEntry i fun e => { e with phase := .recalling }).formRecalls i .primary e.block e.planned).readBeside i e

/-- R61: the entry turns to its primary block. A repair or an eviction before has left it no recall set and no data. -/
def State.beginFlow (s : State) (i : TTIdx) : State :=
  match s.entry i with
  | none => s
  | some e => (s.modEntry i fun e => { e with recalls := [], buffer := .empty, opened := false }).enterFlow i e

/-! ### Starting an entry (R61) -/

/-- An entry as it is filled from what starts it (R57). -/
def TTEntry.fresh (kind : TTKind) (starter : Starter) (requester : Option (NodeId × ReqTag)) (b : Block)
    (loc : Option Loc) (write : Option WriteData) : TTEntry where
  kind := kind
  starter := starter
  requester := requester
  orphaned := false
  block := b
  loc := loc
  lookup := none
  victim := none
  phase := .responding
  recalls := []
  buffer := .empty
  write := write
  changed := false
  memOp := none
  held := []
  repairNote := none
  verdict := none
  opened := false
  upgradeAsX := false
  reclaimed := false

/-- The entry of a request. -/
def TTEntry.ofRequest (q : Request) (starter : Starter) (loc : Option Loc) : TTEntry :=
  .fresh (.req q.kind) starter (some (q.node, q.tag)) q.block loc q.write

/-- R51, R83: the recalls of a victim: those of a repair when its entry is FAILED, and else of every holder. -/
def State.recallVictim (s : State) (i : TTIdx) (d : DirEntry) : State :=
  if d.failed then s.recallAll i .victim d.block
  else s.formRecalls i .victim d.block (recallEach d.rights.holders .invalidate)

/-- R47, R54, R83: an entry with a victim enters EVICTING. -/
def State.beginEviction (s : State) (i : TTIdx) (w : WayIdx) (d : DirEntry) : State :=
  (s.modEntry i fun e => { e with victim := some ⟨w, d, s.locate d.block, [], .empty⟩, phase := .evicting }).recallVictim i d

/-- R50, R51: an entry whose primary way is FAILED enters REPAIRING. -/
def State.beginRepair (s : State) (i : TTIdx) (b : Block) : State :=
  (s.modEntry i fun e => { e with phase := .repairing }).recallAll i .primary b

/-- R61: the first phase by the result of the lookup. -/
def State.afterLookup (s : State) (i : TTIdx) (b : Block) (r : LookupResult) : State :=
  match r with
  | .held _ d => if d.failed then s.beginRepair i b else s.beginFlow i
  | .victim w d => s.beginEviction i w d
  | _ => s.beginFlow i

/-- R61: an entry that claims its block makes its lookup, where its block is tracked, and enters its first phase. -/
def State.beginEntry (s : State) (i : TTIdx) (e : TTEntry) : State :=
  if s.tracked e.block then
    let p := s.lookup i e.block e.kind.keepsWay
    (p.2.modEntry i fun e => { e with lookup := some p.1 }).afterLookup i e.block p.1
  else s.beginFlow i

/-- R61: an entry is filled, and claims its block. -/
def State.startEntry (s : State) (i : TTIdx) (e : TTEntry) : State := (s.setEntry i (some e)).beginEntry i e

/-- R74: a held request is checked again as it is started; a failed check leaves the entry its FAULT to
answer. The entry then has its request's kind, requester and block: DESIGN CHOICE, R61 fills nothing in and R57 has a kind
always (log entry 28). -/
def State.startHeld (s : State) (i : TTIdx) (q : Request) : State :=
  match s.regionCheck q.node q.kind q.block with
  | .pass l => s.startEntry i (.ofRequest q .hold (some l))
  | .fail r => s.setEntry i (some { TTEntry.ofRequest q .hold none with verdict := some r })

/-- R99, R181: a RECLAIM entry. -/
def State.startReclaim (s : State) (i : TTIdx) (starter : Starter) (b : Block) : State :=
  s.startEntry i (.fresh .reclaim starter none b (s.locate b) none)

/-- R61, R100: a POISON entry, on the way and the fields that the walk read. -/
def State.startPoison (s : State) (i : TTIdx) (w : WayIdx) (d : DirEntry) : State :=
  (s.setEntry i (some { TTEntry.fresh .poison .sweep none d.block (s.locate d.block) none with
    lookup := some (.held w d) })).beginFlow i

/-! ### The end of a repair or an eviction (R53, R54, R83) -/

/-- R53, step 3: memory is settled by what the repair collected. -/
def State.settleRepair (s : State) (i : TTIdx) (r : Role) (e : TTEntry) (b : Block) : State :=
  match (e.bufferOf r).source, e.repairNote with
  | some .node, _ => s.writeTT i r (e.bufferOf r).beats
  | some _, _ => s
  | none, some n => (s.writeTT i r .ownerLost).offer { s.stamped .ownerLost with block := some b, node := some n }
  | none, none => s

/-- R53: the recalls of a repair end: the entry is removed, the failure is captured and memory is settled. -/
def State.endRepair (s : State) (i : TTIdx) (r : Role) (e : TTEntry) (b : Block) : State :=
  ((((s.removeEntry b).offer { s.stamped .holderCheck with block := some b, tt := some i })).modEntry i fun e =>
    { e with opened := true, reclaimed := e.kind == .reclaim }).settleRepair i r e b

/-- R83: the victim's data that is written: an owner's beats or the owner-lost block. -/
def State.writeVictim (s : State) (i : TTIdx) (e : TTEntry) : State :=
  if (e.bufferOf .victim).source = some .node then s.writeTT i .victim (e.bufferOf .victim).beats else s

/-- R83: the recalls of an eviction end: the victim's entry is removed and its data is written. -/
def State.endEviction (s : State) (i : TTIdx) (e : TTEntry) (b : Block) : State :=
  ((s.removeEntry b).modEntry i fun e => { e with opened := true }).writeVictim i e

/-- R53, R54, R83: the recalls of the victim end. -/
def State.endVictim (s : State) (i : TTIdx) (e : TTEntry) (v : Victim) : State :=
  if v.entry.failed then s.endRepair i .victim e v.entry.block else s.endEviction i e v.entry.block

/-! ### RESPONDING (R79, R80, R91, R95, R99, R100) -/

/-- R80: the member's node keeps a copy. -/
def Member.keepsCopy (m : Member) : Bool :=
  m.kind == .downgrade && m.status == .awaiting && (m.resolution == some .data || m.resolution == some .clean)

/-- R79: the step of one member. -/
def Member.step (m : Member) : UStep := if m.keepsCopy then .downgrade else .remove m.node

/-- R79: the step of the requester. -/
def TTEntry.requesterStep (e : TTEntry) : List UStep :=
  match e.kind, e.requester with
  | .req .fetchS, some q => [.addSharer q.1]
  | .req .fetchX, some q => [.makeOwner q.1]
  | .req .upgrade, some q => [.makeOwner q.1]
  | _, _ => []

/-- R79: an entry that is orphaned or refused POISONED applies no step that names its requester. -/
def TTEntry.skipsRequester (e : TTEntry) : Bool := e.orphaned || e.verdict == some .poisoned

/-- R79: the Directory update of a request entry. -/
def TTEntry.update (e : TTEntry) : List UStep :=
  if e.skipsRequester then (e.recalls.filter fun m => !e.requestedBy m.node).map Member.step
  else e.recalls.map Member.step ++ e.requesterStep

/-- R101: the message that answers the request. -/
def TTEntry.answer (e : TTEntry) (tag : ReqTag) : Msg :=
  match e.verdict with
  | some r => .fault tag e.block r (!e.changed)
  | none =>
    match e.kind with
    | .req .fetchS => .grantS tag e.block e.buffer.beats
    | .req .fetchX => .grantX tag e.block e.buffer.beats
    | .req .upgrade => if e.grantsUp then .grantUp tag e.block else .grantX tag e.block e.buffer.beats
    | .req .readOnce => .data tag e.block e.buffer.beats
    | .req .writeThru => .done tag e.block
    | .reclaim => .done tag e.block
    | .poison => .done tag e.block

/-- R70: the answer is queued or held, unless the entry is orphaned. -/
def State.sendAnswer (s : State) (i : TTIdx) (e : TTEntry) (n : NodeId) (tag : ReqTag) : State :=
  if e.orphaned then s else s.sendTT i n (e.answer tag)

/-- R74, R87: the captures that follow an answer: OWNER_CONFLICT, and a re-check's NOT_PERMITTED. -/
def State.captureVerdict (s : State) (i : TTIdx) (e : TTEntry) (n : NodeId) : State :=
  match e.verdict with
  | some .ownerConflict => s.offer { s.stamped .ownerConflict with node := some n, block := some e.block, tt := some i }
  | some .notPermitted => s.offer { s.stamped .notPermitted with node := some n, block := some e.block }
  | _ => s

/-- R70, R101: the answer of a request entry. -/
def State.answer (s : State) (i : TTIdx) : State :=
  match s.entry i with
  | none => s
  | some e =>
    match e.requester with
    | none => s
    | some (n, tag) => (s.sendAnswer i e n tag).captureVerdict i e n

/-- R79: the update of a request entry. A FAULT of no effect (SET_BUSY, OWNER_CONFLICT, a failed re-check)
applies none; a WRITE_THRU removes the entry whole. -/
def State.respondUpdate (s : State) (i : TTIdx) (e : TTEntry) : State :=
  match e.verdict with
  | some .setBusy | some .ownerConflict => s
  | some .noRegion | some .regionClosed | some .notTracked | some .notPermitted => s
  | _ =>
    if e.kind = .req .writeThru then s.removeEntry e.block
    else if e.update = [] then s
    else (s.applyUpdate i e.block e.update).modEntry i fun e => { e with changed := true }

/-- R91: the requester of an entry about to answer GRANT_UP no longer holds the block. The second holder query is made
for the answer alone: an orphaned entry, which answers nothing (R69), makes none and does not pass through READING
again. DESIGN CHOICE: R69, R91 and R98 do not say (log entry 26). -/
def State.upgradeOvertaken (s : State) (e : TTEntry) : Bool :=
  e.grantsUp && !e.orphaned &&
    match e.requester with
    | some (n, _) => s.standing n e.block != .owner && s.standing n e.block != .sharer
    | none => false

/-- R99: the RECLAIM of a block whose lookup found it HELD and GOOD removes the entry. -/
def State.respondReclaim (s : State) (i : TTIdx) (e : TTEntry) : State :=
  match e.lookup with
  | some (.held _ d) =>
    if d.failed then s
    else (s.removeEntry e.block).modEntry i fun x => { x with reclaimed := (s.dirEntry e.block).isSome }
  | _ => s

/-- R100: the POISON entry removes the directory entry and captures the loss. -/
def State.respondPoison (s : State) (e : TTEntry) : State :=
  (s.removeEntry e.block).offer { s.stamped .ownerLost with node := e.ownerOf .primary, block := some e.block }

/-- R70: what RESPONDING requires of each kind: the update, and the answer or nothing. -/
def State.respondKind (s : State) (i : TTIdx) (e : TTEntry) : State :=
  match e.kind with
  | .req _ => (s.respondUpdate i e).answer i
  | .reclaim => s.respondReclaim i e
  | .poison => s.respondPoison e

/-- R70, R91: RESPONDING begins: the update is applied and the answer is queued or held. -/
def State.respond (s : State) (i : TTIdx) (e : TTEntry) : State :=
  if s.upgradeOvertaken e then (s.modEntry i fun e => { e with upgradeAsX := true }).beginRead i
  else (s.respondKind i e).modEntry i fun e => { e with opened := true }

/-! ### Retirement and handoff (R70, R71) -/

/-- RECLAIM_BLOCK's result word: outcome, and the TT index where one was used (12 section 12.3). -/
def reclaimWord (reclaimed : Bool) (i : Option TTIdx) : Word :=
  placeBit 0 reclaimed ||| placeBit 1 i.isSome ||| place 8 ((i.map (·.val)).getD 0)

/-- R70, R181: the completion of a RECLAIM reported to the agent. -/
def State.reportReclaim (s : State) (i : TTIdx) (e : TTEntry) : State :=
  match s.agent with
  | .reclaiming c j => if j = i then s.reply c.sender c.tag .ok [reclaimWord e.reclaimed (some i)] else s
  | _ => s

/-- R154, R155: a walk learns of a retirement: the entry leaves the entries started, and a reading is due when it
was one of them or claimed a block of the set. -/
def Walk.retired (w : Walk) (i : TTIdx) (e : TTEntry) : Walk :=
  { w with
    started := w.started.erase i
    due := w.due || w.started.contains i || setOf e.block == w.pos ||
      (e.blockOf .victim).map setOf == some w.pos }

/-- A running walk changed. -/
def Job.modWalk (f : Walk → Walk) (j : Job) : Job :=
  match j.phase with
  | .walking w => { j with phase := .walking (f w) }
  | _ => j

/-- The first Hold Queue entry of a block in a state leaves the queue (R71, R73). -/
def HoldEntry.waitsFor (b : Block) (h : HoldEntry) : Bool := h.req.block == b && !h.ready

/-- R70, step 2: the claim on the victim block ends. -/
def State.freeVictim (s : State) (e : TTEntry) : State :=
  match e.blockOf .victim with
  | some v => s.setHeldReady v true
  | none => s

/-- R154: the walk learns of the retirement. -/
def State.tellWalk (s : State) (i : TTIdx) (e : TTEntry) : State :=
  { s with jobs := s.jobs.map (Job.modWalk fun w => w.retired i e) }

/-- R70, steps 3 and 4: the entry is handed to the oldest WAITING request for its block, or becomes free. -/
def State.handOff (s : State) (i : TTIdx) (b : Block) : State :=
  match s.hold.find? (HoldEntry.waitsFor b) with
  | some h => { s with hold := s.hold.eraseP (HoldEntry.waitsFor b) }.startHeld i h.req
  | none => s.setEntry i none

/-- R70: retirement, one action: the completion is reported, a reservation is given back, the victim's claim
ends, and the entry is handed off or becomes free. -/
def State.retire (s : State) (i : TTIdx) (e : TTEntry) : State :=
  (((((s.reportReclaim i e).giveBack i e.block).freeVictim e).tellWalk i e)).handOff i e.block

/-! ### One action of one entry (R62) -/

/-- R62: what an entry does next of its own accord, if anything: none while it waits for an acknowledgement, for
its memory operation or for its held answer. -/
def State.entryStep (s : State) (i : TTIdx) : Option State :=
  match s.entry i with
  | none => none
  | some e =>
    if e.memOp.isSome then none
    else match e.phase with
      | .repairing =>
        if e.opened then some (s.beginFlow i)
        else if fullyResolved e.recalls then some (s.endRepair i .primary e e.block) else none
      | .evicting =>
        if e.opened then some (s.beginFlow i)
        else match e.victim with
          | none => some (s.beginFlow i)
          | some v =>
            if fullyResolved v.recalls then some (s.endVictim i e v) else none
      | .recalling => if fullyResolved e.recalls then some (s.afterRecalls i) else none
      | .reading => some (s.complete i)
      | .writing => some (s.modEntry i fun e => { e with phase := .responding })
      | .responding =>
        if !e.opened then some (s.respond i e)
        else if e.held = [] then some (s.retire i e) else none

end Sys2Proof.Machine
end

