-- ==== Sys2Proof/Machine/Sweep.lean ====
section
/-! DEFINITION. The Sweep Engine: the Sweep List, draining, the walk and the ends of jobs (chapter 9). -/

namespace Sys2Proof.Machine

/-! ### The Sweep List (R151, R152) -/

/-- R152: the job is running: DRAINING or WALKING. -/
def Job.running (j : Job) : Bool :=
  match j.phase with
  | .draining | .walking _ => true
  | _ => false

/-- The job is QUEUED. -/
def Job.isQueued (j : Job) : Bool := j.phase == .queued

/-- A job of the list given a phase; no two jobs of a list have the same kind and target (R151). -/
def State.setPhase (s : State) (k : JobKind) (p : JobPhase) : State :=
  { s with jobs := s.jobs.map fun j => if j.kind = k then { j with phase := p } else j }

def State.runningJob (s : State) : Option Job := s.jobs.find? Job.running

/-- R151: a job that is not a fence job. -/
def JobKind.nonFence : JobKind → Bool
  | .fenceNode _ => false
  | _ => true

/-- R151: a CLOSE_REGION or QUIESCE_NODE job goes to the tail of the list. -/
def State.placeJob (s : State) (k : JobKind) : State := { s with jobs := s.jobs ++ [⟨k, .queued⟩] }

/-- R151: a FENCE_NODE job goes immediately ahead of the non-fence job when that job is QUEUED, and to the tail
otherwise. -/
def placeFenceJob (n : NodeId) (jobs : List Job) : List Job :=
  match jobs with
  | [] => [⟨.fenceNode n, .queued⟩]
  | j :: rest => if j.kind.nonFence && j.isQueued then ⟨.fenceNode n, .queued⟩ :: j :: rest else j :: placeFenceJob n rest

/-- R34, R139: the list holds a non-fence job. -/
def State.nonFenceListed (s : State) : Bool := s.jobs.any fun j => j.kind.nonFence

/-! ### Draining and the final tests (R153, R159) -/

/-- A block lies in the range of a region record. -/
def State.inRegion (s : State) (r : RegionIdx) (b : Block) : Bool := (s.region r).contains b

/-- R153, R159: no TT entry claims a block of the region and no Hold Queue entry names one. -/
def State.regionDrained (s : State) (r : RegionIdx) : Bool :=
  (allTT.all fun i => match s.entry i with
    | none => true
    | some e => !s.inRegion r e.block && !(match e.blockOf .victim with | some v => s.inRegion r v | none => false)) &&
  s.hold.all fun h => !s.inRegion r h.req.block

/-- R153: no TT entry in use and no Hold Queue entry has the node as requester. -/
def State.nodeDrained (s : State) (n : NodeId) : Bool :=
  (allTT.all fun i => match s.entry i with
    | none => true
    | some e => !e.requestedBy n) &&
  s.hold.all fun h => h.req.node != n

/-- R159: no TT entry holds an unresolved recall member for the node. -/
def State.noMember (s : State) (n : NodeId) : Bool :=
  allTT.all fun i => match s.entry i with
    | none => true
    | some e => (e.openMember .primary n).isNone && (e.openMember .victim n).isNone

/-- R153: the drain condition of a job. -/
def State.drained (s : State) : JobKind → Bool
  | .closeRegion r _ => s.regionDrained r
  | .quiesceNode n => s.nodeDrained n
  | .fenceNode _ => true

/-- R159: the final test of a job whose walk has passed every set. -/
def State.finalTest (s : State) : JobKind → Bool
  | .closeRegion r _ => s.regionDrained r
  | .quiesceNode n => s.noMember n
  | .fenceNode _ => true

/-! ### The end of a job (R140, R159, R161) -/

/-- R6: both inboxes emptied and both credit counts zero. -/
def Port.silenced (p : Port) : Port := { p with requests := [], returns := [], requestCredits := 0, returnCredits := 0 }

/-- R140: the node of a completed quiesce becomes OFFLINE. -/
def State.quiesceDone (s : State) (n : NodeId) : State :=
  (s.modNode n fun r => { r with state := .offline }).modPort n Port.silenced

/-- R159: the outcome COMPLETED is applied: a region becomes CLOSED (R34), a node OFFLINE (R140). -/
def State.applyOutcome (s : State) : JobKind → State
  | .closeRegion r _ => s.modRegion r fun x => { x with state := .closed }
  | .quiesceNode n => s.quiesceDone n
  | .fenceNode _ => s

/-- R159, R161: a job reaches DONE with outcome COMPLETED; its notice is queued at once when the notice node is
reachable. -/
def State.jobDone (s : State) (k : JobKind) : State :=
  ((s.setPhase k (.done .completed .pending)).applyOutcome k).queueJobNotices

/-! ### The walk (R154 to R158) -/

/-- R154: a HELD way that the walk of a job must act on. -/
def State.mustAct (s : State) (k : JobKind) (e : DirEntry) : Bool :=
  match k with
  | .closeRegion r _ => s.inRegion r e.block
  | .quiesceNode n => e.failed || e.rights.holders.has n
  | .fenceNode n => e.failed || e.rights.holders.has n

/-- R155, R158: the way needs a TT entry: every way of a close or quiesce walk, and a way owned by the target in a
fence walk. -/
def JobKind.needsEntry (k : JobKind) (e : DirEntry) : Bool :=
  match k with
  | .fenceNode n => e.rights.owner == some n
  | _ => true

/-- The HELD ways of a set, in ascending way order, that the walk must act on. -/
def State.waysToAct (s : State) (k : JobKind) (pos : SetIdx) : List (WayIdx × DirEntry) :=
  allWays.filterMap fun w => ((s.dirSet pos).way w).entry?.bind fun e => if s.mustAct k e then some (w, e) else none

/-- R155: the first unclaimed way that needs an entry. -/
def State.wayToStart (s : State) (k : JobKind) (pos : SetIdx) : Option (WayIdx × DirEntry) :=
  (s.waysToAct k pos).find? fun p => k.needsEntry p.2 && !s.claimed p.2.block

/-- R158: the sharers that a fence walk's reading removes: the fenced node, from every unclaimed SHARED entry of
the set with status GOOD that names it. -/
def State.removeSharers (s : State) (k : JobKind) (pos : SetIdx) : State :=
  match k with
  | .fenceNode n =>
    (s.waysToAct k pos).foldl (fun t p =>
      if p.2.failed || k.needsEntry p.2 || s.claimed p.2.block then t else t.removeHolder n p.2.block) s
  | _ => s

/-- The next set after a position that is not empty; a reading of an empty set finds nothing to act on (log
entry 15). -/
def Directory.nextSet (d : Directory) (pos : SetIdx) : Option SetIdx := (d.find? fun p => pos < p.1).map (·.1)

/-- R154: the walk leaves its set, and its job's walk has passed every set when it leaves set 2047. -/
def State.leaveSet (s : State) (pos : SetIdx) : Walk :=
  match Directory.nextSet s.dir pos with
  | some k => .enter k
  | none => { Walk.enter (Fin.last 2047) with passed := true, due := false }

/-- R154: what a reading leaves of the walk, the sharers having been removed. -/
def State.afterReading (s : State) (k : JobKind) (w : Walk) : Walk :=
  if s.waysToAct k w.pos = [] ∧ w.started = [] then s.leaveSet w.pos
  else { w with due := false, wants := (s.wayToStart k w.pos).isSome }

/-- R154: one reading of the set at the walk position. -/
def State.readSet (s : State) (k : JobKind) (w : Walk) : State :=
  (s.removeSharers k w.pos).setPhase k (.walking ((s.removeSharers k w.pos).afterReading k w))

/-- R155: the entry that a walk starts: POISON for a fence walk, RECLAIM for the others. -/
def State.startForWalk (s : State) (i : TTIdx) (k : JobKind) (way : WayIdx) (e : DirEntry) : State :=
  match k with
  | .fenceNode _ => s.startPoison i way e
  | _ => s.startReclaim i .sweep e.block

/-- R155: a grant to the Sweep Engine: the entry is started on the first way that still needs one, and the set is
to be read again. -/
def State.grantSweep (s : State) (i : TTIdx) (k : JobKind) (w : Walk) : State :=
  match s.wayToStart k w.pos with
  | none => s.setPhase k (.walking { w with due := true, wants := false })
  | some (way, e) =>
    (s.setPhase k (.walking { w with started := w.started ++ [i], due := true, wants := false })).startForWalk i k way e

/-! ### One action of the Sweep Engine -/

/-- R152: a job begins. -/
def State.beginJob (s : State) (k : JobKind) : State :=
  match k with
  | .fenceNode _ => s.setPhase k (.walking (.enter 0))
  | _ => s.setPhase k .draining

/-- R153: a close job whose untracked flag is set has no walk. -/
def JobKind.noWalk : JobKind → Bool
  | .closeRegion _ untracked => untracked
  | _ => false

/-- What the Sweep Engine does next of its own accord, if anything. -/
def State.sweepStep (s : State) : Option State :=
  match s.runningJob with
  | none => (s.jobs.find? Job.isQueued).map fun j => s.beginJob j.kind
  | some j =>
    match j.phase with
    | .draining =>
      if s.drained j.kind then
        some (if j.kind.noWalk then s.jobDone j.kind else s.setPhase j.kind (.walking (.enter 0)))
      else none
    | .walking w =>
      if w.passed then if s.finalTest j.kind then some (s.jobDone j.kind) else none
      else if w.due then some (s.readSet j.kind w) else none
    | _ => none

end Sys2Proof.Machine
end

