-- ==== Sys2Proof/Machine/Settle.lean ====
section
/-! DEFINITION. What the bridge does of its own accord inside one step, action by action, until nothing more can act (95_what_each_step_holds.md; log entry 6). -/

namespace Sys2Proof.Machine

/-! ### The allocator (R60, R73, R181) -/

/-- R73: the oldest READY Hold Queue entry is started: it leaves the queue, and every other entry naming its
block becomes WAITING. -/
def State.grantHeld (s : State) (i : TTIdx) (q : Request) : State :=
  ({ s with hold := s.hold.eraseP (·.ready) }.setHeldReady q.block false).startHeld i q

/-- R181: a grant to the agent: a RECLAIM when the region is still COHERENT or CLOSING, and otherwise an answer
NOT_HELD with no TT index, the grant unused. -/
def State.grantAgent (s : State) (i : TTIdx) (c : ReclaimCmd) : State :=
  if s.tracked c.block then ({ s with agent := .reclaiming c i }).startReclaim i .control c.block
  else s.reply c.sender c.tag .ok [reclaimWord false none]

/-- R60, R155: the walk that is a claimant of the allocator, with its job. -/
def State.sweepClaim (s : State) : Option (JobKind × Walk) :=
  s.runningJob.bind fun j => match j.phase with
    | .walking w => if w.wants then some (j.kind, w) else none
    | _ => none

/-- R60, R180: the RECLAIM_BLOCK for which the agent is a claimant. -/
def State.agentClaim (s : State) : Option ReclaimCmd :=
  match s.agent with
  | .waiting c => if s.claimed c.block then none else some c
  | _ => none

/-- R60: a claimant of priority 1 to 3 is present. -/
def State.claimantPresent (s : State) : Bool :=
  s.hold.any (·.ready) || s.sweepClaim.isSome || s.agentClaim.isSome

/-- R60: one grant of the allocator: the lowest-numbered free entry to the claimant of highest priority present. -/
def State.allocStep (s : State) : Option State :=
  match s.freeTT with
  | none => none
  | some i =>
    match s.hold.find? (·.ready) with
    | some h => some (s.grantHeld i h.req)
    | none =>
      match s.sweepClaim with
      | some (k, w) => some (s.grantSweep i k w)
      | none => s.agentClaim.map fun c => s.grantAgent i c

/-! ### The actions of a step in turn -/

/-- The first TT entry that can act, those named in the step's input before the others (log entry 5). -/
def State.entryAct (s : State) : Option State := (s.now.order ++ allTT).findSome? fun i => s.entryStep i

/-- One action: the Sweep Engine's, else a grant, else a TT entry's. -/
def State.act (s : State) : Option State := s.sweepStep <|> s.allocStep <|> s.entryAct

/-- Actions until none can be made. -/
def settleWith (fuel : Nat) (s : State) : State :=
  match fuel with
  | 0 => s
  | n + 1 => match s.act with
    | none => s
    | some t => settleWith n t

/-- What comes about inside a step after its event. -/
def State.settle (s : State) : State := settleWith Config.settleFuel s

end Sys2Proof.Machine
end

