-- ==== Sys2Proof/Machine/Fence.lean ====
section
/-! DEFINITION. The start of every step, the fence of a node, and the expiry of a recall deadline (chapters 4.5 and 8.3). -/

namespace Sys2Proof.Machine

/-! ### Every step -/

/-- A step begins: its input is taken and nothing has been driven yet (log entries 4 and 5). -/
def State.beginStep (s : State) : State :=
  { s with inputs := s.inputs.tail, now := s.inputs.headD StepInput.plain, out := [] }

/-- R186: a command acts only while the bridge runs; while a cold reset holds it, nothing is taken. -/
def run (f : State → State) (s : State) : Host.Outcome State Fault Refusal :=
  .next (if s.running then f s.beginStep else s.beginStep)

/-! ### The fence (R142) -/

/-- R12: a message withdrawn from a node's Outbound Queue releases its producer. -/
def State.withdraw (n : NodeId) (s : State) (m : OutMsg) : State :=
  match m.producer with
  | .tt i => s.modTT i fun t => { t with pacing := t.pacing.del n }
  | .wb w => s.setWB w none
  | .intake => { s with refusalMarks := s.refusalMarks.del n }
  | .agent => { s with agent := .ready }
  | .capture c escalation => s.modSlot c fun t => t.noticeGone escalation .pending
  | .job k => { s with jobs := s.jobs.map (Job.noticeWithdrawn k) }
  | .nodeManager => s

/-- R6, R12: the node's inboxes and Outbound Queue are emptied, with the releases of the withdrawn messages. -/
def State.silencePort (s : State) (n : NodeId) : State :=
  (s.port n).outbound.foldl (State.withdraw n) (s.modPort n fun p => { p.silenced with outbound := [] })

/-- R64, R69: at a fence an entry discards what it holds for the node, and is orphaned when the node is its
requester. -/
def TTEntry.fenced (n : NodeId) (e : TTEntry) : TTEntry :=
  { e with held := e.held.filter fun p => p.1 != n, orphaned := e.orphaned || e.requestedBy n }

/-- R67: every unresolved member for the node, in every entry, is resolved. -/
def State.resolveAll (s : State) (n : NodeId) : State :=
  (s.now.order ++ allTT).foldl (fun t i => (t.resolveAtFence i .primary n).resolveAtFence i .victim n) s

/-- R115: the fence sets the fenced mark of the writer's entries. -/
def WBEntry.fence (n : NodeId) (e : WBEntry) : WBEntry := if e.writer = n then { e with fenced := true } else e

/-- R160: the node's quiesce job, in any phase but DONE, ends with outcome ABANDONED. -/
def Job.abandon (n : NodeId) (j : Job) : Job :=
  match j.phase with
  | .done _ _ => j
  | _ => if j.kind = .quiesceNode n then { j with phase := .done .abandoned .pending } else j

/-- R142: the fence's effect on the Hold Queue and the Transaction Table: the node's held requests are removed, and
its entries are orphaned. -/
def State.fenceRequests (s : State) (n : NodeId) : State :=
  { s with hold := (s.hold.filter fun h => h.req.node != n),
           tt := s.tt.map fun t => { t with work := t.work.map (TTEntry.fenced n) } }

/-- R142: the fence's effect on the Writeback Buffer, the Control Queue and the Sweep List. -/
def State.fenceLists (s : State) (n : NodeId) : State :=
  { s with wb := s.wb.map (Option.map (WBEntry.fence n)),
           controlQ := (s.controlQ.filter fun c => c.sender != n),
           jobs := placeFenceJob n (s.jobs.map (Job.abandon n)) }

/-- R137: the node's record at its fence. -/
def NodeRec.fence (reason : FenceReason) (r : NodeRec) : NodeRec :=
  { r with state := .fenced, fenceReason := some reason, fenceJob := true }

/-- R170: the notices of the slots up to DATA_LOSS, in slot order. -/
def State.queueEarlyNotices (s : State) : State := ((s.queueNotice .node).queueNotice .memory).queueNotice .dataLoss

/-- R142: the fence of a node, one action. A slot is tested at the withdrawal of its notice and again at each OWNER_LOST
that the members offer (R170); the notices are queued in slot order, the job notices behind them (R147). That the
withdrawals come before the offers is DESIGN CHOICE (log entry 23). -/
def State.fence (s : State) (n : NodeId) (reason : FenceReason) : State :=
  (((((((s.modNode n (NodeRec.fence reason)).silencePort n).fenceRequests n).queueEarlyNotices).resolveAll n).queueNotice
    .directory).fenceLists n).queueJobNotices

/-! ### Expiry (R66) -/

/-- The unresolved member for a node whose deadline has been reached, with its role. -/
def State.expired (s : State) (e : TTEntry) (n : NodeId) : Option Role :=
  [Role.primary, Role.victim].find? fun r =>
    match (e.openMember r n).bind (·.deadline) with
    | some d => s.reached d
    | none => false

/-- R66: the expiry is captured and the node is fenced. -/
def State.expireRecall (s : State) (i : TTIdx) (n : NodeId) : State :=
  match s.entry i with
  | none => s
  | some e =>
    match s.expired e n with
    | none => s
    | some r =>
      let s := s.offer { s.stamped .recallTimeout with node := some n, block := e.blockOf r, tt := some i }
      (if (s.node n).state.counted then s.fence n .recallTimeout else s).settle

/-- RECALL_DEADLINE_EXPIRY (R66). -/
def execRecallDeadlineExpiry (tt : TTIdx) (node : NodeId) : State → Host.Outcome State Fault Refusal :=
  run fun s => s.expireRecall tt node

end Sys2Proof.Machine
end

