-- ==== Sys2Proof/Machine/Agent.lean ====
section
/-! DEFINITION. The Management Agent's take, and the node commands (chapters 8 and 11). -/

namespace Sys2Proof.Machine

/-! ### The take (R176 to R178) -/

/-- R178: a reply to the command in progress. -/
def State.answerOk (s : State) (c : ControlReq) (results : List Word) : State := s.reply c.sender c.tag .ok results

/-- R177: a refusal changes no state and carries no result words. -/
def State.refuseCmd (s : State) (c : ControlReq) (st : Status) : State := s.reply c.sender c.tag st []

/-- R176, R177: the agent takes the head of the Control Queue when it is READY and the head is one that `mine`
accepts; a head of the wrong argument count is answered BAD_ARGUMENT, and any other is performed. -/
def State.agentTake (s : State) (mine : ControlReq → Bool) (perform : State → ControlReq → State) : State :=
  match s.agent, s.controlQ with
  | .ready, c :: rest =>
    if mine c then
      let t := { s with controlQ := rest }
      if commandArgs c.code = some c.args.length then perform t c else t.refuseCmd c .badArgument
    else s
  | _, _ => s

/-- The command code of a request is the given one. -/
def ControlReq.is (code : BitVec 8) (c : ControlReq) : Bool := c.code == code

/-- A command that names a node: a node number above 7 is refused BAD_ARGUMENT. -/
def State.withNode (s : State) (c : ControlReq) (f : NodeId → State) : State :=
  match nodeOf c.index with
  | none => s.refuseCmd c .badArgument
  | some n => f n

/-! ### READ_NODE and WRITE_NODE (R146) -/

def State.readNode (s : State) (c : ControlReq) : State :=
  s.withNode c fun n => s.answerOk c (nodeWords (s.port n).link (s.node n))

/-- READ_NODE (R146). -/
def execReadNode : State → Host.Outcome State Fault Refusal := run fun s => s.agentTake (ControlReq.is 0x01#8) State.readNode

def State.writeNode (s : State) (c : ControlReq) : State :=
  s.withNode c fun n =>
    match c.timeout with
    | none => s.refuseCmd c .badArgument
    | some t => (s.modNode n fun r => { r with manager := c.managerFlag, recallTimeout := t }).answerOk c []

/-- WRITE_NODE (R146). -/
def execWriteNode : State → Host.Outcome State Fault Refusal := run fun s => s.agentTake (ControlReq.is 0x02#8) State.writeNode

/-! ### ADMIT_NODE (R138) -/

/-- R6, R138: a port with full credits and empty inboxes. -/
def Port.admitted (p : Port) : Port :=
  { p with requests := [], returns := [], requestCredits := Config.requestCapacity, returnCredits := Config.returnCapacity }

/-- R138: an OFFLINE node becomes ACTIVE and its credits are returned to it. -/
def State.makeActive (s : State) (n : NodeId) : State :=
  (((s.modNode n fun r => { r with state := .active, fenceReason := none }).modPort n Port.admitted).emit
    (.credits n .request Config.requestCapacity)).emit (.credits n .ret Config.returnCapacity)

def State.admitNode (s : State) (c : ControlReq) : State :=
  s.withNode c fun n =>
    if (s.node n).state = .offline ∧ (s.port n).link = .up then (s.makeActive n).answerOk c []
    else s.refuseCmd c .badState

/-- ADMIT_NODE (R138). -/
def execAdmitNode : State → Host.Outcome State Fault Refusal := run fun s => s.agentTake (ControlReq.is 0x03#8) State.admitNode

/-! ### QUIESCE_NODE (R139) -/

def State.quiesceNode (s : State) (c : ControlReq) : State :=
  s.withNode c fun n =>
    if (s.node n).state ≠ .active then s.refuseCmd c .badState
    else if s.nonFenceListed then s.refuseCmd c .busy
    else
      ((s.modNode n fun r => { r with state := .quiescing }).placeJob (.quiesceNode n)).reply c.sender c.tag .accepted []

/-- QUIESCE_NODE (R139). -/
def execQuiesceNode : State → Host.Outcome State Fault Refusal :=
  run fun s => s.agentTake (ControlReq.is 0x04#8) fun t c => (t.quiesceNode c).settle

/-! ### FENCE_NODE and RELEASE_NODE (R141, R144) -/

def State.fenceNode (s : State) (c : ControlReq) : State :=
  s.withNode c fun n =>
    if (s.node n).state.counted then (s.fence n .control).reply c.sender c.tag .accepted []
    else s.refuseCmd c .badState

/-- FENCE_NODE (R141). -/
def execFenceNode : State → Host.Outcome State Fault Refusal :=
  run fun s => s.agentTake (ControlReq.is 0x05#8) fun t c => (t.fenceNode c).settle

def State.releaseNode (s : State) (c : ControlReq) : State :=
  s.withNode c fun n =>
    if (s.node n).state ≠ .fenced then s.refuseCmd c .badState
    else if (s.node n).fenceJob then s.refuseCmd c .busy
    else ((s.modNode n fun r => { r with state := .offline }).answerOk c []).flushNotices

/-- RELEASE_NODE (R144). -/
def execReleaseNode : State → Host.Outcome State Fault Refusal :=
  run fun s => s.agentTake (ControlReq.is 0x06#8) State.releaseNode

/-! ### SET_NOTICE_NODE (R147) -/

def State.setNoticeNode (s : State) (c : ControlReq) : State :=
  s.withNode c fun n => (({ s with noticeNode := n }).answerOk c []).flushNotices

/-- SET_NOTICE_NODE (R147). -/
def execSetNoticeNode : State → Host.Outcome State Fault Refusal :=
  run fun s => s.agentTake (ControlReq.is 0x07#8) State.setNoticeNode

end Sys2Proof.Machine
end

