-- ==== Sys2Proof/Machine/AgentRegion.lean ====
section
/-! DEFINITION. The region commands and the Directory commands (chapter 2, section 2.4, and chapter 11, section 11.3). -/

namespace Sys2Proof.Machine

/-- A command that names a region: an index above 15 is refused BAD_ARGUMENT. -/
def State.withRegion (s : State) (c : ControlReq) (f : RegionIdx → State) : State :=
  match regionOf c.index with
  | none => s.refuseCmd c .badArgument
  | some r => f r

/-! ### READ_REGION and WRITE_REGION (R31, R32) -/

def State.readRegion (s : State) (c : ControlReq) : State :=
  s.withRegion c fun r => s.answerOk c (regionWords r (s.region r))

/-- READ_REGION (R31). -/
def execReadRegion : State → Host.Outcome State Fault Refusal :=
  run fun s => s.agentTake (ControlReq.is 0x08#8) State.readRegion

/-- R32, steps 3 to 5: the ranges that the arguments name. -/
def ControlReq.rangesOk (c : ControlReq) : Bool :=
  1 ≤ c.countArg && c.countArg ≤ Config.maxCount && c.baseArg + c.countArg - 1 ≤ Config.maxBlock &&
    c.memBaseArg + c.countArg - 1 ≤ Config.maxBlock

def State.writeRegion (s : State) (c : ControlReq) : State :=
  s.withRegion c fun r =>
    if (s.region r).state ≠ .closed then s.refuseCmd c .badState
    else if !c.rangesOk then s.refuseCmd c .badArgument
    else match portOfCode c.portCode, Policy.ofCode c.policyCode with
      | some port, some policy =>
        (s.modRegion r fun x =>
          ⟨x.state, BitVec.ofNat 34 c.baseArg, c.countArg, port, BitVec.ofNat 34 c.memBaseArg, c.readSetArg, c.writeSetArg,
            policy⟩).answerOk c []
      | _, _ => s.refuseCmd c .badArgument

/-- WRITE_REGION (R32). -/
def execWriteRegion : State → Host.Outcome State Fault Refusal :=
  run fun s => s.agentTake (ControlReq.is 0x09#8) State.writeRegion

/-! ### OPEN_REGION and CLOSE_REGION (R33, R34) -/

/-- R33: two ranges of numbers share a member. -/
def rangesMeet (a n b m : Nat) : Bool := max a b < min (a + n) (b + m)

/-- R33, steps 4 and 5: two records share a block, or an address of one memory port. -/
def Region.meets (x y : Region) : Bool :=
  rangesMeet x.base.toNat x.count y.base.toNat y.count ||
    (x.port == y.port && rangesMeet x.memBase.toNat x.count y.memBase.toNat y.count)

/-- R33, steps 4 and 5: no other record that is not CLOSED meets this one. -/
def State.opensClear (s : State) (r : RegionIdx) : Bool :=
  allRegions.all fun q => q == r || (s.region q).state == .closed || !(s.region r).meets (s.region q)

def State.openRegion (s : State) (c : ControlReq) : State :=
  match regionOf c.index, openMode c.mode with
  | some r, some mode =>
    if (s.region r).state = .closed ∧ 1 ≤ (s.region r).count ∧ s.opensClear r then
      (s.modRegion r fun x => { x with state := mode }).answerOk c []
    else s.refuseCmd c .badState
  | _, _ => s.refuseCmd c .badArgument

/-- OPEN_REGION (R33). -/
def execOpenRegion : State → Host.Outcome State Fault Refusal :=
  run fun s => s.agentTake (ControlReq.is 0x0A#8) State.openRegion

/-- R34: the state of a region that may be closed. -/
def RegionState.closable : RegionState → Bool
  | .coherent | .untracked => true
  | _ => false

def State.closeRegion (s : State) (c : ControlReq) : State :=
  s.withRegion c fun r =>
    if !(s.region r).state.closable then s.refuseCmd c .badState
    else if s.nonFenceListed then s.refuseCmd c .busy
    else
      ((s.modRegion r fun x => { x with state := .closing }).placeJob
        (.closeRegion r ((s.region r).state == .untracked))).reply c.sender c.tag .accepted []

/-- CLOSE_REGION (R34). -/
def execCloseRegion : State → Host.Outcome State Fault Refusal :=
  run fun s => s.agentTake (ControlReq.is 0x0B#8) fun t c => (t.closeRegion c).settle

/-! ### PROBE_BLOCK (R55, R179) -/

/-- R55: the way that is RESERVED for a block. -/
def DirSet.reservedFor (ds : DirSet) (b : Block) : Option WayIdx :=
  allWays.find? fun w => match ds.way w with | .reserved _ x => x == b | _ => false

/-- R55: a way's position in the recency order, 1 being the front. -/
def DirSet.position (ds : DirSet) (w : WayIdx) : Nat := if ds.recency.contains w then ds.recency.idxOf w + 1 else 0

/-- PROBE_BLOCK's first result word: the Directory's reading (12 section 12.3). -/
def State.probeHolding (s : State) (b : Block) : Word :=
  let ds := s.dirSet (setOf b)
  match ds.findHeld b with
  | some (w, e) =>
    place 0 1 ||| placeBit 2 e.rights.owner.isSome ||| placeBit 3 e.failed ||| place 4 w.val |||
      place 8 ((e.rights.owner.map (·.val)).getD 0) ||| place 16 e.rights.holders.toNat ||| place 24 (ds.position w)
  | none => match ds.reservedFor b with
    | some w => place 0 2 ||| place 4 w.val
    | none => 0#32

/-- PROBE_BLOCK's second result word: the set and the claim (12 section 12.3). -/
def State.probeClaim (s : State) (b : Block) : Word :=
  place 0 (setOf b).val |||
    match s.claimant b with
    | none => 0#32
    | some (i, r) => place 12 (match r with | .primary => 1 | .victim => 2) ||| place 16 i.val

def State.probeBlock (s : State) (c : ControlReq) : State :=
  match c.blockArg with
  | none => s.refuseCmd c .badArgument
  | some b => s.answerOk c [s.probeHolding b, s.probeClaim b]

/-- PROBE_BLOCK (R179). -/
def execProbeBlock : State → Host.Outcome State Fault Refusal :=
  run fun s => s.agentTake (ControlReq.is 0x0C#8) State.probeBlock

/-! ### RECLAIM_BLOCK (R180) -/

def State.reclaimBlock (s : State) (c : ControlReq) : State :=
  match c.blockArg with
  | none => s.refuseCmd c .badArgument
  | some b => if s.tracked b then { s with agent := .waiting ⟨c.sender, c.tag, b⟩ } else s.refuseCmd c .badState

/-- RECLAIM_BLOCK (R180). -/
def execReclaimBlock : State → Host.Outcome State Fault Refusal :=
  run fun s => s.agentTake (ControlReq.is 0x0D#8) fun t c => (t.reclaimBlock c).settle

end Sys2Proof.Machine
end

