-- ==== Sys2Proof/Machine/AgentStatus.lean ====
section
/-! DEFINITION. The capture commands, READ_STATUS, the memory port commands and the command code that names no command (chapters 7.7, 10.4, 11.4). -/

namespace Sys2Proof.Machine

/-! ### READ_CAPTURE and RELEASE_CAPTURE (R172, R173) -/

/-- A command that names a slot: a slot number above 3 is refused BAD_ARGUMENT. -/
def State.withSlot (s : State) (c : ControlReq) (f : CaptureClass → State) : State :=
  match slotOf c.index with
  | none => s.refuseCmd c .badArgument
  | some k => f k

def State.readCapture (s : State) (c : ControlReq) : State :=
  s.withSlot c fun k => s.answerOk c (slotWords (s.slot k))

/-- READ_CAPTURE (R172). -/
def execReadCapture : State → Host.Outcome State Fault Refusal :=
  run fun s => s.agentTake (ControlReq.is 0x0E#8) State.readCapture

/-- R173: a slot emptied; its outstanding mark is kept. -/
def CaptureSlot.released (t : CaptureSlot) : CaptureSlot := { CaptureSlot.empty with outstanding := t.outstanding }

/-- RELEASE_CAPTURE's result word (12 section 12.3). -/
def CaptureSlot.releaseWord (t : CaptureSlot) : Word := place 0 t.overflow.toNat ||| placeBit 4 t.escalated

def State.releaseCapture (s : State) (c : ControlReq) : State :=
  s.withSlot c fun k => (s.modSlot k CaptureSlot.released).answerOk c [(s.slot k).releaseWord]

/-- RELEASE_CAPTURE (R173). -/
def execReleaseCapture : State → Host.Outcome State Fault Refusal :=
  run fun s => s.agentTake (ControlReq.is 0x0F#8) State.releaseCapture

/-! ### READ_STATUS (R182, R183) -/

/-- How many TT entries are in use. -/
def State.ttInUse (s : State) : Nat := allTT.countP fun i => (s.entry i).isSome

/-- How many Writeback Buffer entries are in use. -/
def State.wbInUse (s : State) : Nat := s.wb.toList.countP (·.isSome)

def TagState.isFlight : TagState → Bool
  | .inFlight _ _ _ => true
  | _ => false

def TagState.isStale : TagState → Bool
  | .stale _ _ => true
  | _ => false

/-- READ_STATUS GENERAL's words 3 and 5. -/
def MemPort.statusWord (p : MemPort) : Word :=
  place 0 p.issueQ.length ||| place 8 (p.tags.toList.countP TagState.isFlight) ||| place 16 (p.tags.toList.countP TagState.isStale)

/-- READ_STATUS GENERAL's result words (R182). -/
def State.generalWords (s : State) : List Word :=
  [place 0 s.ttInUse ||| place 8 s.hold.length ||| place 16 (s.hold.countP (·.ready)) ||| place 24 s.wbInUse |||
      place 28 s.controlQ.length,
    allNodes.foldl (fun w n => w ||| place (2 * n.val) (s.node n).state.code ||| placeBit (16 + n.val) ((s.port n).link == .up))
      (place 24 s.noticeNode.val),
    s.timeBase,
    s.mp0.statusWord,
    place 0 s.mp0.timeout.toNat ||| place 16 s.mp1.timeout.toNat,
    s.mp1.statusWord]

/-- The head is a READ_STATUS of part JOBS (R183). -/
def ControlReq.asksJobs (c : ControlReq) : Bool := c.is 0x10#8 && c.args.length == 1 && c.index == 1

def State.readStatusGeneral (s : State) (c : ControlReq) : State :=
  if c.index = 0 then s.answerOk c s.generalWords else s.refuseCmd c .badArgument

/-- READ_STATUS, part GENERAL (R182), and every READ_STATUS of no part (log entry 18). -/
def execReadStatusGeneral : State → Host.Outcome State Fault Refusal :=
  run fun s => s.agentTake (fun c => c.is 0x10#8 && !c.asksJobs) State.readStatusGeneral

def State.readStatusJobs (s : State) (c : ControlReq) : State := s.answerOk c (jobWords s.jobs)

/-- READ_STATUS, part JOBS (R183). -/
def execReadStatusJobs : State → Host.Outcome State Fault Refusal :=
  run fun s => s.agentTake ControlReq.asksJobs State.readStatusJobs

/-! ### SET_MEMORY_TIMEOUT and RESET_MEMORY_PORT (R135) -/

/-- A command that names a memory port: a code that names neither is refused BAD_ARGUMENT. -/
def State.withMemPort (s : State) (c : ControlReq) (f : MPort → State) : State :=
  match portOfCode c.index with
  | none => s.refuseCmd c .badArgument
  | some p => f p

def State.setMemoryTimeout (s : State) (c : ControlReq) : State :=
  s.withMemPort c fun p =>
    match c.timeout with
    | none => s.refuseCmd c .badArgument
    | some t => (s.modMP p fun x => { x with timeout := t }).answerOk c []

/-- SET_MEMORY_TIMEOUT (R135). -/
def execSetMemoryTimeout : State → Host.Outcome State Fault Refusal :=
  run fun s => s.agentTake (ControlReq.is 0x11#8) State.setMemoryTimeout

/-- R135: every STALE tag turned to FREE. -/
def MemPort.freeStale (p : MemPort) : MemPort := { p with tags := p.tags.map fun t => if t.isStale then .free else t }

def State.resetMemoryPort (s : State) (c : ControlReq) : State :=
  s.withMemPort c fun p =>
    if (s.mp p).tags.toList.any TagState.isFlight then s.refuseCmd c .busy
    else (s.modMP p MemPort.freeStale).answerOk c [place 0 ((s.mp p).tags.toList.countP TagState.isStale)]

/-- RESET_MEMORY_PORT (R135). -/
def execResetMemoryPort : State → Host.Outcome State Fault Refusal :=
  run fun s => s.agentTake (ControlReq.is 0x12#8) State.resetMemoryPort

/-! ### No command (R177) -/

/-- R177: a code that names none of the nineteen commands is answered BAD_COMMAND, whatever its arguments. -/
def State.badCommand (s : State) : State :=
  match s.agent, s.controlQ with
  | .ready, c :: rest =>
    if (commandArgs c.code).isNone then ({ s with controlQ := rest }).refuseCmd c .badCommand else s
  | _, _ => s

/-- BAD_COMMAND_CODE (R177). -/
def execBadCommandCode : State → Host.Outcome State Fault Refusal := run State.badCommand

end Sys2Proof.Machine
end

