-- ==== Sys2Proof/Machine/Link.lean ====
section
/-! DEFINITION. The Pool Link port's events: arrival, link up, link down and departure (chapter 1, sections 1.2 to 1.4). -/

namespace Sys2Proof.Machine

/-! ### Arrival (R3, R4, R7) -/

/-- The credits outstanding of a class. -/
def Port.credits (p : Port) : MsgClass → Nat
  | .request => p.requestCredits
  | .ret => p.returnCredits

/-- The inbox of a class. -/
def Port.inbox (p : Port) : MsgClass → List InMsg
  | .request => p.requests
  | .ret => p.returns

/-- R3: a message spends a credit and joins the tail of its class's inbox. -/
def Port.accept (p : Port) (cls : MsgClass) (m : InMsg) : Port :=
  match cls with
  | .request => { p with requests := p.requests ++ [m], requestCredits := p.requestCredits - 1 }
  | .ret => { p with returns := p.returns ++ [m], returnCredits := p.returnCredits - 1 }

/-- R19: a refusal by the intake: the message is queued and the node's pending-refusal mark is set. -/
def State.refuse (s : State) (n : NodeId) (m : Msg) : State :=
  { s.enqueue n .intake m with refusalMarks := s.refusalMarks.add n }

/-- R7: a CONTROL request from an OFFLINE manager. -/
def State.arriveControl (s : State) (n : NodeId) (m : InMsg) : State :=
  match m.parse .request with
  | .control code args =>
    if s.controlQ.length < Config.controlCapacity then { s with controlQ := s.controlQ ++ [⟨n, m.tag, code, args⟩] }
    else if s.refusalMarks.has n then s.offer { s.stamped .creditOverrun with node := some n }
    else s.refuse n (.controlReply m.tag .busy [])
  | _ => s.offer { s.stamped .malformed with node := some n }

/-- R3, R4, R7: a message arrives at a port. -/
def State.arrive (s : State) (n : NodeId) (cls : MsgClass) (m : InMsg) : State :=
  if (s.port n).link = .down then s
  else match (s.node n).state with
    | .active | .quiescing =>
      if (s.port n).credits cls = 0 then s.offer { s.stamped .creditOverrun with node := some n, block := m.block }
      else s.modPort n fun p => p.accept cls m
    | .offline =>
      if (s.node n).manager ∧ cls = .request ∧ m.kind = some .control then s.arriveControl n m else s
    | .fenced => s

/-- MESSAGE_ARRIVAL (R3). -/
def execMessageArrival (port : NodeId) (cls : MsgClass) (words : List Word) : State → Host.Outcome State Fault Refusal :=
  run fun s => match InMsg.ofWords words with
    | none => s
    | some m => s.arrive port cls m

/-! ### Link events (R8, R9) -/

/-- LINK_UP (R8): pending notices are queued when the notice node becomes reachable. -/
def execLinkUp (port : NodeId) : State → Host.Outcome State Fault Refusal :=
  run fun s =>
    if (s.port port).link = .up then s
    else (s.modPort port fun p => { p with link := .up }).flushNotices

/-- R9: a link that goes DOWN; an ACTIVE or QUIESCING node is fenced. -/
def State.linkDown (s : State) (n : NodeId) : State :=
  if (s.port n).link = .down then s
  else
    let s := s.modPort n fun p => { p with link := .down }
    if (s.node n).state.counted then
      ((s.offer { s.stamped .linkLost with node := some n }).fence n .linkLost).settle
    else s

/-- LINK_DOWN (R9). -/
def execLinkDown (port : NodeId) : State → Host.Outcome State Fault Refusal :=
  run fun s => s.linkDown port

/-! ### Departure (R10) -/

/-- R65: a departing RECALL sets its member's deadline. -/
def State.recallDeparted (s : State) (i : TTIdx) (n : NodeId) (b : Block) : State :=
  s.modMemberFor i b n fun m =>
    if m.resolved then m
    else { m with sent := .departed, deadline := some (s.timeBase + (s.node n).recallTimeout.zeroExtend 32) }

/-- R64: the pacing mark of an index for a node clears, and the message held for the node is queued. -/
def State.clearPacing (s : State) (i : TTIdx) (n : NodeId) : State :=
  (s.modTT i fun t => { t with pacing := t.pacing.del n }).flushHeld i n

/-- R161: a job whose JOB_NOTICE departed leaves the list; a fence job's flag clears (R137). -/
def State.jobLeaves (s : State) (k : JobKind) : State :=
  let s := { s with jobs := s.jobs.filter fun j => j.kind != k }
  match k with
  | .fenceNode n => s.modNode n fun r => { r with fenceJob := false }
  | _ => s

/-- R10: the effect of a departure at the message's producer. -/
def State.departed (s : State) (n : NodeId) (m : OutMsg) : State :=
  match m.producer with
  | .tt i =>
    (match m.msg with
      | .recall b _ => s.recallDeparted i n b
      | _ => s).clearPacing i n
  | .wb w => s.setWB w none
  | .intake => { s with refusalMarks := s.refusalMarks.del n }
  | .agent => { s with agent := .ready }
  | .capture c escalation => (s.modSlot c fun t => t.noticeGone escalation .delivered).queueNotice c
  | .job k => s.jobLeaves k
  | .nodeManager => s

/-- R10: the head of an Outbound Queue leaves it, and is delivered while the link is UP and lost while it is
DOWN. -/
def State.depart (s : State) (n : NodeId) : State :=
  match (s.port n).outbound with
  | [] => s
  | m :: rest =>
    let s := s.emit (if (s.port n).link = .up then .deliver n m.msg.words else .lost n)
    ((s.modPort n fun p => { p with outbound := rest }).departed n m).settle

/-- DEPARTURE (R10). -/
def execDeparture (port : NodeId) : State → Host.Outcome State Fault Refusal :=
  run fun s => s.depart port

end Sys2Proof.Machine
end

