-- ==== Sys2Proof/Machine/Intake.lean ====
section
/-! DEFINITION. The Request Intake (chapter 1, section 1.5). -/

namespace Sys2Proof.Machine

/-- The outcome of a take (chapter 1, section 1.5, first table). -/
inductive IntakeOutcome where
  /-- Refused at a check; the capture's block is that of the request where it has one. -/
  | refuse (b : Block) (reason : FaultReason)
  | control (c : ControlReq)
  | hold (q : Request) (ready : Bool)
  | dispatch (q : Request) (l : Loc)
  deriving DecidableEq, Repr

/-- R18: a request that has passed every check, by the state of its block. -/
def State.dispatchOutcome (s : State) (q : Request) (l : Loc) : IntakeOutcome :=
  if s.claimed q.block then .hold q false
  else if s.hold.any fun h => h.req.block == q.block then .hold q true
  else .dispatch q l

/-- R14 to R18: the checks of a head, in order. -/
def State.intakeOutcome (s : State) (n : NodeId) (m : InMsg) : IntakeOutcome :=
  match m.parse .request with
  | .control code args =>
    if (s.node n).manager then .control ⟨n, m.tag, code, args⟩ else .refuse 0#34 .notManager
  | .req k b w =>
    if (s.node n).state = .quiescing then .refuse b .nodeLeaving
    else match s.regionCheck n k b with
      | .fail r => .refuse b r
      | .pass l => s.dispatchOutcome ⟨n, m.tag, k, b, w⟩ l
  | _ => .refuse (m.block.getD 0#34) (if (s.node n).state = .quiescing then .nodeLeaving else .malformed)

/-- R13: the outcome has somewhere to go. -/
def State.hasRoom (s : State) : IntakeOutcome → Bool
  | .refuse _ _ => true
  | .control _ => s.controlQ.length < Config.controlCapacity
  | .hold _ _ => s.hold.length < Config.holdCapacity
  | .dispatch _ _ => s.freeTT.isSome && !s.claimantPresent

/-- R13: the head of an eligible port. -/
def State.eligibleHead (s : State) (n : NodeId) : Option InMsg :=
  match (s.port n).requests with
  | [] => none
  | m :: _ => if !s.refusalMarks.has n && s.hasRoom (s.intakeOutcome n m) then some m else none

/-- R13: the ports in the order in which the intake considers them. -/
def roundRobin (pos : NodeId) : List NodeId := (List.range 8).map fun k => Fin.ofNat 8 (pos.val + 1 + k)

/-- R15, R16, R17: the capture that goes with a refusal, if any. -/
def State.refusalRecord (s : State) (n : NodeId) (m : InMsg) (b : Block) (reason : FaultReason) : Option CaptureRecord :=
  match reason with
  | .malformed => some { s.stamped .malformed with node := some n, block := m.block }
  | .notManager => some { s.stamped .notManager with node := some n }
  | .notPermitted => some { s.stamped .notPermitted with node := some n, block := some b }
  | _ => none

/-- What becomes of a head that has been taken. -/
def State.intakeAct (s : State) (n : NodeId) (m : InMsg) : IntakeOutcome → State
  | .refuse b reason =>
    let t := s.refuse n (.fault m.tag b reason true)
    match s.refusalRecord n m b reason with
    | some r => t.offer r
    | none => t
  | .control c => { s with controlQ := s.controlQ ++ [c] }
  | .hold q ready => { s with hold := s.hold ++ [⟨q, ready⟩] }
  | .dispatch q l =>
    match s.freeTT with
    | some i => s.startEntry i (.ofRequest q .intake (some l))
    | none => s

/-- R5: the head leaves its inbox and one credit of its class returns to the node. -/
def Port.taken (p : Port) : MsgClass → Port
  | .request => { p with requests := p.requests.tail, requestCredits := p.requestCredits + 1 }
  | .ret => { p with returns := p.returns.tail, returnCredits := p.returnCredits + 1 }

/-- R5: a head is taken, whatever becomes of it. -/
def State.takeHead (s : State) (n : NodeId) (cls : MsgClass) : State :=
  (s.modPort n fun p => p.taken cls).emit (.credits n cls 1)

/-- R13: one take. -/
def State.intakeTake (s : State) : State :=
  match (roundRobin s.intakePos).findSome? fun n => (s.eligibleHead n).map fun m => (n, m) with
  | none => s
  | some (n, m) =>
    (({ s.takeHead n .request with intakePos := n }).intakeAct n m (s.intakeOutcome n m)).settle

/-- INTAKE_TAKE (R13). -/
def execIntakeTake : State → Host.Outcome State Fault Refusal := run State.intakeTake

end Sys2Proof.Machine
end

