-- ==== Sys2Proof/Machine/MemoryLink.lean ====
section
/-! DEFINITION. The Memory Link's events: issue, the four responses and the expiry of a deadline (chapter 7). -/

namespace Sys2Proof.Machine

/-! ### Issue (R120) -/

/-- R120: MREAD or MWRITE as it is sent under a tag. -/
def MemPort.command (p : MemPort) (mp : MPort) (t : MemTag) (op : MemOp) : OutEvent :=
  match op.kind with
  | .read => .mread mp t op.addr
  | .write => .mwrite mp t op.addr (((p.writeOf op.owner).map (·.beats)).getD .zero)

/-- R120: the head of the Issue Queue is issued under the lowest-numbered FREE tag. -/
def State.issue (s : State) (mp : MPort) : State :=
  match (s.mp mp).issueQ, (s.mp mp).freeTag with
  | op :: rest, some t =>
    let deadline := s.timeBase + (s.mp mp).timeout.zeroExtend 32
    (((s.emit ((s.mp mp).command mp t op)).modMP mp fun p =>
      { p with issueQ := rest, tags := p.tags.set t (.inFlight op deadline (Vector.replicate 4 none)) })).noteOp op.owner (some t)
  | _, _ => s

/-- MEMORY_ISSUE (R120). -/
def execMemoryIssue (mp : MPort) : State → Host.Outcome State Fault Refusal := run fun s => s.issue mp

/-! ### Responses (R121 to R134) -/

/-- The tag a response names, where it is in range. -/
def tagOf (tag : Nat) : Option MemTag := if h : tag < 16 then some ⟨tag, h⟩ else none

/-- R121, R134: what a response meets: a FREE tag (or none), an operation in flight, or a STALE tag. -/
inductive TagView where
  | none (t : MemTag)
  | flight (t : MemTag) (op : MemOp) (deadline : Time) (got : Vector (Option Beat) 4)
  | stale (t : MemTag) (kind : OpKind) (got : BitVec 4)
  deriving DecidableEq, Repr

/-- R121: a response that names a tag value outside 0 to 15 is treated as a response for a FREE tag; what its
capture records as the tag is a free value (log entry 8). -/
def State.tagView (s : State) (mp : MPort) (tag : Nat) : TagView :=
  match tagOf tag with
  | Option.none => .none (Config.capturedTag tag)
  | some t => match (s.mp mp).tags[t] with
    | .free => .none t
    | .inFlight op d got => .flight t op d got
    | .stale k got => .stale t k got

/-- R122, R123: a beat of a read in flight is kept; the fourth completes the read. -/
def State.keepBeat (s : State) (mp : MPort) (t : MemTag) (op : MemOp) (d : Time) (got : Vector (Option Beat) 4) (k : Fin 4)
    (x : Beat) : State :=
  if got[k].isSome then s.offer (s.readRecord .duplicateBeat mp t op.owner (gotCount got))
  else
    let got' := got.set k (some x)
    if gotCount got' = 4 then (s.modMP mp fun p => p.setTag t .free).deliverRead op.owner (gotBeats got')
    else s.modMP mp fun p => p.setTag t (.inFlight op d got')

/-- R133: a beat for a tag kept as a READ. -/
def State.staleBeat (s : State) (mp : MPort) (t : MemTag) (got : BitVec 4) (k : Fin 4) : State :=
  let got' := got ||| (1#4 <<< k.val)
  s.modMP mp fun p => p.setTag t (if got' = BitVec.allOnes 4 then .free else .stale .read got')

/-- R122, R123, R133, R134: an MBEAT with a beat index of 0 to 3. -/
def State.beat (s : State) (mp : MPort) (tag : Nat) (k : Fin 4) (x : Beat) : State :=
  match s.tagView mp tag with
  | .none t => s.unexpectedResponse mp t
  | .flight t op d got => match op.kind with
    | .read => s.keepBeat mp t op d got k x
    | .write => s.wrongKind mp t op.owner
  | .stale t kind got => match kind with
    | .read => s.staleBeat mp t got k
    | .write => s.unexpectedResponse mp t

/-- R134: an MBEAT whose beat index is outside 0 to 3 is discarded and captured whatever its tag. -/
def State.badBeat (s : State) (mp : MPort) (tag : Nat) : State :=
  s.unexpectedResponse mp ((tagOf tag).getD (Config.capturedTag tag))

/-- MBEAT (R122). -/
def execMbeat (mp : MPort) (tag beat : Nat) (data : BitVec 128) (mark : Bool) : State → Host.Outcome State Fault Refusal :=
  run fun s => if h : beat < 4 then (s.beat mp tag ⟨beat, h⟩ ⟨data, mark⟩).settle else s.badBeat mp tag

/-- R130: a write in flight under a tag succeeds. -/
def State.writeDone (s : State) (mp : MPort) (t : MemTag) (op : MemOp) : State :=
  (s.modMP mp fun p => (p.setTag t .free).dropWrite op.owner).deliverWrite op.owner true

/-- R130, R133, R134: an MACK. -/
def State.ack (s : State) (mp : MPort) (tag : Nat) : State :=
  match s.tagView mp tag with
  | .none t => s.unexpectedResponse mp t
  | .flight t op _ _ => match op.kind with
    | .write => s.writeDone mp t op
    | .read => s.wrongKind mp t op.owner
  | .stale t kind _ => match kind with
    | .write => s.modMP mp fun p => p.setTag t .free
    | .read => s.unexpectedResponse mp t

/-- MACK (R130). -/
def execMack (mp : MPort) (tag : Nat) : State → Host.Outcome State Fault Refusal := run fun s => (s.ack mp tag).settle

/-- R124, R131, R133, R134: an MFAULT. -/
def State.memFault (s : State) (mp : MPort) (tag : Nat) : State :=
  match s.tagView mp tag with
  | .none t => s.unexpectedResponse mp t
  | .flight t op _ got => match op.kind with
    | .read => s.endReadEarly mp t op got .readFault .free
    | .write => s.failWrite mp t op .writeFault .free
  | .stale t _ _ => s.modMP mp fun p => p.setTag t .free

/-- MFAULT (R124, R131). -/
def execMfault (mp : MPort) (tag : Nat) : State → Host.Outcome State Fault Refusal := run fun s => (s.memFault mp tag).settle

/-- R126, R131, R133, R134: an MREFUSE. -/
def State.memRefuse (s : State) (mp : MPort) (tag : Nat) : State :=
  match s.tagView mp tag with
  | .none t => s.unexpectedResponse mp t
  | .flight t op _ _ => match op.kind with
    | .read => s.refuseRead mp t op
    | .write => s.failWrite mp t op .portRefused .free
  | .stale t _ _ => s.modMP mp fun p => p.setTag t .free

/-- MREFUSE (R126, R131). -/
def execMrefuse (mp : MPort) (tag : Nat) : State → Host.Outcome State Fault Refusal := run fun s => (s.memRefuse mp tag).settle

/-! ### Expiry (R125, R131) -/

/-- R125, R131: an IN_FLIGHT tag's deadline expires: the tag becomes STALE and its operation ends early or fails. -/
def State.memExpire (s : State) (mp : MPort) (t : MemTag) : State :=
  match (s.mp mp).tags[t] with
  | .inFlight op d got =>
    if s.reached d then
      (match op.kind with
        | .read => s.endReadEarly mp t op got .readTimeout (.stale .read (gotSet got))
        | .write => s.failWrite mp t op .writeTimeout (.stale .write 0#4)).settle
    else s
  | _ => s

/-- MEMORY_DEADLINE_EXPIRY (R125, R131). -/
def execMemoryDeadlineExpiry (mp : MPort) (tag : MemTag) : State → Host.Outcome State Fault Refusal :=
  run fun s => s.memExpire mp tag

end Sys2Proof.Machine
end

