-- ==== Sys2Proof/Machine/Reset.lean ====
section
/-! DEFINITION. The warm reset, the cold reset and the time base (chapter 11, sections 11.5 and 11.6; R148). -/

namespace Sys2Proof.Machine

/-! ### RESTART (R184, R185) -/

/-- R21, R149: a port after warm reset: a DISCONNECT alone when the link is UP. -/
def Port.warm (p : Port) : Port :=
  { Port.cold with link := p.link, outbound := if p.link = .up then [⟨.disconnect, .nodeManager⟩] else [] }

/-- R149, R150: a node record after warm reset. -/
def NodeRec.warm (r : NodeRec) : NodeRec := { r with state := .offline, fenceReason := none, fenceJob := false }

/-- R35: a region record after warm reset. -/
def Region.warm (r : Region) : Region := { r with state := if r.state = .closing then .closed else r.state }

/-- R136: a tag after warm reset. -/
def TagState.warm : TagState → TagState
  | .inFlight op _ got => .stale op.kind (gotSet got)
  | t => t

/-- R136: a Memory Port after warm reset. -/
def MemPort.warm (p : MemPort) : MemPort := { p with issueQ := [], tags := p.tags.map TagState.warm, writes := [] }

/-- R175: a notice state after warm reset. -/
def NoticeState.warm : NoticeState → NoticeState
  | .queued => .pending
  | n => n

/-- R175: a capture slot after warm reset. -/
def CaptureSlot.warm (t : CaptureSlot) : CaptureSlot :=
  { t with lockNotice := t.lockNotice.warm, escalationNotice := t.escalationNotice.warm, outstanding := false }

/-- R184: every block takes its warm-reset values, and a DISCONNECT is queued to every node whose link is UP. -/
def State.warmReset (s : State) : State :=
  { State.reset with
    pending := s.pending, inputs := s.inputs, now := s.now, out := s.out,
    resetAsserted := s.resetAsserted, powerGood := s.powerGood,
    timeBase := s.timeBase, noticeNode := s.noticeNode,
    ports := s.ports.map Port.warm,
    nodes := s.nodes.map NodeRec.warm,
    regions := s.regions.map Region.warm,
    mp0 := s.mp0.warm, mp1 := s.mp1.warm,
    slots := s.slots.map CaptureSlot.warm }

/-- R184, R185: the warm reset, the reply on the issuing port when its link is UP, and the notices behind it. -/
def State.restart (s : State) (c : ControlReq) : State :=
  let t := s.warmReset
  (if (t.port c.sender).link = .up then t.answerOk c [] else t).flushNotices

/-- RESTART (R184). -/
def execRestart : State → Host.Outcome State Fault Refusal :=
  run fun s => s.agentTake (ControlReq.is 0x13#8) State.restart

/-! ### Cold reset (R186, R187) -/

/-- R186: every piece of state at its cold-reset value; the model's own fields and the two reset causes stay. -/
def State.cold (s : State) : State :=
  { State.reset with
    pending := s.pending, inputs := s.inputs, now := s.now, resetAsserted := s.resetAsserted, powerGood := s.powerGood }

/-- COLD_RESET (R186): the RESET input is asserted, or power is applied. It acts at any time. -/
def execColdReset (cause : ResetCause) (s : State) : Host.Outcome State Fault Refusal :=
  .next (match cause with
    | .resetInput => { s.beginStep.cold with resetAsserted := true }
    | .powerUp => { s.beginStep.cold with powerGood := false })

/-- COLD_RESET_RELEASE (R186): the RESET input is released, or power good is reported. -/
def execColdResetRelease (cause : ResetCause) (s : State) : Host.Outcome State Fault Refusal :=
  .next (match cause with
    | .resetInput => { s.beginStep with resetAsserted := false }
    | .powerUp => { s.beginStep with powerGood := true })

/-! ### The time base (R148) -/

/-- TIME_BASE_ADVANCE (R148). -/
def execTimeBaseAdvance : State → Host.Outcome State Fault Refusal :=
  run fun s => { s with timeBase := s.timeBase + 1#32 }

end Sys2Proof.Machine
end

