-- ==== Sys2Proof/Machine/Returns.lean ====
section
/-! DEFINITION. The Return Handler (chapter 6, sections 6.1 to 6.4, and R52). -/

namespace Sys2Proof.Machine

/-! ### The claimant's member -/

/-- R104, R107: the claimant of a block with the unresolved member for a node in its recall set for that block. -/
def State.memberOf (s : State) (n : NodeId) (b : Block) : Option (TTIdx × Role × TTEntry × Member) :=
  match s.claimant b with
  | none => none
  | some (i, r) => (s.entry i).bind fun e => (e.openMember r n).map fun m => (i, r, e, m)

/-- R42, R106: the entry that claims a block under repair, with its role. -/
def State.repairer (s : State) (b : Block) : Option (TTIdx × Role × TTEntry) :=
  (s.claimant b).bind fun p => (s.entry p.1).map fun e => (p.1, p.2, e)

/-- R105: absorption of a WRITEBACK: the beats go to the buffer of the block, and the member is marked. -/
def State.absorbWriteback (s : State) (i : TTIdx) (r : Role) (n : NodeId) (d : BlockData) : State :=
  s.modEntry i fun e =>
    (e.setBuffer r (.full d .absorbed)).modMember r n fun m => if m.resolved then m else { m with status := .absorbedWb }

/-- A member marked with a status. -/
def State.markMember (s : State) (i : TTIdx) (r : Role) (n : NodeId) (x : MemberStatus) : State :=
  s.modEntry i fun e => e.modMember r n fun m => if m.resolved then m else { m with status := x }

/-! ### WRITEBACK (R104 to R106) -/

/-- R104, R114: a Writeback Buffer entry is made, and its MWRITE is placed. -/
def State.makeWriteback (s : State) (w : WBIdx) (n : NodeId) (b : Block) (d : BlockData) : State :=
  match s.locate b with
  | some l =>
    (s.setWB w (some ⟨n, b, some ⟨l.port, l.addr, d, false⟩, false, .queued⟩)).placeWrite (.wb w) l.port l.addr d
  | none => (s.setWB w (some ⟨n, b, none, false, .donePending⟩)).enqueue n (.wb w) (.done 0#8 b)

/-- R106: a stray WRITEBACK: its beats are discarded, and it is answered DONE and captured. -/
def State.strayWriteback (s : State) (w : WBIdx) (n : NodeId) (b : Block) : State :=
  let s := (s.setWB w (some ⟨n, b, none, false, .donePending⟩)).enqueue n (.wb w) (.done 0#8 b)
  s.offer { s.stamped .strayWriteback with node := some n, block := some b }

/-- R52, R165: data offered to a repair that has data. -/
def State.multipleData (s : State) (i : TTIdx) (n : NodeId) (b : Block) : State :=
  s.offer { s.stamped .multipleData with node := some n, block := some b, tt := some i }

/-- R106: a WRITEBACK that comes after the repair of an entry has taken its data: stray, and a second data when its node
is a member of the repair, resolved or not. An unresolved member is marked (R52). -/
def State.lateWriteback (s : State) (w : WBIdx) (n : NodeId) (b : Block) (i : TTIdx) (r : Role) (e : TTEntry) : State :=
  let t := (s.markMember i r n .absorbedWb).strayWriteback w n b
  if (e.recallsOf r).any fun m => m.node == n then t.multipleData i n b else t

/-- R52, R106: a WRITEBACK on a block under repair. -/
def State.repairWriteback (s : State) (w : WBIdx) (n : NodeId) (b : Block) (d : BlockData) : State :=
  match s.repairer b with
  | none => s.strayWriteback w n b
  | some (i, r, e) =>
    if (e.bufferOf r).source.isSome then s.lateWriteback w n b i r e
    else if (e.openMember r n).isSome then (s.absorbWriteback i r n d).makeWriteback w n b d
    else s.strayWriteback w n b

/-- R104: a WRITEBACK from the recorded owner. -/
def State.ownerWriteback (s : State) (w : WBIdx) (n : NodeId) (b : Block) (d : BlockData) : State :=
  let t := match s.memberOf n b with
    | some (i, r, _, _) => (s.removeHolder n b).absorbWriteback i r n d
    | none => s.removeHolder n b
  t.makeWriteback w n b d

/-- A WRITEBACK by the node's standing (chapter 6, first table). -/
def State.takeWriteback (s : State) (w : WBIdx) (n : NodeId) (b : Block) (d : BlockData) : State :=
  match s.standing n b with
  | .owner => s.ownerWriteback w n b d
  | .sharer => s.strayWriteback w n b
  | .notHolder => s.strayWriteback w n b
  | .underRepair => s.repairWriteback w n b d

/-! ### EVICT_CLEAN (R107) -/

/-- R107: the claimant's unresolved member for the node, if any, is marked ABSORBED_EVICT. -/
def State.absorbEvict (s : State) (n : NodeId) (b : Block) : State :=
  match s.memberOf n b with
  | some (i, r, _, _) => s.markMember i r n .absorbedEvict
  | none => s

/-- R107: an EVICT_CLEAN by the node's standing. -/
def State.takeEvict (s : State) (n : NodeId) (b : Block) : State :=
  match s.standing n b with
  | .owner | .sharer => (s.removeHolder n b).absorbEvict n b
  | .notHolder => s
  | .underRepair => s.absorbEvict n b

/-! ### RECALL_ACK (R108 to R113) -/

/-- R110, R111, R112: an ACK_MISMATCH capture. -/
def State.ackMismatch (s : State) (i : TTIdx) (n : NodeId) (b : Block) : State :=
  s.offer { s.stamped .ackMismatch with node := some n, block := some b, tt := some i }

/-- A member resolved by an acknowledgement. -/
def State.resolveBy (s : State) (i : TTIdx) (r : Role) (n : NodeId) (x : Resolution) : State :=
  s.modEntry i fun e => e.resolveMember r n x

/-- A member resolved by an acknowledgement whose result fills the data buffer of the block. -/
def State.resolveWith (s : State) (i : TTIdx) (r : Role) (n : NodeId) (x : Resolution) (d : BlockData) : State :=
  s.modEntry i fun e => (e.resolveMember r n x).setBuffer r (.full d .node)

/-- R111: a member with an absorbed return resolves as ABSENT. -/
def State.ackAbsorbed (s : State) (i : TTIdx) (r : Role) (n : NodeId) (b : Block) (a : AckResult) : State :=
  let t := s.resolveBy i r n .absent
  match a with
  | .data _ => t.ackMismatch i n b
  | _ => t

/-- R109: an AWAITING owner member. -/
def State.ackOwner (s : State) (i : TTIdx) (r : Role) (n : NodeId) (b : Block) (a : AckResult) : State :=
  match a with
  | .data d => s.resolveWith i r n .data d
  | .clean => s.resolveBy i r n .clean
  | .absent =>
    let t := s.resolveWith i r n .ownerLost .ownerLost
    t.offer { t.stamped .absentOwner with node := some n, block := some b, tt := some i }

/-- R110: an AWAITING sharer member. -/
def State.ackSharer (s : State) (i : TTIdx) (r : Role) (n : NodeId) (b : Block) (a : AckResult) : State :=
  match a with
  | .data _ => (s.resolveBy i r n .clean).ackMismatch i n b
  | .clean => s.resolveBy i r n .clean
  | .absent => s.resolveBy i r n .absent

/-- R52, R112: an AWAITING member of a repair. -/
def State.ackRepair (s : State) (i : TTIdx) (r : Role) (e : TTEntry) (n : NodeId) (b : Block) (a : AckResult) : State :=
  match a with
  | .data d =>
    if (e.bufferOf r).source.isNone then s.resolveWith i r n .data d
    else (s.resolveBy i r n .data).multipleData i n b
  | .clean => s.resolveBy i r n .clean
  | .absent => s.resolveBy i r n .absent

/-- R108: an acknowledgement is matched to the unresolved member whose RECALL has departed, or matches nothing. -/
def State.takeAck (s : State) (n : NodeId) (b : Block) (a : AckResult) : State :=
  let unexpected := s.offer { s.stamped .unexpectedAck with node := some n, block := some b }
  match s.memberOf n b with
  | none => unexpected
  | some (i, r, e, m) =>
    if m.sent ≠ .departed then unexpected
    else if m.status ≠ .awaiting then s.ackAbsorbed i r n b a
    else if e.repairs r then s.ackRepair i r e n b a
    else if e.ownerOf r = some n then s.ackOwner i r n b a
    else s.ackSharer i r n b a

/-! ### The take (R102) -/

/-- What becomes of a return that has been taken; `w` is the place of a WRITEBACK. -/
def State.returnAct (s : State) (n : NodeId) (m : InMsg) (w : Option WBIdx) : State :=
  match m.parse .ret with
  | .writeback b d =>
    match w with
    | some w => s.takeWriteback w n b d
    | none => s
  | .evictClean b => s.takeEvict n b
  | .recallAck b a => s.takeAck n b a
  | _ => s.offer { s.stamped .malformed with node := some n, block := m.block }

/-- R102: a head is taken when it is present and, for a WRITEBACK, when the Writeback Buffer has a free entry. -/
def State.takesReturn (s : State) (m : InMsg) : Bool :=
  match m.parse .ret with
  | .writeback _ _ => s.freeWB.isSome
  | _ => true

/-- R102: one take of a port's head. -/
def State.returnTake (s : State) (n : NodeId) : State :=
  match (s.port n).returns with
  | [] => s
  | m :: _ =>
    if s.takesReturn m then ((s.takeHead n .ret).returnAct n m s.freeWB).settle else s

/-- RETURN_TAKE (R102). -/
def execReturnTake (port : NodeId) : State → Host.Outcome State Fault Refusal := run fun s => s.returnTake port

end Sys2Proof.Machine
end

