-- ==== Sys2Proof/Machine/Dispatch.lean ====
section
/-! DEFINITION. The dispatch of commands to their meanings, one arm per constructor of Instr. -/

namespace Sys2Proof.Machine

/-- The effect of a command on everything but the queue. -/
def exec (i : Instr) (s : State) : Host.Outcome State Fault Refusal :=
  match i with
  | .messageArrival port cls words => Sys2Proof.Machine.execMessageArrival port cls words s
  | .linkUp port => Sys2Proof.Machine.execLinkUp port s
  | .linkDown port => Sys2Proof.Machine.execLinkDown port s
  | .departure port => Sys2Proof.Machine.execDeparture port s
  | .intakeTake => Sys2Proof.Machine.execIntakeTake s
  | .returnTake port => Sys2Proof.Machine.execReturnTake port s
  | .recallDeadlineExpiry tt node => Sys2Proof.Machine.execRecallDeadlineExpiry tt node s
  | .memoryIssue mp => Sys2Proof.Machine.execMemoryIssue mp s
  | .mbeat mp tag beat data mark => Sys2Proof.Machine.execMbeat mp tag beat data mark s
  | .mack mp tag => Sys2Proof.Machine.execMack mp tag s
  | .mfault mp tag => Sys2Proof.Machine.execMfault mp tag s
  | .mrefuse mp tag => Sys2Proof.Machine.execMrefuse mp tag s
  | .memoryDeadlineExpiry mp tag => Sys2Proof.Machine.execMemoryDeadlineExpiry mp tag s
  | .readNode => Sys2Proof.Machine.execReadNode s
  | .writeNode => Sys2Proof.Machine.execWriteNode s
  | .admitNode => Sys2Proof.Machine.execAdmitNode s
  | .quiesceNode => Sys2Proof.Machine.execQuiesceNode s
  | .fenceNode => Sys2Proof.Machine.execFenceNode s
  | .releaseNode => Sys2Proof.Machine.execReleaseNode s
  | .setNoticeNode => Sys2Proof.Machine.execSetNoticeNode s
  | .readRegion => Sys2Proof.Machine.execReadRegion s
  | .writeRegion => Sys2Proof.Machine.execWriteRegion s
  | .openRegion => Sys2Proof.Machine.execOpenRegion s
  | .closeRegion => Sys2Proof.Machine.execCloseRegion s
  | .probeBlock => Sys2Proof.Machine.execProbeBlock s
  | .reclaimBlock => Sys2Proof.Machine.execReclaimBlock s
  | .readCapture => Sys2Proof.Machine.execReadCapture s
  | .releaseCapture => Sys2Proof.Machine.execReleaseCapture s
  | .readStatusGeneral => Sys2Proof.Machine.execReadStatusGeneral s
  | .readStatusJobs => Sys2Proof.Machine.execReadStatusJobs s
  | .setMemoryTimeout => Sys2Proof.Machine.execSetMemoryTimeout s
  | .resetMemoryPort => Sys2Proof.Machine.execResetMemoryPort s
  | .restart => Sys2Proof.Machine.execRestart s
  | .badCommandCode => Sys2Proof.Machine.execBadCommandCode s
  | .coldReset cause => Sys2Proof.Machine.execColdReset cause s
  | .coldResetRelease cause => Sys2Proof.Machine.execColdResetRelease cause s
  | .timeBaseAdvance => Sys2Proof.Machine.execTimeBaseAdvance s

end Sys2Proof.Machine
end

