-- ==== Sys2Proof/Safety.lean ====
section
/-! DEFINITION. What holds in every state that the bridge reaches, and the words in which the statements about it speak. -/

namespace Sys2Proof

/-- R166: the only commands that may change a locked record. -/
def Instr.freesRecords : Instr → Bool
  | .releaseCapture | .coldReset _ => true
  | _ => false

/-- The management commands with their codes and their numbers of argument words (12 section 12.3). -/
def Instr.command : Instr → Option (BitVec 8 × Nat)
  | .readNode => some (0x01#8, 1)
  | .writeNode => some (0x02#8, 1)
  | .admitNode => some (0x03#8, 1)
  | .quiesceNode => some (0x04#8, 1)
  | .fenceNode => some (0x05#8, 1)
  | .releaseNode => some (0x06#8, 1)
  | .setNoticeNode => some (0x07#8, 1)
  | .readRegion => some (0x08#8, 1)
  | .writeRegion => some (0x09#8, 5)
  | .openRegion => some (0x0A#8, 1)
  | .closeRegion => some (0x0B#8, 1)
  | .probeBlock => some (0x0C#8, 2)
  | .reclaimBlock => some (0x0D#8, 2)
  | .readCapture => some (0x0E#8, 1)
  | .releaseCapture => some (0x0F#8, 1)
  | .readStatusGeneral => some (0x10#8, 1)
  | .readStatusJobs => some (0x10#8, 1)
  | .setMemoryTimeout => some (0x11#8, 1)
  | .resetMemoryPort => some (0x12#8, 1)
  | .restart => some (0x13#8, 0)
  | _ => none

end Sys2Proof

namespace Sys2Proof.Machine

/-! ### Invariants -/

/-- R6: for an ACTIVE or QUIESCING node the occupied inbox entries and the credits outstanding of a class make the
class capacity; for an OFFLINE or FENCED node both are zero. -/
def State.CreditsKept (s : State) : Prop :=
  ∀ n,
    ((s.node n).state.counted = true →
      (s.port n).requests.length + (s.port n).requestCredits = Config.requestCapacity ∧
        (s.port n).returns.length + (s.port n).returnCredits = Config.returnCapacity) ∧
    ((s.node n).state.counted = false →
      (s.port n).requests = [] ∧ (s.port n).requestCredits = 0 ∧ (s.port n).returns = [] ∧ (s.port n).returnCredits = 0)

/-- A memory address lies in the memory range of a region record (R33). -/
def Region.stores (x : Region) (a : Nat) : Prop := x.memBase.toNat ≤ a ∧ a < x.memBase.toNat + x.count

/-- R33: regions not in state CLOSED never overlap, in blocks or in the memory of one port. -/
def State.RegionsApart (s : State) : Prop :=
  ∀ r q, r ≠ q → (s.region r).state ≠ .closed → (s.region q).state ≠ .closed →
    (∀ b, ¬((s.region r).contains b = true ∧ (s.region q).contains b = true)) ∧
    ((s.region r).port = (s.region q).port → ∀ a, ¬((s.region r).stores a ∧ (s.region q).stores a))

/-- The Directory is held in its canonical form. MODEL's own: equal directories are equal data. -/
def State.DirectoryCanonical (s : State) : Prop := s.dir.wf = true

/-- R36 to R38, of one set: the recency order lists the HELD ways, each once; each HELD block belongs to the set and is
named by one HELD way; each entry has a holder. -/
structure DirSet.Sound (ds : DirSet) (k : SetIdx) : Prop where
  nodup : ds.recency.Nodup
  order : ∀ w, w ∈ ds.recency ↔ ∃ e, ds.way w = .held e
  own : ∀ w e, ds.way w = .held e → setOf e.block = k
  once : ∀ w v e f, ds.way w = .held e → ds.way v = .held f → e.block = f.block → w = v
  holder : ∀ w e, ds.way w = .held e → ∃ n, e.rights.holders.has n = true

/-- The Directory is in its canonical form, and R36 to R38 hold of each of its sets. -/
def Directory.Sound (d : Directory) : Prop := d.wf = true ∧ ∀ k, DirSet.Sound (d.get k) k

/-- R36, R37, R38: the Directory is sound. -/
def State.DirectorySound (s : State) : Prop := s.dir.Sound

/-- R139, R140, R142, R160: a node whose quiesce job has not reached DONE is QUIESCING. -/
def State.QuiescesTrue (s : State) : Prop :=
  ∀ j ∈ s.jobs, ∀ n, j.kind = .quiesceNode n → (∀ o x, j.phase ≠ .done o x) → (s.node n).state = .quiescing

/-- R72, R176: the Control Queue holds at most 4 requests and the Hold Queue at most 32. -/
def State.QueuesBounded (s : State) : Prop :=
  s.controlQ.length ≤ Config.controlCapacity ∧ s.hold.length ≤ Config.holdCapacity

/-! ### The agent's take, as the statements speak of it -/

/-- The bridge runs, the agent is READY, and the head of the Control Queue names the command, with its number of
argument words (R176, R177). -/
structure AgentTakes (s : State) (code : BitVec 8) (count : Nat) (c : ControlReq) (rest : List ControlReq) : Prop where
  running : s.running = true
  ready : s.agent = .ready
  queue : s.controlQ = c :: rest
  code : c.code = code
  count : c.args.length = count

/-- The state in which the agent performs a command: the step has begun and the request has left the Control Queue. -/
def State.taking (s : State) (rest : List ControlReq) : State := { s.beginStep with controlQ := rest }

/-- The reply to a request (R178), as every statement about a command gives it. -/
def State.replies (s : State) (c : ControlReq) (st : Status) (results : List Word) : State :=
  s.reply c.sender c.tag st results

/-! ### The intake's take, as the statements speak of it -/

/-- R13: the port is the first eligible one after the round-robin position, and the message is its head. -/
def State.FirstEligible (s : State) (n : NodeId) (m : InMsg) : Prop :=
  ∃ k : Nat, k < 8 ∧ n = Fin.ofNat 8 (s.intakePos.val + 1 + k) ∧ s.eligibleHead n = some m ∧
    ∀ j : Nat, j < k → s.eligibleHead (Fin.ofNat 8 (s.intakePos.val + 1 + j)) = none

/-! ### Captures, as the statements speak of them -/

/-- What an offer of a record leaves in the slot of its class (R166, R167): an EMPTY slot holds the record, and a
LOCKED slot keeps its own. -/
def State.HoldsRecord (s t : State) (r : CaptureRecord) : Prop :=
  match (s.slot r.reason.cls).record with
  | none => (t.slot r.reason.cls).record = some r
  | some x => (t.slot r.reason.cls).record = some x

/-- R170: the FAULT_NOTICE that a slot owes and may queue once the notice node is reachable, the lock notice before
the escalation notice. -/
def CaptureSlot.owed (t : CaptureSlot) (k : CaptureClass) : Option OutMsg :=
  match t.record with
  | none => none
  | some r =>
    if t.outstanding then none
    else if t.lockNotice = .pending then some ⟨.faultNotice r.reason r.reason.severity t.overflow, .capture k false⟩
    else if t.escalationNotice = .pending then
      some ⟨.faultNotice (t.escalationReason.getD r.reason) .dataLost t.overflow, .capture k true⟩
    else none

/-! ### Outbound Queues, as the statements speak of them -/

/-- A message joined the Outbound Queue of a node, behind what it held; what joined it later in the step stands behind. -/
def State.Queued (s t : State) (n : NodeId) (m : OutMsg) : Prop :=
  ∃ ms, (t.port n).outbound = (s.port n).outbound ++ m :: ms

/-! ### The words of messages -/

/-- R190 and 12 section 12.1: a bridge-to-node message as its words: a header with its fields and the high bits of a block,
the low bits of the block, and the words behind. -/
def Msg.LaidOut (m : Msg) (tag : ReqTag) (kind qualifier detail count : Nat) (b : Block) (rest : List Word) : Prop :=
  ∃ h : Word, m.words = h :: b.extractLsb' 0 32 :: rest ∧ h.extractLsb' 0 8 = tag ∧
    h.extractLsb' 8 5 = BitVec.ofNat 5 kind ∧ h.extractLsb' 13 3 = BitVec.ofNat 3 qualifier ∧
    h.extractLsb' 16 8 = BitVec.ofNat 8 detail ∧ h.extractLsb' 24 2 = b.extractLsb' 32 2 ∧ h.extractLsb' 26 2 = 0#2 ∧
    h.extractLsb' 28 4 = BitVec.ofNat 4 count

/-- 12 section 12.1: a mark word and sixteen data words carry four beats with their marks. -/
def CarriesData (ws : List Word) (d : BlockData) : Prop :=
  ∃ (mark : Word) (xs : List Word), ws = mark :: xs ∧ xs.length = 16 ∧ mark.extractLsb' 4 28 = 0#28 ∧
    ∀ b k : Fin 4, mark.getLsbD b.val = (d[b]).poison ∧
      xs[4 * b.val + k.val]? = some ((d[b]).data.extractLsb' (32 * k.val) 32)

/-! ### Fences, as the statements speak of them -/

/-- The members of a recall set with the unresolved ones for a node resolved; their deadlines are dropped. -/
def resolvedFor (n : NodeId) (x : Resolution) (ms : List Member) : List Member :=
  ms.map fun m => if m.node = n ∧ m.resolution = none then { m with resolution := some x, deadline := none } else m

/-- R67: what the fence of a node makes of the recall set and the data of an entry for the block of a role. Nothing
without an unresolved member for the node; the owner-lost block for the recorded owner that has written nothing back, in
a recall that is no repair's; and else ABSENT. -/
def TTEntry.FenceResolves (e f : TTEntry) (r : Role) (n : NodeId) : Prop :=
  (e.openMember r n = none → f.recallsOf r = e.recallsOf r ∧ f.bufferOf r = e.bufferOf r) ∧
  ∀ m, e.openMember r n = some m →
    (e.repairs r = false ∧ e.ownerOf r = some n ∧ m.status ≠ .absorbedWb →
      f.recallsOf r = resolvedFor n .ownerLost (e.recallsOf r) ∧
      f.bufferOf r = ⟨Vector.replicate 4 ⟨0#128, true⟩, 15#4, some .node⟩) ∧
    (¬(e.repairs r = false ∧ e.ownerOf r = some n ∧ m.status ≠ .absorbedWb) →
      f.recallsOf r = resolvedFor n .absent (e.recallsOf r) ∧ f.bufferOf r = e.bufferOf r)

/-- The producers of the messages in a node's Outbound Queue. -/
def State.producers (s : State) (n : NodeId) : List Producer := (s.port n).outbound.map (·.producer)

/-- R12, R171: a slot once a node's Outbound Queue has been withdrawn: its notices there are PENDING again. -/
def State.withdrawnSlot (s : State) (n : NodeId) (k : CaptureClass) : CaptureSlot :=
  { s.slot k with
    lockNotice := if .capture k false ∈ s.producers n ∧ (s.slot k).lockNotice = .queued then .pending
      else (s.slot k).lockNotice
    escalationNotice := if .capture k true ∈ s.producers n ∧ (s.slot k).escalationNotice = .queued then .pending
      else (s.slot k).escalationNotice
    outstanding := if .capture k false ∈ s.producers n ∨ .capture k true ∈ s.producers n then false
      else (s.slot k).outstanding }

/-- R170: a slot once the FAULT_NOTICE that it owes, if any, has been queued. -/
def CaptureSlot.told (t : CaptureSlot) (k : CaptureClass) : CaptureSlot :=
  match t.owed k with
  | none => t
  | some o => { t with
      outstanding := true
      lockNotice := if o.producer = .capture k false then .queued else t.lockNotice
      escalationNotice := if o.producer = .capture k true then .queued else t.escalationNotice }

/-- R12, R151, R160: the Sweep List once a node's Outbound Queue has been withdrawn, its quiesce job ABANDONED and its
fence job placed. -/
def State.fencedJobs (s : State) (n : NodeId) : List Job :=
  placeFenceJob n (s.jobs.map fun j => match j.phase with
    | .done o .queued => if .job j.kind ∈ s.producers n then { j with phase := .done o .pending } else j
    | .done _ _ => j
    | _ => if j.kind = .quiesceNode n then { j with phase := .done .abandoned .pending } else j)

/-- R67: the fence of a node finds it the owner, with nothing written back, of the block of a role of an entry, in a
recall that is no repair's. -/
def State.losesOwner (s : State) (n : NodeId) (i : TTIdx) (r : Role) : Bool :=
  match s.entry i with
  | none => false
  | some e => !e.repairs r && e.ownerOf r == some n &&
    match e.openMember r n with
    | some m => m.status != .absorbedWb
    | none => false

/-- R67, R165: how many OWNER_LOST records the fence of a node offers. -/
def State.losses (s : State) (n : NodeId) : Nat :=
  (allTT.countP fun i => s.losesOwner n i .primary) + allTT.countP fun i => s.losesOwner n i .victim

/-! ### The Directory and memory, as the statements speak of them -/

/-- R43: between two states the entry of a block has been removed whole, if there was one, and no other set changed. -/
def State.Removes (s t : State) (b : Block) : Prop :=
  (∀ k, k ≠ setOf b → t.dirSet k = s.dirSet k) ∧
  ((s.dirSet (setOf b)).findHeld b = none → t.dirSet (setOf b) = s.dirSet (setOf b)) ∧
  ∀ w e, (s.dirSet (setOf b)).findHeld b = some (w, e) →
    t.dirSet (setOf b) = ⟨(s.dirSet (setOf b)).ways.set w (s.vacated b), (s.dirSet (setOf b)).recency.erase w⟩

/-- R119, R128: between two states one WRITE has been placed, last in its port's Issue Queue and newest of its address;
the other port is as it was. -/
def State.PlacesWrite (s t : State) (o : OpOwner) (l : Loc) (d : BlockData) : Prop :=
  (t.mp l.port).issueQ = (s.mp l.port).issueQ ++ [⟨o, .write, l.addr, false⟩] ∧
  (t.mp l.port).newest l.addr = some ⟨o, l.addr, d, false, false⟩ ∧ (t.mp l.port).tags = (s.mp l.port).tags ∧
  ∀ q, q ≠ l.port → t.mp q = s.mp q

/-! ### The walk, as the statements speak of it -/

/-- R154: the walk of a job must act on a directory entry. -/
def State.WalkActs (s : State) (k : JobKind) (e : DirEntry) : Prop :=
  match k with
  | .closeRegion r _ => (s.region r).contains e.block = true
  | .quiesceNode n => e.failed = true ∨ e.rights.holders.has n = true
  | .fenceNode n => e.failed = true ∨ e.rights.holders.has n = true

/-- R155: a HELD way of the walk's set that must be acted on, needs a TT entry, and whose block no entry claims. -/
def State.WalkStarts (s : State) (k : JobKind) (pos : SetIdx) (v : WayIdx) (e : DirEntry) : Prop :=
  (s.dirSet pos).way v = .held e ∧ s.WalkActs k e ∧ (∀ n, k = .fenceNode n → e.rights = .owned n) ∧
    s.claimed e.block = false

/-- The set that the walk enters behind a position: the next that is not empty (log entry 15). -/
def State.NextSet (s : State) (pos k : SetIdx) : Prop :=
  pos < k ∧ s.dirSet k ≠ DirSet.empty ∧ ∀ j, pos < j → j < k → s.dirSet j = DirSet.empty

end Sys2Proof.Machine
end

