-- ==== Sys2Proof/Certificates/Slice0/Obligations.lean ====
section
/-! DEFINITION. The statements for the provers. A command's effect is said of the state in which its step has begun
(`State.beginStep`: the step's input taken, nothing driven yet); where a step goes on with the bridge's own work
(`State.settle`), the statement says what that work leaves standing. -/

section Obligations

open Sys2Proof Sys2Proof.Machine

/-! ## The step -/

/-- A step takes the command at the front of the queue and executes it on the state with the queue's rest; on an empty
queue the bridge idles (MODEL's choice, log entry 2). -/
def Obligations.StepRunsFrontCommand : Prop :=
  (∀ (c : Instr) (rest : List Instr) (s : State), s.pending = c :: rest → step s = exec c { s with pending := rest }) ∧
  (∀ s : State, s.pending = [] → step s = .next s)

/-- No command stops the bridge, none touches the queue, and each takes one step's input (MODEL's choice, log entry 5). -/
def Obligations.EveryCommandAnswersNext : Prop :=
  ∀ (c : Instr) (s : State), ∃ t, exec c s = .next t ∧ t.pending = s.pending ∧ t.inputs = s.inputs.tail

/-- R186: a cold reset sets every piece of state to its cold-reset value and holds the bridge; while it
holds, every other command leaves every state as it is. That the two causes are two flags, each released by its own release,
and that the bridge runs once both are, is the model's reading (log entry 24). -/
def Obligations.ColdResetHoldsAndReleases : Prop :=
  (∀ (cause : ResetCause) (s : State), exec (.coldReset cause) s = .next
    { State.reset with
      pending := s.pending
      inputs := s.inputs.tail
      now := s.inputs.headD StepInput.plain
      resetAsserted := s.resetAsserted || decide (cause = .resetInput)
      powerGood := s.powerGood && decide (cause = .resetInput) }) ∧
  (∀ (cause : ResetCause) (s : State), exec (.coldResetRelease cause) s = .next
    { s.beginStep with
      resetAsserted := s.resetAsserted && decide (cause = .powerUp)
      powerGood := s.powerGood || decide (cause = .powerUp) }) ∧
  (∀ (c : Instr) (s : State), s.running = false → (∀ x, c ≠ .coldReset x) → (∀ x, c ≠ .coldResetRelease x) →
    exec c s = .next { s with inputs := s.inputs.tail, now := s.inputs.headD StepInput.plain, out := [] })

/-- The cold-reset values of every piece of state (R20, R21, R35, R56, R77, R117, R136, R150, R163, R175, R188). That
the machine starts after the release of the reset is the model's choice (log entry 1). -/
def Obligations.ColdResetValues : Prop :=
  (∀ n, State.reset.port n = ⟨[], [], 0, 0, [], .down⟩) ∧
  (∀ n, State.reset.node n = ⟨.offline, n == 0, 500#12, none, false⟩) ∧
  (∀ r, State.reset.region r = ⟨.closed, 0#34, 0, .mp0, 0#34, 0#8, 0#8, .deliver⟩) ∧
  (∀ k w, (State.reset.dirSet k).way w = .empty) ∧ (∀ k, (State.reset.dirSet k).recency = []) ∧
  (∀ i, State.reset.ttSlot i = ⟨0#8, none⟩) ∧ State.reset.hold = [] ∧ (∀ w, State.reset.wbEntry w = none) ∧
  (∀ p, (State.reset.mp p).issueQ = [] ∧ (∀ t : MemTag, (State.reset.mp p).tags[t] = .free) ∧
    (State.reset.mp p).writes = [] ∧ (State.reset.mp p).timeout = 1000#12) ∧
  State.reset.jobs = [] ∧ (∀ c, State.reset.slot c = ⟨none, 0#4, false, none, .none, .none, false⟩) ∧
  State.reset.agent = .ready ∧ State.reset.controlQ = [] ∧ State.reset.intakePos = 7 ∧ State.reset.refusalMarks = 0#8 ∧
  State.reset.noticeNode = 0 ∧ State.reset.timeBase = 0#32 ∧ State.reset.pending = []

/-- R35: the reset values of the Region Map, cold and warm; after a cold reset every lookup finds no region and every
request is refused NO_REGION; after a warm reset the regions left COHERENT or UNTRACKED pass what they passed. -/
def Obligations.RegionMapResets : Prop :=
  (∀ r, State.reset.region r = ⟨.closed, 0#34, 0, .mp0, 0#34, 0#8, 0#8, .deliver⟩) ∧
  (∀ b, State.reset.mapLookup b = .noRegion) ∧
  (∀ (s : State) (r : RegionIdx), s.warmReset.region r =
    { s.region r with state := if (s.region r).state = .closing then .closed else (s.region r).state }) ∧
  (∀ s : State, s.warmReset.dir = [] ∧ s.warmReset.hold = [] ∧ ∀ i, s.warmReset.entry i = none) ∧
  (∀ n k b, State.reset.regionCheck n k b = .fail .noRegion) ∧
  (∀ (s : State) n k b l, s.regionCheck n k b = .pass l → s.warmReset.regionCheck n k b = .pass l)

/-- R148: the time base advances by one, modulo 2^32, and nothing else changes; every command but its advance and the
cold reset keeps it, a warm reset among them. -/
def Obligations.TimeBaseAdvances : Prop :=
  (∀ s : State, s.running = true →
    exec .timeBaseAdvance s = .next { s.beginStep with timeBase := s.timeBase + 1#32 }) ∧
  (∀ (c : Instr) (s t : State), exec c s = .next t → c ≠ .timeBaseAdvance → (∀ x, c ≠ .coldReset x) →
    t.timeBase = s.timeBase)

/-! ## Invariants of the whole machine -/

/-- R6: every step keeps the sum of inbox entries and credits. -/
def Obligations.CreditsAreKept : Prop :=
  ∀ s t : State, s.CreditsKept → step s = .next t → t.CreditsKept

/-- R33: every step keeps the regions apart that are not CLOSED. -/
def Obligations.RegionsStayApart : Prop :=
  ∀ s t : State, s.RegionsApart → step s = .next t → t.RegionsApart

/-- R140, R142, R160: in every step a node whose quiesce job has not ended stays QUIESCING. -/
def Obligations.QuiescesStayTrue : Prop :=
  ∀ s t : State, s.QuiescesTrue → step s = .next t → t.QuiescesTrue

/-- R72, R176: every step keeps the Control Queue and the Hold Queue within their capacities. -/
def Obligations.QueuesStayBounded : Prop :=
  ∀ s t : State, s.QueuesBounded → step s = .next t → t.QueuesBounded

/-- R36, R37, R38: every step keeps the Directory sound: in every set the recency order is exactly the HELD ways, each once,
each HELD block belongs to its set and is named by one HELD way, and each entry has a holder. It also keeps the Directory in
its canonical form (MODEL's form). -/
def Obligations.DirectoryStaysSound : Prop :=
  (∀ s t : State, s.DirectoryCanonical → step s = .next t → t.DirectoryCanonical) ∧
  (∀ s t : State, s.DirectorySound → step s = .next t → t.DirectorySound)

/-- R166: a locked record does not change until RELEASE_CAPTURE or a cold reset. -/
def Obligations.LockedRecordsStay : Prop :=
  ∀ (i : Instr) (s t : State) (c : CaptureClass) (r : CaptureRecord), i.freesRecords = false → exec i s = .next t →
    (s.slot c).record = some r → (t.slot c).record = some r

/-- Every invariant holds at reset. -/
def Obligations.InvariantsHoldAtReset : Prop :=
  State.reset.CreditsKept ∧ State.reset.RegionsApart ∧ State.reset.QuiescesTrue ∧ State.reset.QueuesBounded ∧
    State.reset.DirectoryCanonical ∧ State.reset.DirectorySound

/-! ## What goes on inside a step -/

/-- The bridge's own work inside a step (file 95) is made action by action until none can be made, or the bound is reached:
the Sweep Engine's, else a grant of the allocator, else that of the first Transaction Table entry that can act, the entries
in the order of the step's input and then in ascending order (MODEL's order and bound, log entries 5 and 6). It takes
nothing from the links, drives nothing on them, and only adds to the queues that it fills. -/
def Obligations.SettleActsAndLeaves : Prop :=
  (∀ s : State, s.settle = settleWith Config.settleFuel s ∧ (s.act = none → s.settle = s) ∧ settleWith 0 s = s ∧
    ∀ n : Nat, (s.act = none → settleWith (n + 1) s = s) ∧
      ∀ t, s.act = some t → settleWith (n + 1) s = settleWith n t) ∧
  (∀ s : State,
    (∀ t, s.sweepStep = some t → s.act = some t) ∧
    (∀ t, s.sweepStep = none → s.allocStep = some t → s.act = some t) ∧
    (∀ front i back t, s.sweepStep = none → s.allocStep = none → s.now.order ++ allTT = front ++ i :: back →
      (∀ j ∈ front, s.entryStep j = none) → s.entryStep i = some t → s.act = some t) ∧
    (s.sweepStep = none → s.allocStep = none → (∀ i, s.entryStep i = none) → s.act = none)) ∧
  ((∀ i : TTIdx, i ∈ allTT) ∧ allTT.Pairwise (· < ·)) ∧
  (∀ s : State,
      (s.settle.pending = s.pending ∧ s.settle.inputs = s.inputs ∧ s.settle.out = s.out) ∧
      (s.settle.timeBase = s.timeBase ∧ s.settle.noticeNode = s.noticeNode ∧ s.settle.intakePos = s.intakePos ∧
        s.settle.refusalMarks = s.refusalMarks ∧ s.settle.controlQ = s.controlQ ∧ s.settle.wb = s.wb) ∧
      (s.settle.resetAsserted = s.resetAsserted ∧ s.settle.powerGood = s.powerGood) ∧
      (∀ n, (s.settle.port n).link = (s.port n).link ∧ ∃ ms, (s.settle.port n).outbound = (s.port n).outbound ++ ms) ∧
      (∀ n, s.settle.node n = s.node n ∧ (s.settle.port n).requests = (s.port n).requests ∧
          (s.settle.port n).returns = (s.port n).returns ∧ (s.settle.port n).requestCredits = (s.port n).requestCredits ∧
          (s.settle.port n).returnCredits = (s.port n).returnCredits ∨
        s.settle.node n = { s.node n with state := .offline } ∧ (s.settle.port n).requests = [] ∧
          (s.settle.port n).returns = [] ∧ (s.settle.port n).requestCredits = 0 ∧ (s.settle.port n).returnCredits = 0) ∧
      (∀ r, s.settle.region r = s.region r ∨ s.settle.region r = { s.region r with state := .closed }) ∧
      (∀ k r, (s.slot k).record = some r → (s.settle.slot k).record = some r) ∧
      (∀ p, (s.settle.mp p).tags = (s.mp p).tags ∧ (s.settle.mp p).timeout = (s.mp p).timeout ∧
        ∃ ops, (s.settle.mp p).issueQ = (s.mp p).issueQ ++ ops) ∧
      s.settle.hold.length ≤ s.hold.length ∧ s.settle.jobs.map (·.kind) = s.jobs.map (·.kind) ∧
      (s.agent = .ready ∨ s.agent = .replyPending → s.settle.agent = s.agent))

/-- R147, R161, R170: when the notice node is reachable, every notice owed is queued to it, the FAULT_NOTICEs in slot
order and the JOB_NOTICEs behind them in list order; when it is not, nothing changes. -/
def Obligations.PendingNoticesAreQueued : Prop :=
  (∀ s : State, s.reachable = false → s.flushNotices = s) ∧
  (∀ s : State, s.reachable = true →
    (s.flushNotices.port s.noticeNode).outbound = (s.port s.noticeNode).outbound ++
      (allClasses.filterMap fun k => (s.slot k).owed k) ++ s.jobs.filterMap Job.owed ∧
    (∀ n, n ≠ s.noticeNode → s.flushNotices.port n = s.port n) ∧
    (∀ k o, (s.slot k).owed k = some o → s.flushNotices.slot k = { s.slot k with
      outstanding := true
      lockNotice := if o.producer = .capture k false then .queued else (s.slot k).lockNotice
      escalationNotice := if o.producer = .capture k true then .queued else (s.slot k).escalationNotice }) ∧
    (∀ k, (s.slot k).owed k = none → s.flushNotices.slot k = s.slot k) ∧
    s.flushNotices.jobs = s.jobs.map Job.noticeQueued) ∧
  (∀ (j : Job) (o : JobOutcome), j.phase = .done o .pending →
    j.owed = some ⟨.jobNotice j.kind o, .job j.kind⟩ ∧ j.noticeQueued = { j with phase := .done o .queued }) ∧
  (∀ j : Job, (∀ o, j.phase ≠ .done o .pending) → j.owed = none ∧ j.noticeQueued = j)

/-! ## Pool Link ports -/

/-- R3, R4: an arrival for an ACTIVE or QUIESCING node spends a credit and joins the tail of the inbox of its class; in a
class without a credit it is discarded and captured, and changes neither inbox, credits nor node. -/
def Obligations.ArrivalsForCountedNodes : Prop :=
  ∀ (s : State) (n : NodeId) (h : Word) (body : List Word), s.running = true → (s.port n).link = .up →
    (s.node n).state.counted = true →
    (1 ≤ (s.port n).requestCredits →
      exec (.messageArrival n .request (h :: body)) s = .next (s.beginStep.modPort n fun p =>
        { p with requests := p.requests ++ [⟨h, body⟩], requestCredits := p.requestCredits - 1 })) ∧
    (1 ≤ (s.port n).returnCredits →
      exec (.messageArrival n .ret (h :: body)) s = .next (s.beginStep.modPort n fun p =>
        { p with returns := p.returns ++ [⟨h, body⟩], returnCredits := p.returnCredits - 1 })) ∧
    (∀ cls, (s.port n).credits cls = 0 →
      ∃ t, exec (.messageArrival n cls (h :: body)) s = .next t ∧
        s.HoldsRecord t ⟨.creditOverrun, some n, InMsg.block ⟨h, body⟩, none, none, none, s.timeBase⟩ ∧
        (∀ k, t.node k = s.node k ∧ (t.port k).requests = (s.port k).requests ∧
          (t.port k).returns = (s.port k).returns ∧ (t.port k).requestCredits = (s.port k).requestCredits ∧
          (t.port k).returnCredits = (s.port k).returnCredits) ∧
        t.controlQ = s.controlQ ∧ t.refusalMarks = s.refusalMarks)

/-- R3, R7: nothing arrives while the link is DOWN, and what arrives for a FENCED or OFFLINE node is discarded without
answer or capture, except a CONTROL of the Request class from an OFFLINE manager: it goes to the Control Queue; to a
full queue it is answered BUSY, once until that refusal has gone, and then counts as an overrun; a malformed one is
captured. That nothing arrives while the link is DOWN is said of a command that cannot occur then (MODEL's choice, log
entry 2), and that a CONTROL in the Return class is discarded without a capture is the model's reading (log entry 21). -/
def Obligations.ArrivalsForUncountedNodes : Prop :=
  (∀ (s : State) (n : NodeId) (cls : MsgClass) (h : Word) (body : List Word), s.running = true →
    ((s.port n).link = .down ∨ (s.node n).state = .fenced ∨
      (s.node n).state = .offline ∧ ¬((s.node n).manager = true ∧ cls = .request ∧ InMsg.kind ⟨h, body⟩ = some .control)) →
    exec (.messageArrival n cls (h :: body)) s = .next s.beginStep) ∧
  (∀ (s : State) (n : NodeId) (h : Word) (body : List Word), s.running = true → (s.port n).link = .up →
    (s.node n).state = .offline → (s.node n).manager = true → InMsg.kind ⟨h, body⟩ = some .control →
    (InMsg.wellFormed ⟨h, body⟩ .request = true → s.controlQ.length < 4 →
      exec (.messageArrival n .request (h :: body)) s = .next { s.beginStep with
        controlQ := s.controlQ ++ [⟨n, InMsg.tag ⟨h, body⟩, InMsg.detail ⟨h, body⟩, body.drop 1⟩] }) ∧
    (InMsg.wellFormed ⟨h, body⟩ .request = true → 4 ≤ s.controlQ.length → s.refusalMarks.has n = false →
      exec (.messageArrival n .request (h :: body)) s = .next { s.beginStep.modPort n (fun p =>
        { p with outbound := p.outbound ++ [⟨.controlReply (InMsg.tag ⟨h, body⟩) .busy [], .intake⟩] }) with
        refusalMarks := s.refusalMarks.add n }) ∧
    (InMsg.wellFormed ⟨h, body⟩ .request = true → 4 ≤ s.controlQ.length → s.refusalMarks.has n = true →
      exec (.messageArrival n .request (h :: body)) s = .next
        (s.beginStep.offer ⟨.creditOverrun, some n, none, none, none, none, s.timeBase⟩)) ∧
    (InMsg.wellFormed ⟨h, body⟩ .request = false →
      exec (.messageArrival n .request (h :: body)) s = .next
        (s.beginStep.offer ⟨.malformed, some n, none, none, none, none, s.timeBase⟩)))

/-- R8, R9, R142: link up sets the link state and lets the pending notices be queued, and changes no node, credit or inbox;
link down sets the link state, and for an ACTIVE or QUIESCING node captures LINK_LOST and fences the node; for an OFFLINE
or FENCED node the link state alone changes. A link already UP stays UP, and one already DOWN stays DOWN (MODEL's choice,
log entry 2). -/
def Obligations.LinkUpAndDown : Prop :=
  (∀ (s : State) (n : NodeId), s.running = true →
    ((s.port n).link = .up → exec (.linkUp n) s = .next s.beginStep) ∧
    ((s.port n).link = .down →
      exec (.linkUp n) s = .next (s.beginStep.modPort n fun p => { p with link := .up }).flushNotices ∧
      ∀ t, exec (.linkUp n) s = .next t →
        (∀ k, t.node k = s.node k ∧ (t.port k).requests = (s.port k).requests ∧ (t.port k).returns = (s.port k).returns ∧
          (t.port k).requestCredits = (s.port k).requestCredits ∧
          (t.port k).returnCredits = (s.port k).returnCredits ∧
          (t.port k).link = if k = n then .up else (s.port k).link))) ∧
  (∀ (s : State) (n : NodeId), s.running = true →
    ((s.port n).link = .down → exec (.linkDown n) s = .next s.beginStep) ∧
    ((s.port n).link = .up → (s.node n).state.counted = false →
      exec (.linkDown n) s = .next (s.beginStep.modPort n fun p => { p with link := .down })) ∧
    ((s.port n).link = .up → (s.node n).state.counted = true →
      ∃ t, exec (.linkDown n) s = .next t ∧
        t = ((((s.beginStep.modPort n fun p => { p with link := .down }).offer
          ⟨.linkLost, some n, none, none, none, none, s.timeBase⟩).fence n .linkLost).settle) ∧
        t.node n = { s.node n with state := .fenced, fenceReason := some .linkLost, fenceJob := true } ∧
        (t.port n).link = .down ∧ (t.port n).requests = [] ∧ (t.port n).returns = [] ∧
        (t.port n).requestCredits = 0 ∧ (t.port n).returnCredits = 0 ∧
        s.HoldsRecord t ⟨.linkLost, some n, none, none, none, none, s.timeBase⟩))

/-- R6, R12, R64, R69, R115, R137, R142, R151, R160: what the fence of a node does at once to the node's record, its port,
its requests, its commands, its Writeback Buffer entries, the Sweep List and the entries that work for it or wait for it,
and that no other node is touched. In the Sweep List the withdrawn JOB_NOTICEs are PENDING again, the node's quiesce job
that is not DONE ends ABANDONED, and the fence job takes its place (R151, R160, R161). -/
def Obligations.FenceCutsTheNodeOff : Prop :=
  ∀ (s : State) (n : NodeId) (why : FenceReason),
    (s.fence n why).node n = { s.node n with state := .fenced, fenceReason := some why, fenceJob := true } ∧
    (s.fence n why).port n = ⟨[], [], 0, 0, [], (s.port n).link⟩ ∧
    (∀ m, m ≠ n → (s.fence n why).node m = s.node m) ∧
    (∀ m, m ≠ n → ((s.fence n why).port m).requests = (s.port m).requests ∧
      ((s.fence n why).port m).returns = (s.port m).returns ∧
      ((s.fence n why).port m).requestCredits = (s.port m).requestCredits ∧
      ((s.fence n why).port m).returnCredits = (s.port m).returnCredits ∧
      ((s.fence n why).port m).link = (s.port m).link ∧
      ∃ ms, ((s.fence n why).port m).outbound = (s.port m).outbound ++ ms) ∧
    (s.fence n why).hold = s.hold.filter (fun h => h.req.node != n) ∧
    (s.fence n why).controlQ = s.controlQ.filter (fun c => c.sender != n) ∧
    (∀ w e, (s.fence n why).wbEntry w = some e → e.writer = n → e.fenced = true) ∧
    (∀ j ∈ (s.fence n why).jobs, j.kind = .quiesceNode n → ∃ o x, j.phase = .done o x) ∧
    (∃ j ∈ (s.fence n why).jobs, j.kind = .fenceNode n) ∧
    (s.fence n why).jobs =
      (if s.reachable = true ∧ s.noticeNode ≠ n then (s.fencedJobs n).map Job.noticeQueued else s.fencedJobs n) ∧
    (∀ k r, (s.slot k).record = some r → ((s.fence n why).slot k).record = some r) ∧
    (∀ i e, (s.fence n why).entry i = some e →
      (e.requestedBy n = true → e.orphaned = true) ∧ (∀ p ∈ e.held, p.1 ≠ n) ∧ ∀ r, e.openMember r n = none) ∧
    ((s.fence n why).regions = s.regions ∧ (s.fence n why).dir = s.dir ∧ (s.fence n why).mp0 = s.mp0 ∧
      (s.fence n why).mp1 = s.mp1)

/-- R12, R51, R65, R67, R68, R143, R160, R161, R166, R167, R170, R171: what the fence of a node makes of the recall members
for it and of the producers of the messages that it withdraws. Every unresolved member for the node is resolved, in every
entry, and no other member; each owner lost is offered to the DATA_LOSS slot, which the first locks when it is EMPTY, the
others being counted; a repair notes the lowest-numbered node resolved so. The withdrawn messages release their producers.
The withdrawn notices, the lock notice of an OWNER_LOST record that the fence itself offers to an EMPTY slot, and the
JOB_NOTICE of the quiesce job that it ABANDONS are PENDING while the notice node is not reachable. While it is, the slots'
notices are queued to it in slot order and the job notices behind them; a withdrawn notice is formed at its withdrawal,
before the offers (MODEL's choice, log entry 23), and a lock notice at its offer, with count 0. An entry that forms a member
for a FENCED node resolves it at once in the same way and sends nothing. -/
def Obligations.FenceResolvesAndReleases : Prop :=
  (∀ (s : State) (n : NodeId) (why : FenceReason) (i : TTIdx),
    (s.entry i = none → (s.fence n why).entry i = none) ∧
    ∀ e, s.entry i = some e → ∃ f, (s.fence n why).entry i = some f ∧
      (∀ r, e.FenceResolves f r n) ∧
      (f.changed = true ↔ e.changed = true ∨ e.repairs .primary = false ∧ e.openMember .primary n ≠ none) ∧
      ((∀ r, e.repairs r = true → e.openMember r n = none) → f.repairNote = e.repairNote) ∧
      (∀ r, e.repairs r = true → e.openMember r n ≠ none →
        f.repairNote = some (match e.repairNote with | some m => min m n | none => n)) ∧
      (f.kind = e.kind ∧ f.requester = e.requester ∧ f.block = e.block ∧ f.loc = e.loc ∧ f.lookup = e.lookup ∧
        f.phase = e.phase ∧ f.memOp = e.memOp ∧ f.write = e.write ∧ f.verdict = e.verdict ∧ f.opened = e.opened)) ∧
  (∀ (s : State) (n : NodeId) (why : FenceReason) (w u : CaptureSlot),
    w = s.withdrawnSlot n .dataLoss → u = (s.fence n why).slot .dataLoss →
    ((∀ i r, s.losesOwner n i r = false) → u.record = w.record ∧ u.overflow = w.overflow) ∧
    (w.record = none → 1 ≤ s.losses n → u.overflow = BitVec.ofNat 4 (min 15 (s.losses n - 1)) ∧
      ∃ i e r, s.losesOwner n i r = true ∧ s.entry i = some e ∧
        u.record = some ⟨.ownerLost, some n, e.blockOf r, none, none, none, s.timeBase⟩) ∧
    (∀ x, w.record = some x →
      u.record = some x ∧ u.overflow = BitVec.ofNat 4 (min 15 (w.overflow.toNat + s.losses n)))) ∧
  (∀ (s : State) (n : NodeId) (why : FenceReason),
    (s.fence n why).refusalMarks = (if .intake ∈ s.producers n then s.refusalMarks.del n else s.refusalMarks) ∧
    (s.fence n why).agent = (if .agent ∈ s.producers n then .ready else s.agent) ∧
    (∀ i, ((s.fence n why).ttSlot i).pacing =
      if .tt i ∈ s.producers n then (s.ttSlot i).pacing.del n else (s.ttSlot i).pacing) ∧
    (∀ w, (s.fence n why).wbEntry w = if .wb w ∈ s.producers n then none else (s.wbEntry w).map fun x =>
      if x.writer = n then { x with fenced := true } else x) ∧
    (∀ m, m ≠ n → m ≠ s.noticeNode → (s.fence n why).port m = s.port m)) ∧
  (∀ (s : State) (n : NodeId) (why : FenceReason), s.reachable = false ∨ s.noticeNode = n →
    (∀ m, m ≠ n → (s.fence n why).port m = s.port m) ∧
    (∀ k, k ≠ .dataLoss ∨ s.losses n = 0 → (s.fence n why).slot k = s.withdrawnSlot n k) ∧
    (∀ w u, w = s.withdrawnSlot n .dataLoss → u = (s.fence n why).slot .dataLoss →
      u.outstanding = w.outstanding ∧
      (w.record = none → 1 ≤ s.losses n → u.lockNotice = .pending ∧ u.escalationNotice = .none) ∧
      (∀ x, w.record = some x → x.reason.severity = .dataLost →
        u.lockNotice = w.lockNotice ∧ u.escalationNotice = w.escalationNotice))) ∧
  (∀ (s : State) (n : NodeId) (why : FenceReason), s.reachable = true → s.noticeNode ≠ n →
    ∃ f : CaptureClass → Option OutMsg,
      ((s.fence n why).port s.noticeNode).outbound =
        (s.port s.noticeNode).outbound ++ allClasses.filterMap f ++ (s.fencedJobs n).filterMap Job.owed ∧
      (∀ k, k ≠ .dataLoss ∨ s.losses n = 0 →
        f k = (s.withdrawnSlot n k).owed k ∧ (s.fence n why).slot k = (s.withdrawnSlot n k).told k) ∧
      (∀ w u, w = s.withdrawnSlot n .dataLoss → u = (s.fence n why).slot .dataLoss →
        (w.record = none → w.outstanding = true → 1 ≤ s.losses n →
          f .dataLoss = none ∧ u.lockNotice = .pending ∧ u.escalationNotice = .none ∧ u.outstanding = true) ∧
        (w.record = none → w.outstanding = false → 1 ≤ s.losses n →
          f .dataLoss = some ⟨.faultNotice .ownerLost .dataLost 0#4, .capture .dataLoss false⟩ ∧
          u.lockNotice = .queued ∧ u.escalationNotice = .none ∧ u.outstanding = true) ∧
        (∀ x, w.record = some x → x.reason.severity = .dataLost →
          f .dataLoss = w.owed .dataLoss ∧ u.lockNotice = (w.told .dataLoss).lockNotice ∧
          u.escalationNotice = (w.told .dataLoss).escalationNotice ∧
          u.outstanding = (w.told .dataLoss).outstanding))) ∧
  (∀ (s : State) (i : TTIdx) (r : Role) (b : Block) (n : NodeId) (x : RecallKind) (e : TTEntry),
    (s.node n).state = .fenced → s.entry i = some e →
    ∃ f, (s.sendRecall i r b (n, x)).entry i = some f ∧ e.FenceResolves f r n ∧ f.held = e.held ∧
      ((s.sendRecall i r b (n, x)).ttSlot i).pacing = (s.ttSlot i).pacing ∧
      (∀ m, ∃ ms, ((s.sendRecall i r b (n, x)).port m).outbound = (s.port m).outbound ++ ms ∧
        ∀ o ∈ ms, ∃ y, o.producer = .capture .dataLoss y) ∧
      (∀ m, e.openMember r n = some m → e.repairs r = false → e.ownerOf r = some n → m.status ≠ .absorbedWb →
        s.HoldsRecord (s.sendRecall i r b (n, x))
          ⟨.ownerLost, some n, e.blockOf r, none, none, none, s.timeBase⟩))

/-- R10, R11, R64, R65, R171: the head of an Outbound Queue leaves it, delivered while the link is UP and lost while it is
DOWN, every queue keeps its order, and the departure releases the producer: a refusal's mark clears, a Writeback Buffer
entry leaves the buffer, the agent becomes READY, a job leaves the Sweep List and a fence job's flag clears, and a slot's
FAULT_NOTICE becomes DELIVERED, its outstanding mark clears and the slot's next PENDING notice is queued when the notice
node is reachable. The departure of a RECALL starts the deadline of its member with the node's recall timeout of that
moment, and the departure of any message of an entry clears its pacing mark, a message held for the node being queued in
its turn. From an empty queue nothing departs (MODEL's choice, log entry 2). -/
def Obligations.Departures : Prop :=
  (∀ (s : State) (n : NodeId), s.running = true → (s.port n).outbound = [] →
    exec (.departure n) s = .next s.beginStep) ∧
  (∀ (s : State) (n : NodeId) (m : OutMsg) (rest : List OutMsg), s.running = true → (s.port n).outbound = m :: rest →
    ∃ t, exec (.departure n) s = .next t ∧
      t.out = [if (s.port n).link = .up then .deliver n m.msg.words else .lost n] ∧
      (∃ ms, (t.port n).outbound = rest ++ ms) ∧
      (∀ k, k ≠ n → ∃ ms, (t.port k).outbound = (s.port k).outbound ++ ms) ∧
      (∀ k, (t.port k).link = (s.port k).link) ∧ t.controlQ = s.controlQ ∧ t.timeBase = s.timeBase ∧
      (∀ k r, (s.slot k).record = some r → (t.slot k).record = some r) ∧
      (m.producer = .intake → t.refusalMarks = s.refusalMarks.del n) ∧
      (m.producer ≠ .intake → t.refusalMarks = s.refusalMarks) ∧
      (∀ w, m.producer = .wb w → t.wbEntry w = none) ∧
      (∀ w, m.producer ≠ .wb w → t.wbEntry w = s.wbEntry w) ∧
      (m.producer = .agent → t.agent = .ready) ∧
      (∀ k, m.producer = .job k → t.jobs.map (·.kind) = (s.jobs.map (·.kind)).filter (· != k)) ∧
      (∀ k, m.producer = .job (.fenceNode k) → (t.node k).fenceJob = false) ∧
      t = ((s.beginStep.emit (if (s.port n).link = .up then .deliver n m.msg.words else .lost n)).modPort n (fun p =>
        { p with outbound := rest }) |>.departed n m).settle) ∧
  (∀ (s : State) (n : NodeId) (k : CaptureClass) (x : Bool) (m : Msg) (u : CaptureSlot),
    u = { s.slot k with
      outstanding := false
      lockNotice := if x = false ∧ (s.slot k).lockNotice = .queued then .delivered else (s.slot k).lockNotice
      escalationNotice :=
        if x = true ∧ (s.slot k).escalationNotice = .queued then .delivered else (s.slot k).escalationNotice } →
    (∀ j, j ≠ k → (s.departed n ⟨m, .capture k x⟩).slot j = s.slot j) ∧
    (s.reachable = false ∨ u.owed k = none →
      (s.departed n ⟨m, .capture k x⟩).slot k = u ∧ (s.departed n ⟨m, .capture k x⟩).ports = s.ports) ∧
    (∀ o, s.reachable = true → u.owed k = some o →
      (s.departed n ⟨m, .capture k x⟩).slot k = { u with
        outstanding := true
        lockNotice := if o.producer = .capture k false then .queued else u.lockNotice
        escalationNotice := if o.producer = .capture k true then .queued else u.escalationNotice } ∧
      ((s.departed n ⟨m, .capture k x⟩).port s.noticeNode).outbound = (s.port s.noticeNode).outbound ++ [o] ∧
      ∀ j, j ≠ s.noticeNode → (s.departed n ⟨m, .capture k x⟩).port j = s.port j)) ∧
  (∀ (s : State) (i : TTIdx) (n : NodeId) (b : Block) (k : RecallKind) (e : TTEntry) (r : Role),
    s.entry i = some e → e.claims b = some r → (∀ p ∈ e.held, p.1 ≠ n) →
    (s.departed n ⟨.recall b k, .tt i⟩).entry i = some (e.modMember r n fun m =>
      if m.resolved = true then m
      else { m with sent := .departed, deadline := some (s.timeBase + (s.node n).recallTimeout.zeroExtend 32) })) ∧
  (∀ (s : State) (i : TTIdx) (n : NodeId) (e : TTEntry) (m : Msg), s.entry i = some e → (∀ p ∈ e.held, p.1 ≠ n) →
    ((s.departed n ⟨m, .tt i⟩).ttSlot i).pacing = (s.ttSlot i).pacing.del n) ∧
  (∀ (s : State) (i : TTIdx) (n : NodeId) (m : Msg), s.entry i = none →
    (s.departed n ⟨m, .tt i⟩).ttSlot i = ⟨(s.ttSlot i).pacing.del n, none⟩ ∧
    (∀ j, j ≠ i → (s.departed n ⟨m, .tt i⟩).ttSlot j = s.ttSlot j) ∧ (s.departed n ⟨m, .tt i⟩).ports = s.ports) ∧
  (∀ (s : State) (i : TTIdx) (n : NodeId) (m : Msg) (e : TTEntry), s.entry i = some e → (∀ p ∈ e.held, p.1 ≠ n) →
    (s.departed n ⟨m, .tt i⟩).ports = s.ports ∧
    ((∀ b k r, m = .recall b k → e.claims b ≠ some r) → (s.departed n ⟨m, .tt i⟩).entry i = some e)) ∧
  (∀ (s : State) (i : TTIdx) (n : NodeId) (m w : Msg) (e f : TTEntry) (front back : List (NodeId × Msg)),
    s.entry i = some e → e.held = front ++ (n, w) :: back → (∀ p ∈ front, p.1 ≠ n) →
    ((∀ b k r, m = .recall b k → e.claims b ≠ some r) → f = { e with held := front ++ back }) →
    (∀ b k r, m = .recall b k → e.claims b = some r → f = ({ e with held := front ++ back } : TTEntry).modMember r n fun m =>
      if m.resolved = true then m
      else { m with sent := .departed, deadline := some (s.timeBase + (s.node n).recallTimeout.zeroExtend 32) }) →
    ((s.departed n ⟨m, .tt i⟩).port n).outbound = (s.port n).outbound ++ [⟨w, .tt i⟩] ∧
    (∀ j, j ≠ n → (s.departed n ⟨m, .tt i⟩).port j = s.port j) ∧
    ((s.departed n ⟨m, .tt i⟩).ttSlot i).pacing = ((s.ttSlot i).pacing.del n).add n ∧
    ((∀ b k r, w = .recall b k → e.claims b ≠ some r) → (s.departed n ⟨m, .tt i⟩).entry i = some f) ∧
    (∀ b k r, w = .recall b k → e.claims b = some r →
      (s.departed n ⟨m, .tt i⟩).entry i = some (f.modMember r n fun x => { x with sent := .queued })))

/-! ## The Request Intake -/

/-- R2, R189: a message is malformed exactly when one of the cases of the table holds; 09h to 0Bh are of the Return class,
and the other kinds of the Request class. -/
def Obligations.MalformedExactlyWhen : Prop :=
  (∀ k : InKind, k.cls = .ret ↔ k = .writeback ∨ k = .evictClean ∨ k = .recallAck) ∧
  ∀ (m : InMsg) (cls : MsgClass), m.wellFormed cls = false ↔
    m.kind = none ∨ (∃ k, m.kind = some k ∧ k.cls ≠ cls) ∨
    (∃ k, m.kind = some k ∧ k ≠ .control ∧ (m.header.getLsbD 26 = true ∨ m.header.getLsbD 27 = true)) ∨
    (m.kind = some (.req .writeThru) ∧ (m.length ≠ 21 ∨ m.word 2 = 0#32 ∧ m.word 3 = 0#32)) ∨
    (m.kind = some .control ∧ (6 < m.count ∨ m.length ≠ 2 + m.count)) ∨
    (m.kind = some .writeback ∧ m.length ≠ 19) ∨
    (m.kind = some .recallAck ∧
      (2 < m.qualifier ∨ m.qualifier = 0 ∧ m.length ≠ 19 ∨ m.qualifier ≠ 0 ∧ m.length ≠ 2)) ∨
    (∃ k, m.kind = some k ∧ m.length ≠ 2 ∧
      (k = .req .fetchS ∨ k = .req .fetchX ∨ k = .req .upgrade ∨ k = .req .readOnce ∨ k = .evictClean))

/-- R1, R189, R190 and the layouts of 12 sections 12.1 and 12.2: the words of every message that the bridge sends, and the
fields of a message that arrives. A malformed message whose kind code is none of the nine, and one without a word 1, have no
block field (MODEL's choice and reading, log entries 27 and 9). -/
def Obligations.MessageWords : Prop :=
  (∀ (tag : ReqTag) (b : Block) (d : BlockData),
    (∃ ws, CarriesData ws d ∧ (Msg.grantS tag b d).LaidOut tag 0x11 0 0 0 b ws ∧
      (Msg.grantX tag b d).LaidOut tag 0x12 0 0 0 b ws ∧ (Msg.data tag b d).LaidOut tag 0x14 0 0 0 b ws) ∧
    (Msg.grantUp tag b).LaidOut tag 0x13 0 0 0 b [] ∧ (Msg.done tag b).LaidOut tag 0x15 0 0 0 b [] ∧
    (∀ r x, (Msg.fault tag b r x).LaidOut tag 0x16 (if x = true then 1 else 0) r.code 0 b []) ∧
    (Msg.recall b .invalidate).LaidOut 0#8 0x18 0 0 0 b [] ∧ (Msg.recall b .downgrade).LaidOut 0#8 0x18 1 0 0 b []) ∧
  (∀ (tag : ReqTag) (st : Status) (rs : List Word), rs.length ≤ 8 →
    (Msg.controlReply tag st rs).LaidOut tag 0x19 0 st.code rs.length 0#34 rs) ∧
  (∀ (r : CaptureReason) (v : Severity) (c : BitVec 4), ∃ w : Word,
    (Msg.faultNotice r v c).LaidOut 0#8 0x1A 0 0 0 0#34 [w] ∧ w.extractLsb' 0 2 = BitVec.ofNat 2 r.cls.index.val ∧
    w.getLsbD 2 = (v == .dataLost) ∧ w.getLsbD 3 = false ∧ w.extractLsb' 4 4 = BitVec.ofNat 4 r.code ∧
    w.extractLsb' 8 4 = c ∧ w.extractLsb' 12 20 = 0#20) ∧
  (∀ (k : JobKind) (o : JobOutcome), ∃ w : Word,
    (Msg.jobNotice k o).LaidOut 0#8 0x1A 1 0 0 0#34 [w] ∧ w.extractLsb' 0 2 = BitVec.ofNat 2 k.code ∧
    w.extractLsb' 2 2 = 0#2 ∧ w.extractLsb' 4 4 = BitVec.ofNat 4 k.target ∧ w.getLsbD 8 = (o == .abandoned) ∧
    w.extractLsb' 9 23 = 0#23) ∧
  Msg.disconnect.LaidOut 0#8 0x1F 0 0 0 0#34 [] ∧
  ([FaultReason.nodeLeaving, .malformed, .noRegion, .regionClosed, .notTracked, .notPermitted, .notManager, .setBusy,
      .ownerConflict, .poisoned, .writeFailed].map FaultReason.code = [1, 2, 3, 4, 5, 6, 7, 8, 9, 10, 11] ∧
    [Status.ok, .accepted, .busy, .badArgument, .badState, .badCommand].map Status.code = [0, 1, 2, 3, 4, 5] ∧
    [CaptureReason.malformed, .creditOverrun, .notPermitted, .notManager, .unexpectedAck, .ackMismatch, .strayWriteback,
      .ownerConflict, .recallTimeout, .linkLost].map (fun r => (r.cls, r.code, r.severity)) =
        [1, 2, 3, 4, 5, 6, 7, 8, 9, 10].map (fun k => (.node, k, .recovered)) ∧
    [CaptureReason.readFault, .readTimeout, .writeFault, .writeTimeout, .portRefused, .unexpectedResponse,
      .duplicateBeat].map (fun r => (r.cls, r.code, r.severity)) =
        [1, 2, 3, 4, 5, 6, 7].map (fun k => (.memory, k, .recovered)) ∧
    [CaptureReason.ownerLost, .absentOwner, .writeFailed].map (fun r => (r.cls, r.code, r.severity)) =
      [1, 2, 3].map (fun k => (.dataLoss, k, .dataLost)) ∧
    [CaptureReason.holderCheck, .multipleData].map (fun r => (r.cls, r.code, r.severity)) =
      [(.directory, 1, .recovered), (.directory, 2, .dataLost)]) ∧
  (∀ (h : Word) (body : List Word) (m : InMsg), m = ⟨h, body⟩ →
    m.tag = h.extractLsb' 0 8 ∧ m.qualifier = (h.extractLsb' 13 3).toNat ∧ m.detail = h.extractLsb' 16 8 ∧
    m.count = (h.extractLsb' 28 4).toNat ∧ m.length = body.length + 1 ∧ m.word 0 = h ∧
    (∀ n, m.word (n + 1) = body.getD n 0#32) ∧
    (∀ k, m.kind = some k ↔ (h.extractLsb' 8 5, k) ∈ [(0x01#5, InKind.req .fetchS), (0x02#5, .req .fetchX),
      (0x03#5, .req .upgrade), (0x04#5, .req .readOnce), (0x05#5, .req .writeThru), (0x06#5, .control),
      (0x09#5, .writeback), (0x0A#5, .evictClean), (0x0B#5, .recallAck)]) ∧
    (∀ k, m.kind = some k → k ≠ .control → body ≠ [] → h.extractLsb' 26 2 = 0#2 →
      m.block = some (h.extractLsb' 24 2 ++ body.getD 0 0#32)) ∧
    (m.kind = none ∨ m.kind = some .control ∨ body = [] ∨ h.extractLsb' 26 2 ≠ 0#2 → m.block = none) ∧
    (∀ n : Fin 32, m.mask.getLsbD n.val = (m.word 2).getLsbD n.val ∧
      m.mask.getLsbD (n.val + 32) = (m.word 3).getLsbD n.val) ∧
    (∀ (w : Nat) (b k : Fin 4), ((m.beatsAt w)[b]).poison = (m.word w).getLsbD b.val ∧
      ((m.beatsAt w)[b]).data.extractLsb' (32 * k.val) 32 = m.word (w + 1 + 4 * b.val + k.val))) ∧
  (∀ (m : InMsg) (cls : MsgClass) (b : Block),
    (m.wellFormed cls = false → m.parse cls = .malformed) ∧
    (m.wellFormed cls = true → m.kind = some .control → m.parse cls = .control m.detail (m.body.drop 1)) ∧
    (m.wellFormed cls = true → m.block = some b →
      (∀ k, m.kind = some (.req k) → m.parse cls =
        .req k b (if k = .writeThru then some ⟨m.mask, m.beatsAt 4⟩ else none)) ∧
      (m.kind = some .writeback → m.parse cls = .writeback b (m.beatsAt 2)) ∧
      (m.kind = some .evictClean → m.parse cls = .evictClean b) ∧
      (m.kind = some .recallAck → m.parse cls = .recallAck b
        (if m.qualifier = 0 then .data (m.beatsAt 2) else if m.qualifier = 1 then .clean else .absent))))

/-- R13, R60: a port's head is eligible exactly when the port's refusal mark is clear and its outcome has somewhere to
go: a refusal always, a CONTROL with a free Control Queue entry, a held request with a free Hold Queue entry, and any
other request with a free TT entry for which no READY held request, no walk and no RECLAIM_BLOCK waits. -/
def Obligations.EligibleHeads : Prop :=
  ∀ (s : State) (n : NodeId) (m : InMsg), s.eligibleHead n = some m ↔
    ∃ rest, (s.port n).requests = m :: rest ∧ s.refusalMarks.has n = false ∧
      ((∃ b r, s.intakeOutcome n m = .refuse b r) ∨
        (∃ c, s.intakeOutcome n m = .control c ∧ s.controlQ.length < 4) ∨
        (∃ q x, s.intakeOutcome n m = .hold q x ∧ s.hold.length < 32) ∨
        (∃ q l, s.intakeOutcome n m = .dispatch q l ∧ (∃ i, s.entry i = none) ∧ (∀ h ∈ s.hold, h.ready = false) ∧
          s.sweepClaim = none ∧ s.agentClaim = none))

/-- R14 to R18: the outcome of a take, check by check. That a malformed CONTROL of a QUIESCING node is refused NODE_LEAVING
is the model's reading (log entry 12). -/
def Obligations.IntakeChecks : Prop :=
  ∀ (s : State) (n : NodeId) (m : InMsg),
    ((s.node n).state = .quiescing → ¬(m.wellFormed .request = true ∧ m.kind = some .control) →
      s.intakeOutcome n m = .refuse (m.block.getD 0#34) .nodeLeaving) ∧
    ((s.node n).state ≠ .quiescing → m.wellFormed .request = false →
      s.intakeOutcome n m = .refuse (m.block.getD 0#34) .malformed) ∧
    (m.wellFormed .request = true → m.kind = some .control → (s.node n).manager = true →
      s.intakeOutcome n m = .control ⟨n, m.tag, m.detail, m.body.drop 1⟩) ∧
    (m.wellFormed .request = true → m.kind = some .control → (s.node n).manager = false →
      s.intakeOutcome n m = .refuse 0#34 .notManager) ∧
    (∀ k b, (s.node n).state ≠ .quiescing → m.wellFormed .request = true → m.kind = some (.req k) → m.block = some b →
      (s.mapLookup b = .noRegion → s.intakeOutcome n m = .refuse b .noRegion) ∧
      (∀ r, s.mapLookup b = .closedRegion r → s.intakeOutcome n m = .refuse b .regionClosed) ∧
      (∀ l, s.mapLookup b = .region l .closing → s.intakeOutcome n m = .refuse b .regionClosed) ∧
      (∀ l, s.mapLookup b = .region l .untracked → (k = .fetchS ∨ k = .fetchX ∨ k = .upgrade) →
        s.intakeOutcome n m = .refuse b .notTracked) ∧
      (∀ l st, s.mapLookup b = .region l st →
        (st = .coherent ∨ st = .untracked ∧ (k = .readOnce ∨ k = .writeThru)) →
        ((k = .fetchS ∨ k = .readOnce) ∧ (s.region l.region).readSet.has n = false ∨
          (k = .fetchX ∨ k = .upgrade ∨ k = .writeThru) ∧ (s.region l.region).writeSet.has n = false →
          s.intakeOutcome n m = .refuse b .notPermitted) ∧
        ((k = .fetchS ∨ k = .readOnce) ∧ (s.region l.region).readSet.has n = true ∨
          (k = .fetchX ∨ k = .upgrade ∨ k = .writeThru) ∧ (s.region l.region).writeSet.has n = true →
          ∀ q, q = Request.mk n m.tag k b (if k = .writeThru then some ⟨m.mask, m.beatsAt 4⟩ else none) →
            (s.claimed b = true → s.intakeOutcome n m = .hold q false) ∧
            (s.claimed b = false → (∃ h ∈ s.hold, h.req.block = b) → s.intakeOutcome n m = .hold q true) ∧
            (s.claimed b = false → (∀ h ∈ s.hold, h.req.block ≠ b) → s.intakeOutcome n m = .dispatch q l))))

/-- R5, R13, R16, R18, R19: the intake takes the first eligible head after its position, moves its position there and
returns one credit, and the outcome reaches its destination; while no head is eligible it takes nothing, the command
changing nothing (MODEL's choice, log entry 2). -/
def Obligations.IntakeTakesTheFirstEligibleHead : Prop :=
  (∀ s : State, s.running = true → (∀ n, s.eligibleHead n = none) → exec .intakeTake s = .next s.beginStep) ∧
  (∀ (s : State) (n : NodeId) (m : InMsg), s.running = true → s.FirstEligible n m →
    ∃ t, exec .intakeTake s = .next t ∧ t.intakePos = n ∧ t.out = [.credits n .request 1] ∧
      (∀ k, t.node k = s.node k → (s.node k).state.counted = true →
        (t.port k).requests = (if k = n then (s.port k).requests.tail else (s.port k).requests) ∧
        (t.port k).requestCredits = (if k = n then (s.port k).requestCredits + 1 else (s.port k).requestCredits) ∧
        (t.port k).returns = (s.port k).returns ∧ (t.port k).returnCredits = (s.port k).returnCredits) ∧
      (∀ b r, s.intakeOutcome n m = .refuse b r →
        t.refusalMarks = s.refusalMarks.add n ∧ t.controlQ = s.controlQ ∧
        s.Queued t n ⟨.fault m.tag b r true, .intake⟩ ∧
        (r = .malformed → s.HoldsRecord t ⟨.malformed, some n, m.block, none, none, none, s.timeBase⟩) ∧
        (r = .notManager → s.HoldsRecord t ⟨.notManager, some n, none, none, none, none, s.timeBase⟩) ∧
        (r = .notPermitted → s.HoldsRecord t ⟨.notPermitted, some n, some b, none, none, none, s.timeBase⟩)) ∧
      (∀ c, s.intakeOutcome n m = .control c → t.controlQ = s.controlQ ++ [c] ∧ t.refusalMarks = s.refusalMarks) ∧
      (∀ q x, s.intakeOutcome n m = .hold q x →
        t = State.settle { s.beginStep.takeHead n .request with intakePos := n, hold := s.hold ++ [⟨q, x⟩] }) ∧
      (∀ q l, s.intakeOutcome n m = .dispatch q l → ∃ i, s.freeTT = some i ∧
        t = State.settle (({ s.beginStep.takeHead n .request with intakePos := n }).startEntry i
          (.ofRequest q .intake (some l)))))

/-! ## Returns -/

/-- R5, R102: the head of a Return Inbox is taken, and its credit returned, except a WRITEBACK while the Writeback Buffer
has no free entry; what becomes of it is said by its kind; a malformed one is discarded and captured (R2), and takes no
place there (MODEL's reading, log entry 19). From an empty inbox nothing is taken (MODEL's choice, log entry 2). -/
def Obligations.ReturnTakesTheHead : Prop :=
  (∀ (s : State) (n : NodeId), s.running = true → (s.port n).returns = [] →
    exec (.returnTake n) s = .next s.beginStep) ∧
  (∀ (s : State) (n : NodeId) (m : InMsg) (rest : List InMsg) b d, s.running = true →
    (s.port n).returns = m :: rest → m.parse .ret = .writeback b d → (∀ w, s.wbEntry w ≠ none) →
    exec (.returnTake n) s = .next s.beginStep) ∧
  (∀ (s : State) (n : NodeId) (m : InMsg) (rest : List InMsg), s.running = true → (s.port n).returns = m :: rest →
    ((∀ b d, m.parse .ret ≠ .writeback b d) ∨ ∃ w, s.wbEntry w = none) →
    ∃ t, exec (.returnTake n) s = .next t ∧ t.out = [.credits n .ret 1] ∧
      t = ((s.beginStep.takeHead n .ret).returnAct n m s.freeWB).settle ∧
      (t.node n = s.node n → (s.node n).state.counted = true →
        (t.port n).returns = rest ∧ (t.port n).returnCredits = (s.port n).returnCredits + 1 ∧
        (t.port n).requests = (s.port n).requests ∧ (t.port n).requestCredits = (s.port n).requestCredits) ∧
      (m.wellFormed .ret = false → s.HoldsRecord t ⟨.malformed, some n, m.block, none, none, none, s.timeBase⟩)) ∧
  (∀ (s : State) (n : NodeId) (m : InMsg) (w : Option WBIdx),
    (∀ b d g, m.parse .ret = .writeback b d → w = some g → s.returnAct n m w = s.takeWriteback g n b d) ∧
    (∀ b, m.parse .ret = .evictClean b → s.returnAct n m w = s.takeEvict n b) ∧
    (∀ b a, m.parse .ret = .recallAck b a → s.returnAct n m w = s.takeAck n b a)) ∧
  (∀ (s : State) (n : NodeId),
    s.takeHead n .request = { s.modPort n (fun p =>
      { p with requests := p.requests.tail, requestCredits := p.requestCredits + 1 }) with
      out := s.out ++ [.credits n .request 1] } ∧
    s.takeHead n .ret = { s.modPort n (fun p =>
      { p with returns := p.returns.tail, returnCredits := p.returnCredits + 1 }) with
      out := s.out ++ [.credits n .ret 1] })

/-- R43, R104 to R106, R114: a WRITEBACK from the recorded owner removes the directory entry, marks and feeds a member
that waits for it, and makes a Writeback Buffer entry with its write; one from a node that does not own the block is
discarded, answered DONE and captured. On a block under repair one from an unresolved member is absorbed and written while
the repair has no data; any other is stray, and once the repair has data it marks the member that waits (R52) and is captured
MULTIPLE_DATA when its node is a member, resolved or not (MODEL's reading of R52 and R106, log entry 25). -/
def Obligations.Writebacks : Prop :=
  (∀ (s : State) (w : WBIdx) (n : NodeId) (b : Block) (d : BlockData) (l : Loc) (v : WayIdx) (x : DirEntry),
    s.DirectoryCanonical → s.standing n b = .owner → s.locate b = some l →
    (s.dirSet (setOf b)).findHeld b = some (v, x) →
    ((s.takeWriteback w n b d).dirSet (setOf b)).way v = s.vacated b ∧
    (∀ k, k ≠ setOf b → (s.takeWriteback w n b d).dirSet k = s.dirSet k) ∧
    (s.takeWriteback w n b d).dir = (s.removeHolder n b).dir ∧ s.Removes (s.takeWriteback w n b d) b ∧
    (s.takeWriteback w n b d).wbEntry w = some ⟨n, b, some ⟨l.port, l.addr, d, false⟩, false, .queued⟩ ∧
    ((s.takeWriteback w n b d).mp l.port).issueQ = (s.mp l.port).issueQ ++ [⟨.wb w, .write, l.addr, false⟩] ∧
    ((s.takeWriteback w n b d).mp l.port).newest l.addr = some ⟨.wb w, l.addr, d, false, false⟩ ∧
    (s.memberOf n b = none → ∀ i, (s.takeWriteback w n b d).entry i = s.entry i) ∧
    (∀ i r e m, s.memberOf n b = some (i, r, e, m) →
      (∀ j, j ≠ i → (s.takeWriteback w n b d).entry j = s.entry j) ∧ (s.takeWriteback w n b d).entry i = some ((e.setBuffer r (.full d .absorbed)).modMember r n fun m =>
        if m.resolved = true then m else { m with status := .absorbedWb }))) ∧
  (∀ (s : State) (w : WBIdx) (n : NodeId) (b : Block) (d : BlockData),
    s.standing n b = .sharer ∨ s.standing n b = .notHolder →
    (s.takeWriteback w n b d).wbEntry w = some ⟨n, b, none, false, .donePending⟩ ∧
    s.Queued (s.takeWriteback w n b d) n ⟨.done 0#8 b, .wb w⟩ ∧
    s.HoldsRecord (s.takeWriteback w n b d) ⟨.strayWriteback, some n, some b, none, none, none, s.timeBase⟩ ∧
    (s.takeWriteback w n b d).dir = s.dir ∧ (s.takeWriteback w n b d).tt = s.tt ∧
    (s.takeWriteback w n b d).mp0 = s.mp0 ∧ (s.takeWriteback w n b d).mp1 = s.mp1) ∧
  (∀ (s t : State) (w : WBIdx) (n : NodeId) (b : Block) (d : BlockData) (i : TTIdx) (r : Role) (e : TTEntry),
    s.standing n b = .underRepair → s.claimant b = some (i, r) → s.entry i = some e → t = s.takeWriteback w n b d →
    t.dir = s.dir ∧
    (∀ m l, (e.bufferOf r).source = none → e.openMember r n = some m → s.locate b = some l →
      t.entry i = some ((e.setBuffer r (.full d .absorbed)).modMember r n fun m =>
        if m.resolved = true then m else { m with status := .absorbedWb }) ∧
      t.wbEntry w = some ⟨n, b, some ⟨l.port, l.addr, d, false⟩, false, .queued⟩ ∧ s.PlacesWrite t (.wb w) l d ∧
      t.slots = s.slots ∧ t.ports = s.ports) ∧
    ((e.bufferOf r).source ≠ none ∨ e.openMember r n = none →
      t.wbEntry w = some ⟨n, b, none, false, .donePending⟩ ∧ s.Queued t n ⟨.done 0#8 b, .wb w⟩ ∧
      s.HoldsRecord t ⟨.strayWriteback, some n, some b, none, none, none, s.timeBase⟩ ∧
      t.mp0 = s.mp0 ∧ t.mp1 = s.mp1 ∧ t.entry i = some (e.modMember r n fun m =>
        if m.resolved = true then m else { m with status := .absorbedWb })) ∧
    ((e.bufferOf r).source ≠ none → (∃ m ∈ e.recallsOf r, m.node = n) →
      s.HoldsRecord t ⟨.multipleData, some n, some b, none, some i, none, s.timeBase⟩) ∧
    ((e.bufferOf r).source = none ∨ (∀ m ∈ e.recallsOf r, m.node ≠ n) → t.slot .directory = s.slot .directory))

/-- R107: an EVICT_CLEAN from a holder removes it and marks the member that waits for the node; from a node that holds
nothing it is ignored; for a block under repair it marks the repair's member and leaves the Directory. R52, R108 to R113: an
acknowledgement resolves the unresolved member whose RECALL has departed, as the member's status, its recall set and the
recorded owner say, and sets the changed-state mark in a primary recall set that is no repair's; one that matches no such
member is captured and changes nothing else. -/
def Obligations.EvictCleansAndAcknowledgements : Prop :=
  (∀ (s : State) (n : NodeId) (b : Block),
      (s.standing n b = .notHolder → s.takeEvict n b = s) ∧
      (s.standing n b = .owner ∨ s.standing n b = .sharer → (s.takeEvict n b).dir = (s.removeHolder n b).dir) ∧
      (s.standing n b = .underRepair → (s.takeEvict n b).dir = s.dir) ∧
      (s.standing n b ≠ .notHolder → s.memberOf n b = none → ∀ i, (s.takeEvict n b).entry i = s.entry i) ∧
      (s.standing n b ≠ .notHolder → ∀ i r e m, s.memberOf n b = some (i, r, e, m) →
        (s.takeEvict n b).entry i = some (e.modMember r n fun m =>
          if m.resolved = true then m else { m with status := .absorbedEvict })) ∧
      ((s.takeEvict n b).ports = s.ports ∧ (s.takeEvict n b).nodes = s.nodes ∧ (s.takeEvict n b).slots = s.slots ∧
        (s.takeEvict n b).wb = s.wb ∧ (s.takeEvict n b).mp0 = s.mp0 ∧ (s.takeEvict n b).mp1 = s.mp1)) ∧
  (∀ (s : State) (n : NodeId) (b : Block) (a : AckResult),
    (s.memberOf n b = none ∨ ∃ i r e m, s.memberOf n b = some (i, r, e, m) ∧ m.sent ≠ .departed) →
    s.takeAck n b a = s.offer ⟨.unexpectedAck, some n, some b, none, none, none, s.timeBase⟩) ∧
  (∀ (s : State) (n : NodeId) (b : Block) (i : TTIdx) (r : Role) (e : TTEntry) (m : Member) (d : BlockData),
    s.memberOf n b = some (i, r, e, m) → m.sent = .departed →
    (m.status ≠ .awaiting →
      (∀ a, (s.takeAck n b a).entry i = some (e.resolveMember r n .absent)) ∧
      s.HoldsRecord (s.takeAck n b (.data d)) ⟨.ackMismatch, some n, some b, none, some i, none, s.timeBase⟩ ∧
      (s.takeAck n b .clean).slots = s.slots ∧ (s.takeAck n b .absent).slots = s.slots) ∧
    (m.status = .awaiting → e.repairs r = false → e.ownerOf r = some n →
      (s.takeAck n b (.data d)).entry i = some ((e.resolveMember r n .data).setBuffer r (.full d .node)) ∧
      (s.takeAck n b .clean).entry i = some (e.resolveMember r n .clean) ∧
      (s.takeAck n b .absent).entry i =
        some ((e.resolveMember r n .ownerLost).setBuffer r (.full .ownerLost .node)) ∧
      s.HoldsRecord (s.takeAck n b .absent) ⟨.absentOwner, some n, some b, none, some i, none, s.timeBase⟩) ∧
    (m.status = .awaiting → e.repairs r = false → e.ownerOf r ≠ some n →
      (s.takeAck n b (.data d)).entry i = some (e.resolveMember r n .clean) ∧
      s.HoldsRecord (s.takeAck n b (.data d)) ⟨.ackMismatch, some n, some b, none, some i, none, s.timeBase⟩ ∧
      (s.takeAck n b .clean).entry i = some (e.resolveMember r n .clean) ∧
      (s.takeAck n b .absent).entry i = some (e.resolveMember r n .absent)) ∧
    (m.status = .awaiting → e.repairs r = true →
      ((e.bufferOf r).source = none →
        (s.takeAck n b (.data d)).entry i = some ((e.resolveMember r n .data).setBuffer r (.full d .node))) ∧
      ((e.bufferOf r).source ≠ none →
        (s.takeAck n b (.data d)).entry i = some (e.resolveMember r n .data) ∧
        s.HoldsRecord (s.takeAck n b (.data d)) ⟨.multipleData, some n, some b, none, some i, none, s.timeBase⟩) ∧
      (s.takeAck n b .clean).entry i = some (e.resolveMember r n .clean) ∧
      (s.takeAck n b .absent).entry i = some (e.resolveMember r n .absent))) ∧
  (∀ (e : TTEntry) (r : Role) (n : NodeId) (x : Resolution),
    (e.resolveMember r n x).recallsOf r = resolvedFor n x (e.recallsOf r) ∧
    (e.resolveMember r n x).bufferOf r = e.bufferOf r ∧ (e.resolveMember r n x).repairNote = e.repairNote ∧
    (e.resolveMember r n x).changed = (e.changed || decide (r = .primary ∧ e.repairs r = false))) ∧
  (∀ (e : TTEntry) (r : Role) (n : NodeId) (f : Member → Member) (b : DataBuffer),
    (e.modMember r n f).recallsOf r = (e.recallsOf r).map (fun m => if m.node = n then f m else m) ∧
    (e.modMember r n f).bufferOf r = e.bufferOf r ∧ (e.setBuffer r b).recallsOf r = e.recallsOf r ∧
    (r = .primary ∨ e.victim ≠ none → (e.setBuffer r b).bufferOf r = b))

/-- R66: the expiry of an unresolved member's deadline is captured and fences the node RECALL_TIMEOUT; with no such
member nothing happens (MODEL's choice, log entry 2). A deadline has expired once it is reached or passed (MODEL's reading,
log entry 7). -/
def Obligations.RecallExpiryFences : Prop :=
  (∀ (s : State) (i : TTIdx) (n : NodeId), s.running = true →
    (∀ e r m d, s.entry i = some e → e.openMember r n = some m → m.deadline = some d → s.reached d = false) →
    exec (.recallDeadlineExpiry i n) s = .next s.beginStep) ∧
  (∀ (s : State) (i : TTIdx) (n : NodeId) (e : TTEntry) (r : Role) (m : Member) (d : Time), s.running = true →
    s.entry i = some e → e.openMember r n = some m → m.deadline = some d → s.reached d = true →
    (r = .victim → ∀ x c, e.openMember .primary n = some x → x.deadline = some c → s.reached c = false) →
    (s.node n).state.counted = true →
    ∃ t, exec (.recallDeadlineExpiry i n) s = .next t ∧
      t = (((s.beginStep.offer ⟨.recallTimeout, some n, e.blockOf r, none, some i, none, s.timeBase⟩).fence n
        .recallTimeout).settle) ∧
      t.node n = { s.node n with state := .fenced, fenceReason := some .recallTimeout, fenceJob := true } ∧
      (t.port n).requests = [] ∧ (t.port n).returns = [] ∧ (t.port n).requestCredits = 0 ∧
      (t.port n).returnCredits = 0 ∧
      s.HoldsRecord t ⟨.recallTimeout, some n, e.blockOf r, none, some i, none, s.timeBase⟩)

/-! ## Memory Ports -/

/-- R120: the head of the Issue Queue is issued under the lowest-numbered FREE tag with its deadline, and its owner
notes it; with no FREE tag nothing is issued, nor from an empty queue (MODEL's choice, log entry 2). -/
def Obligations.MemoryIssueTakesTheLowestTag : Prop :=
  (∀ (s : State) (p : MPort), s.running = true →
    ((s.mp p).issueQ = [] ∨ ∀ t : MemTag, (s.mp p).tags[t] ≠ .free) →
    exec (.memoryIssue p) s = .next s.beginStep) ∧
  (∀ (s : State) (p : MPort) (op : MemOp) (rest : List MemOp) (t : MemTag), s.running = true →
    (s.mp p).issueQ = op :: rest → (s.mp p).tags[t] = .free → (∀ u : MemTag, u < t → (s.mp p).tags[u] ≠ .free) →
    ∃ v, exec (.memoryIssue p) s = .next v ∧
      (op.kind = .read → v.out = [.mread p t op.addr]) ∧
      (∀ x, op.kind = .write → (s.mp p).writeOf op.owner = some x → v.out = [.mwrite p t op.addr x.beats]) ∧
      v.mp p = { s.mp p with
        issueQ := rest
        tags := (s.mp p).tags.set t
          (.inFlight op (s.timeBase + (s.mp p).timeout.zeroExtend 32) (Vector.replicate 4 none)) } ∧
      (∀ q, q ≠ p → v.mp q = s.mp q) ∧
      (∀ i r, op.owner = .tt i r → v.entry i = (s.entry i).map fun e =>
        { e with memOp := e.memOp.map fun n => { n with tag := some t } }) ∧
      (∀ i, (∀ r, op.owner ≠ .tt i r) → v.entry i = s.entry i) ∧
      (∀ w, op.owner = .wb w → v.wbEntry w = (s.wbEntry w).map fun e => { e with state := .writing }) ∧
      (∀ w, op.owner ≠ .wb w → v.wbEntry w = s.wbEntry w) ∧
      v.ports = s.ports ∧ v.nodes = s.nodes ∧ v.dir = s.dir ∧ v.slots = s.slots)

/-- R115, R122, R123, R130: a beat of a read in flight is kept until four have come; the fourth frees the tag and gives the
four beats to the owner; a duplicate is discarded and captured, the read going on. An MACK frees the tag and takes the write
out of its list; a Writeback Buffer entry then queues DONE with tag 0, or leaves the buffer when its fenced mark is set. -/
def Obligations.ReadsAndWritesComplete : Prop :=
  (∀ (s : State) (p : MPort) (t : MemTag) (k : Fin 4) (data : BitVec 128) (mark : Bool) (op : MemOp) (d : Time)
    (got : Vector (Option Beat) 4) (i : TTIdx) (r : Role), s.running = true →
    (s.mp p).tags[t] = .inFlight op d got → op.kind = .read → op.owner = .tt i r →
    (got[k] = none → gotCount (got.set k (some ⟨data, mark⟩)) ≠ 4 →
      exec (.mbeat p t.val k.val data mark) s = .next (State.settle (s.beginStep.modMP p fun x =>
        { x with tags := x.tags.set t (.inFlight op d (got.set k (some ⟨data, mark⟩))) }))) ∧
    (got[k] = none → gotCount (got.set k (some ⟨data, mark⟩)) = 4 →
      exec (.mbeat p t.val k.val data mark) s = .next (State.settle
        ((s.beginStep.modMP p fun x => { x with tags := x.tags.set t .free }).modEntry i fun e =>
          { e with buffer := ⟨gotBeats (got.set k (some ⟨data, mark⟩)), 15#4, some .memory⟩, memOp := none }))) ∧
    (got[k] ≠ none →
      exec (.mbeat p t.val k.val data mark) s = .next (State.settle (s.beginStep.offer
        ⟨.duplicateBeat, none, s.opBlock op.owner, some (p, t), some i, some (Fin.ofNat 5 (gotCount got)), s.timeBase⟩)))) ∧
  (∀ (s : State) (p : MPort) (t : MemTag) (op : MemOp) (d : Time) (got : Vector (Option Beat) 4), s.running = true →
    (s.mp p).tags[t] = .inFlight op d got → op.kind = .write →
    ∃ u, exec (.mack p t.val) s = .next u ∧ (u.mp p).tags = (s.mp p).tags.set t .free ∧
      (∀ w, op.owner = .wb w → (∀ x ∈ (u.mp p).writes, x.owner ≠ .wb w)) ∧
      (∀ w e, op.owner = .wb w → s.wbEntry w = some e → e.fenced = false →
        u.wbEntry w = some { e with state := .donePending } ∧ s.Queued u e.writer ⟨.done 0#8 e.block, .wb w⟩) ∧
      (∀ w e, op.owner = .wb w → s.wbEntry w = some e → e.fenced = true → u.wbEntry w = none) ∧
      (∀ i r, op.owner = .tt i r → u = State.settle ((s.beginStep.modMP p fun x =>
        { x with tags := x.tags.set t .free, writes := x.writes.filter fun v => v.owner != op.owner }).modEntry i fun e =>
          e.writeEnded true)))

/-- R82, R95, R131, R132: MFAULT, MREFUSE and the expiry of its deadline each fail a write in flight, and free its tag or
make it STALE. A superseded write is retired as if it had succeeded; a first failure is captured and the write is placed
again, keeping its place in its list; a second is captured twice, and ends the write. The end of its write leaves an entry
without a memory operation, and a final failure in the WRITING of a WRITE_THRU decides its FAULT WRITE_FAILED; no other
flow is changed by it. A Writeback Buffer entry returns to QUEUED at the first failure, and at the second answers DONE, or
leaves the buffer when fenced (R115). A deadline has expired once it is reached or passed (MODEL's reading, log entry 7). -/
def Obligations.FailedWrites : Prop :=
  (∀ (s : State) (p : MPort) (t : MemTag) (op : MemOp) (d : Time) (got : Vector (Option Beat) 4), s.running = true →
    (s.mp p).tags[t] = .inFlight op d got → op.kind = .write →
    exec (.mfault p t.val) s = .next (s.beginStep.failWrite p t op .writeFault .free).settle ∧
    exec (.mrefuse p t.val) s = .next (s.beginStep.failWrite p t op .portRefused .free).settle ∧
    (s.reached d = true → exec (.memoryDeadlineExpiry p t) s =
      .next (s.beginStep.failWrite p t op .writeTimeout (.stale .write 0#4)).settle)) ∧
  (∀ (s : State) (p : MPort) (t : MemTag) (op : MemOp) (why : CaptureReason) (x : TagState) (w : WriteRec),
    (s.mp p).writeOf op.owner = some w →
    (w.superseded = true → s.failWrite p t op why x = ((s.modMP p fun y =>
      { y with tags := y.tags.set t x, writes := y.writes.filter fun v => v.owner != op.owner }).deliverWrite op.owner
        true)) ∧
    (w.superseded = false → w.second = false →
      s.HoldsRecord (s.failWrite p t op why x)
        ⟨why, s.opWriter op.owner, s.opBlock op.owner, some (p, t), op.owner.ttIndex, none, s.timeBase⟩ ∧
      (s.failWrite p t op why x).mp p = { s.mp p with
        tags := (s.mp p).tags.set t x
        issueQ := (s.mp p).issueQ ++ [op]
        writes := (s.mp p).writes.map fun v => if v.owner = op.owner then { v with second := true } else v } ∧
      (∀ i r, op.owner = .tt i r → (s.failWrite p t op why x).entry i = (s.entry i).map fun e =>
        { e with memOp := e.memOp.map fun n => { n with tag := none } }) ∧
      (∀ g e, op.owner = .wb g → s.wbEntry g = some e → (s.failWrite p t op why x).wbEntry g =
        some { e with state := .queued, write := e.write.map fun y => { y with second := true } })) ∧
    (w.superseded = false → w.second = true → why.cls = .memory →
      s.HoldsRecord (s.failWrite p t op why x)
        ⟨why, s.opWriter op.owner, s.opBlock op.owner, some (p, t), op.owner.ttIndex, none, s.timeBase⟩ ∧
      s.HoldsRecord (s.failWrite p t op why x)
        ⟨.writeFailed, s.opWriter op.owner, s.opBlock op.owner, some (p, t), op.owner.ttIndex, none, s.timeBase⟩ ∧
      (s.failWrite p t op why x).mp p = { s.mp p with
        tags := (s.mp p).tags.set t x
        writes := (s.mp p).writes.filter fun v => v.owner != op.owner } ∧
      (∀ i r, op.owner = .tt i r → (s.failWrite p t op why x).entry i = (s.entry i).map (·.writeEnded false)) ∧
      (∀ g e, op.owner = .wb g → s.wbEntry g = some e → e.fenced = false →
        (s.failWrite p t op why x).wbEntry g = some { e with state := .donePending } ∧
        ∃ ms, ((s.failWrite p t op why x).port e.writer).outbound =
          (s.port e.writer).outbound ++ ms ++ [⟨.done 0#8 e.block, .wb g⟩]) ∧
      (∀ g e, op.owner = .wb g → s.wbEntry g = some e → e.fenced = true →
        (s.failWrite p t op why x).wbEntry g = none))) ∧
  (∀ (e : TTEntry) (success : Bool), e.writeEnded success = { e with
    memOp := none
    verdict := if success = false ∧ e.phase = .writing ∧ e.kind = .req .writeThru then some .writeFailed else e.verdict }) ∧
  (∀ (s : State) (i : TTIdx) (r : Role) (success : Bool),
    s.deliverWrite (.tt i r) success = s.modEntry i fun e => e.writeEnded success) ∧
  (∀ (s : State) (g : WBIdx) (e : WBEntry) (success : Bool), s.wbEntry g = some e →
    (e.fenced = true → s.deliverWrite (.wb g) success = s.setWB g none) ∧
    (e.fenced = false → s.deliverWrite (.wb g) success =
      (s.setWB g (some { e with state := .donePending })).modPort e.writer fun p =>
        { p with outbound := p.outbound ++ [⟨.done 0#8 e.block, .wb g⟩] }))

/-- R124 to R126: MFAULT, the expiry of its deadline and a second refusal each end a read early: the fault is captured
with the number of beats received, and the owner gets those beats as they came and the others zero and marked. A first
refusal is placed again, or forwarded from the newest write to its address when there is one (R129). A deadline has expired
once it is reached or passed (MODEL's reading, log entry 7). -/
def Obligations.FailedReads : Prop :=
  (∀ (s : State) (p : MPort) (t : MemTag) (op : MemOp) (d : Time) (got : Vector (Option Beat) 4), s.running = true →
    (s.mp p).tags[t] = .inFlight op d got → op.kind = .read →
    exec (.mfault p t.val) s = .next (s.beginStep.endReadEarly p t op got .readFault .free).settle ∧
    (s.reached d = true → exec (.memoryDeadlineExpiry p t) s =
      .next (s.beginStep.endReadEarly p t op got .readTimeout (.stale .read (gotSet got))).settle) ∧
    (op.refused = true → exec (.mrefuse p t.val) s =
      .next (s.beginStep.endReadEarly p t op (Vector.replicate 4 none) .portRefused .free).settle) ∧
    (∀ i r, op.refused = false → op.owner = .tt i r → (∀ x ∈ (s.mp p).writes, x.addr ≠ op.addr) →
      exec (.mrefuse p t.val) s = .next (State.settle ((s.beginStep.modMP p fun x =>
        { x with tags := x.tags.set t .free, issueQ := x.issueQ ++ [⟨.tt i .primary, .read, op.addr, true⟩] }).modEntry i
          fun e => { e with memOp := some ⟨.read, .primary, none⟩ }))) ∧
    (∀ i r w, op.refused = false → op.owner = .tt i r → ((s.mp p).writesAt op.addr).getLast? = some w →
      exec (.mrefuse p t.val) s = .next (State.settle ((s.beginStep.modMP p fun x =>
        { x with tags := x.tags.set t .free }).modEntry i fun e =>
          { e with buffer := ⟨w.beats, 15#4, some .forwarded⟩, memOp := none })))) ∧
  (∀ (s : State) (p : MPort) (t : MemTag) (op : MemOp) (got : Vector (Option Beat) 4) (why : CaptureReason)
    (x : TagState) (i : TTIdx) (r : Role) (e : TTEntry), op.owner = .tt i r → s.entry i = some e →
    (s.endReadEarly p t op got why x).entry i = some { e with buffer := ⟨gotBeats got, 15#4, some .memory⟩, memOp := none } ∧
    (∀ k : Fin 4, (gotBeats got)[k] = (got[k]).getD ⟨0#128, true⟩) ∧
    s.HoldsRecord (s.endReadEarly p t op got why x)
      ⟨why, none, s.opBlock op.owner, some (p, t), some i, some (Fin.ofNat 5 (gotCount got)), s.timeBase⟩ ∧
    (s.endReadEarly p t op got why x).mp p = { s.mp p with tags := (s.mp p).tags.set t x })

/-- R121, R133, R134: what a response does that no operation in flight waits for: under a FREE tag, or with a beat index
out of range, it is discarded and captured; under a tag out of range too, the tag that is recorded being a free value
(log entry 8); a STALE tag becomes FREE at the response that would have ended its operation. That the beat index is
checked before the tag is the model's reading (log entry 20); that an expiry not due changes nothing is its choice (log
entries 2 and 7). -/
def Obligations.ResponsesOutOfTurn : Prop :=
  (∀ (s : State) (p : MPort) (t : MemTag) (k : Fin 4) (data : BitVec 128) (mark : Bool), s.running = true →
    (s.mp p).tags[t] = .free →
    ∀ i, (i = .mbeat p t.val k.val data mark ∨ i = .mack p t.val ∨ i = .mfault p t.val ∨ i = .mrefuse p t.val) →
      exec i s = .next (s.beginStep.offer ⟨.unexpectedResponse, none, none, some (p, t), none, none, s.timeBase⟩).settle) ∧
  (∀ (s : State) (p : MPort) (tag : Nat) (k : Fin 4) (data : BitVec 128) (mark : Bool), s.running = true → 16 ≤ tag →
    ∀ i, (i = .mbeat p tag k.val data mark ∨ i = .mack p tag ∨ i = .mfault p tag ∨ i = .mrefuse p tag) →
      ∃ t, exec i s =
        .next (s.beginStep.offer ⟨.unexpectedResponse, none, none, some (p, t), none, none, s.timeBase⟩).settle) ∧
  (∀ (s : State) (p : MPort) (t : MemTag) (beat : Nat) (data : BitVec 128) (mark : Bool), s.running = true → 4 ≤ beat →
    exec (.mbeat p t.val beat data mark) s =
      .next (s.beginStep.offer ⟨.unexpectedResponse, none, none, some (p, t), none, none, s.timeBase⟩)) ∧
  (∀ (s : State) (p : MPort) (t : MemTag) (k : Fin 4) (data : BitVec 128) (mark : Bool) (op : MemOp) (d : Time)
    (got : Vector (Option Beat) 4), s.running = true → (s.mp p).tags[t] = .inFlight op d got →
    ∀ i, (op.kind = .write ∧ i = .mbeat p t.val k.val data mark ∨ op.kind = .read ∧ i = .mack p t.val) →
      exec i s = .next (s.beginStep.offer
        ⟨.unexpectedResponse, s.opWriter op.owner, s.opBlock op.owner, some (p, t), op.owner.ttIndex, none,
          s.timeBase⟩).settle) ∧
  (∀ (s : State) (p : MPort) (t : MemTag) (kind : OpKind) (got : BitVec 4), s.running = true →
    (s.mp p).tags[t] = .stale kind got →
    ∀ i, (i = .mfault p t.val ∨ i = .mrefuse p t.val ∨ kind = .write ∧ i = .mack p t.val) →
      exec i s = .next (State.settle (s.beginStep.modMP p fun x => { x with tags := x.tags.set t .free }))) ∧
  (∀ (s : State) (p : MPort) (t : MemTag) (got : BitVec 4) (k : Fin 4) (data : BitVec 128) (mark : Bool),
    s.running = true → (s.mp p).tags[t] = .stale .read got →
    exec (.mbeat p t.val k.val data mark) s = .next (State.settle (s.beginStep.modMP p fun x =>
      { x with tags := x.tags.set t (if got ||| (1#4 <<< k.val) = 15#4 then .free
        else .stale .read (got ||| (1#4 <<< k.val))) }))) ∧
  (∀ (s : State) (p : MPort) (t : MemTag) (kind : OpKind) (got : BitVec 4) (k : Fin 4) (data : BitVec 128) (mark : Bool),
    s.running = true → (s.mp p).tags[t] = .stale kind got →
    ∀ i, (kind = .write ∧ i = .mbeat p t.val k.val data mark ∨ kind = .read ∧ i = .mack p t.val) →
      exec i s = .next (s.beginStep.offer ⟨.unexpectedResponse, none, none, some (p, t), none, none, s.timeBase⟩).settle) ∧
  (∀ (s : State) (p : MPort) (t : MemTag), s.running = true →
    (∀ op d got, (s.mp p).tags[t] = .inFlight op d got → s.reached d = false) →
    exec (.memoryDeadlineExpiry p t) s = .next s.beginStep)

/-- R119, R127 to R129: a write placed for its first attempt goes to the tail of the Issue Queue, joins the end of the
list of its address and marks every earlier write of that list superseded, and a read is forwarded from the newest
write to its address, or placed in the Issue Queue when there is none, a first one and a refused one alike (R126). -/
def Obligations.WriteOrderAndForwarding : Prop :=
  (∀ (s : State) (o : OpOwner) (p : MPort) (a : MemAddr) (d : BlockData),
    ((s.placeWrite o p a d).mp p).issueQ = (s.mp p).issueQ ++ [⟨o, .write, a, false⟩] ∧
    ((s.placeWrite o p a d).mp p).writesAt a =
      ((s.mp p).writesAt a).map (fun v => { v with superseded := true }) ++ [⟨o, a, d, false, false⟩] ∧
    (∀ c, c ≠ a → ((s.placeWrite o p a d).mp p).writesAt c = (s.mp p).writesAt c) ∧
    ((s.placeWrite o p a d).mp p).tags = (s.mp p).tags ∧ (∀ q, q ≠ p → (s.placeWrite o p a d).mp q = s.mp q)) ∧
  (∀ (s : State) (i : TTIdx) (p : MPort) (a : MemAddr) (e : TTEntry) (x : Bool), s.entry i = some e →
    (∀ w, ((s.mp p).writesAt a).getLast? = some w →
      (s.placeRead i p a x).entry i = some { e with buffer := ⟨w.beats, 15#4, some .forwarded⟩, memOp := none } ∧
      (s.placeRead i p a x).mp p = s.mp p) ∧
    ((s.mp p).writesAt a = [] →
      (s.placeRead i p a x).entry i = some { e with memOp := some ⟨.read, .primary, none⟩ } ∧
      (s.placeRead i p a x).mp p = { s.mp p with issueQ := (s.mp p).issueQ ++ [⟨.tt i .primary, .read, a, x⟩] }))

/-! ## The Directory -/

/-- R45 to R50: the lookup of a block: the way that holds it, else the lowest-numbered EMPTY way for a kind that needs
one, else the least recent HELD way whose block is not claimed, else SET_BUSY; a holder-check failure at a HELD way
makes its entry FAILED, in its way and with its recency position, and leaves every other way and set as it is. -/
def Obligations.LookupOutcomes : Prop :=
  ∀ (s : State) (i : TTIdx) (b : Block) (ds : DirSet), ds = s.dirSet (setOf b) →
    (∀ new w e, ds.findHeld b = some (w, e) →
      (s.lookup i b new).1 = .held w { e with failed := e.failed || s.now.checks.headD false } ∧
      (s.now.checks.headD false = false → (s.lookup i b new).2.dir = s.dir) ∧
      (s.now.checks.headD false = true → s.DirectoryCanonical →
        (s.lookup i b new).2.dirSet (setOf b) = ds.setWay w (.held { e with failed := true }) ∧
        ∀ k, k ≠ setOf b → (s.lookup i b new).2.dirSet k = s.dirSet k)) ∧
    (ds.findHeld b = none → s.lookup i b false = (.notHeld, s)) ∧
    (∀ w, ds.findHeld b = none → ds.way w = .empty → (∀ v, v < w → ds.way v ≠ .empty) →
      s.lookup i b true = (.reservedNew w, s.putSet (setOf b) (ds.setWay w (.reserved i b)))) ∧
    (∀ w e front back, ds.findHeld b = none → (∀ v, ds.way v ≠ .empty) → ds.recency = front ++ w :: back →
      ds.way w = .held e → s.claimed e.block = false →
      (∀ v ∈ back, ∀ x, ds.way v = .held x → s.claimed x.block = true) →
      (s.lookup i b true).1 = .victim w { e with failed := e.failed || s.now.checks.headD false } ∧
      (s.lookup i b true).2.hold = s.hold.map (fun h => if h.req.block = e.block then { h with ready := false } else h) ∧
      (s.now.checks.headD false = false → (s.lookup i b true).2.dir = s.dir) ∧
      (s.now.checks.headD false = true → s.DirectoryCanonical →
        (s.lookup i b true).2.dirSet (setOf b) = ds.setWay w (.held { e with failed := true }) ∧
        ∀ k, k ≠ setOf b → (s.lookup i b true).2.dirSet k = s.dirSet k)) ∧
    (ds.findHeld b = none → (∀ v, ds.way v ≠ .empty) →
      (∀ v ∈ ds.recency, ∀ x, ds.way v = .held x → s.claimed x.block = true) → s.lookup i b true = (.setBusy, s))

/-- R42, R43: where a node stands for a block, what a removal of a holder and of a whole entry leave, what the way of a
removed entry becomes by the claim on the block, and that a set that is written reads as it was written. -/
def Obligations.HoldersAreRemoved : Prop :=
  (∀ (s : State) (n : NodeId) (b : Block),
    (s.dirEntry b = none → s.standing n b = .notHolder) ∧
    (∀ e, s.dirEntry b = some e → e.failed = true → s.standing n b = .underRepair) ∧
    (∀ e o, s.dirEntry b = some e → e.failed = false → e.rights = .owned o →
      s.standing n b = if o = n then .owner else .notHolder) ∧
    (∀ e hs, s.dirEntry b = some e → e.failed = false → e.rights = .shared hs →
      s.standing n b = if hs.has n = true then .sharer else .notHolder)) ∧
  (∀ (s : State) (n : NodeId) (b : Block) (w : WayIdx) (e : DirEntry), s.DirectoryCanonical →
    (s.dirSet (setOf b)).findHeld b = some (w, e) →
    (e.failed = true ∨ e.rights.holders.has n = false → s.removeHolder n b = s) ∧
    (∀ hs, e.failed = false → e.rights = .shared hs → hs.has n = true → hs.del n ≠ NodeSet.none →
      (s.removeHolder n b).dirSet (setOf b) =
        (s.dirSet (setOf b)).setWay w (.held { e with rights := .shared (hs.del n) })) ∧
    (e.failed = false → (e.rights = .owned n ∨ e.rights = .shared (NodeSet.only n)) →
      (s.removeHolder n b).dirSet (setOf b) =
        ⟨(s.dirSet (setOf b)).ways.set w (s.vacated b), (s.dirSet (setOf b)).recency.erase w⟩)) ∧
  (∀ (s : State) (b : Block),
    (s.claimant b = none → s.vacated b = .empty) ∧
    (∀ i e, s.claimant b = some (i, .victim) → s.entry i = some e → s.vacated b = .reserved i e.block) ∧
    (∀ i e, s.claimant b = some (i, .primary) → s.entry i = some e →
      ((e.kind = .req .fetchS ∨ e.kind = .req .fetchX ∨ e.kind = .req .upgrade) → s.vacated b = .reserved i b) ∧
      ((e.kind = .req .readOnce ∨ e.kind = .req .writeThru ∨ e.kind = .reclaim ∨ e.kind = .poison) →
        s.vacated b = .empty))) ∧
  (∀ (s : State) (b : Block), s.DirectoryCanonical →
    s.Removes (s.removeEntry b) b ∧ (s.removeEntry b).tt = s.tt ∧ (s.removeEntry b).ports = s.ports) ∧
  (∀ (s : State) (k j : SetIdx) (v : DirSet), s.DirectoryCanonical →
    (s.putSet k v).dirSet j = if j = k then v else s.dirSet j)

/-- R38, R40, R42, R43: the steps of an update on a HELD way and on a RESERVED way, and the recency order, which moves once
for the whole update: to the front when an entry is entered, a holder added, or the state or owner changed, out of the list
when the entry is removed, and not otherwise; the others keep their order. That the order moves so for the updates of
entries that grant nothing is the model's reading (log entry 13). -/
def Obligations.UpdatesApplyTheirSteps : Prop :=
  (∀ (b : Block) (vac : Way) (e : DirEntry) (hs : NodeSet) (o n : NodeId) (i : TTIdx),
    Way.step b vac (.held { e with rights := .shared hs }) (.addSharer n) = .held { e with rights := .shared (hs.add n) } ∧
    Way.step b vac (.held { e with rights := .owned o }) .downgrade =
      .held { e with rights := .shared (NodeSet.only o) } ∧
    Way.step b vac (.held e) (.makeOwner n) = .held { e with rights := .owned n } ∧
    Way.step b vac (.reserved i b) (.addSharer n) = .held ⟨b, .shared (NodeSet.only n), false⟩ ∧
    Way.step b vac (.reserved i b) .downgrade = .reserved i b ∧
    Way.step b vac (.reserved i b) (.makeOwner n) = .held ⟨b, .owned n, false⟩ ∧
    Way.step b vac (.reserved i b) (.remove n) = .reserved i b ∧
    (e.failed = false → hs.has n = true → hs.del n ≠ NodeSet.none →
      Way.step b vac (.held { e with rights := .shared hs }) (.remove n) = .held { e with rights := .shared (hs.del n) }) ∧
    (e.failed = false → Way.step b vac (.held { e with rights := .owned n }) (.remove n) = vac) ∧
    (e.failed = false → Way.step b vac (.held { e with rights := .shared (NodeSet.only n) }) (.remove n) = vac) ∧
    (e.rights.holders.has n = false ∨ e.failed = true → Way.step b vac (.held e) (.remove n) = .held e)) ∧
  (∀ (s : State) (i : TTIdx) (b : Block) (us : List UStep) (w : WayIdx) (ds : DirSet), s.DirectoryCanonical →
    ds = s.dirSet (setOf b) →
    ((∃ e, ds.findHeld b = some (w, e)) ∨ ds.findHeld b = none ∧ ds.findReserved i = some w) →
    ∀ x, x = us.foldl (Way.step b (s.vacated b)) (ds.way w) →
      ((s.applyUpdate i b us).dirSet (setOf b)).ways = ds.ways.set w x ∧
      (∀ e f, ds.way w = .held e → x = .held f → e.rights = f.rights →
        ((s.applyUpdate i b us).dirSet (setOf b)).recency = ds.recency) ∧
      (∀ e f hs ks, ds.way w = .held e → x = .held f → e.rights = .shared hs → f.rights = .shared ks →
        ((s.applyUpdate i b us).dirSet (setOf b)).recency =
          if ks &&& ~~~hs = 0#8 then ds.recency else w :: ds.recency.erase w) ∧
      (∀ e f o, ds.way w = .held e → x = .held f → e.rights ≠ f.rights → (e.rights = .owned o ∨ f.rights = .owned o) →
        ((s.applyUpdate i b us).dirSet (setOf b)).recency = w :: ds.recency.erase w) ∧
      (∀ j c f, ds.way w = .reserved j c → x = .held f →
        ((s.applyUpdate i b us).dirSet (setOf b)).recency = w :: ds.recency.erase w) ∧
      (∀ e, ds.way w = .held e → (∀ f, x ≠ .held f) →
        ((s.applyUpdate i b us).dirSet (setOf b)).recency = ds.recency.erase w) ∧
      (∀ j c, ds.way w = .reserved j c → (∀ f, x ≠ .held f) →
        ((s.applyUpdate i b us).dirSet (setOf b)).recency = ds.recency) ∧
      (∀ k, k ≠ setOf b → (s.applyUpdate i b us).dirSet k = s.dirSet k)) ∧
  (∀ (s : State) (i : TTIdx) (b : Block) (us : List UStep), (s.dirSet (setOf b)).findHeld b = none →
    (s.dirSet (setOf b)).findReserved i = none → s.applyUpdate i b us = s)

/-! ## Coherent requests -/

/-- R84 to R93, R99: the recalls of a flow by its kind and its situation, the owner or holders being those that its
lookup recorded; a FETCH_S or FETCH_X from the recorded owner, and no other entry, is refused OWNER_CONFLICT: it recalls
nothing and reads nothing. -/
def Obligations.RecallsAreThoseOfTheFlow : Prop :=
  ∀ (e : TTEntry) (n : NodeId) (tag : ReqTag),
    ((e.situation = .notHeld ∨ e.situation = .setBusy) → e.planned = []) ∧
    (∀ hs, e.situation = .shared hs →
      (e.kind = .req .fetchS ∨ e.kind = .req .readOnce → e.planned = []) ∧
      (e.kind = .req .fetchX ∨ e.kind = .req .upgrade → e.requester = some (n, tag) →
        e.planned = (allNodes.filter fun k => hs.has k && k != n).map fun k => (k, .invalidate)) ∧
      (e.kind = .req .writeThru ∨ e.kind = .reclaim →
        e.planned = (allNodes.filter fun k => hs.has k).map fun k => (k, .invalidate))) ∧
    (∀ o, e.situation = .owned o →
      (e.kind = .req .fetchS → e.requester = some (n, tag) → o ≠ n → e.planned = [(o, .downgrade)]) ∧
      (e.kind = .req .fetchX → e.requester = some (n, tag) → o ≠ n → e.planned = [(o, .invalidate)]) ∧
      (e.kind = .req .readOnce → e.planned = [(o, .downgrade)]) ∧
      (e.kind = .req .writeThru ∨ e.kind = .reclaim → e.planned = [(o, .invalidate)]) ∧
      (e.kind = .req .upgrade → e.requester = some (n, tag) →
        e.planned = if o = n then [] else [(o, .invalidate)])) ∧
    (e.kind = .poison → e.planned = []) ∧
    (e.conflicts = true ↔ (e.kind = .req .fetchS ∨ e.kind = .req .fetchX) ∧
      ∃ o g, e.situation = .owned o ∧ e.requester = some (o, g)) ∧
    (∀ (s : State) (i : TTIdx) (x : TTEntry), e.conflicts = true → s.entry i = some x →
      (s.enterFlow i e).entry i = some { x with phase := .responding, verdict := some .ownerConflict, changed := true } ∧
      (s.enterFlow i e).ports = s.ports ∧ (s.enterFlow i e).mp0 = s.mp0 ∧ (s.enterFlow i e).mp1 = s.mp1)

/-- R45, R48, R57, R61, R78, R82, R85 to R93, R99: how an entry begins. It is filled from what starts it; where its block
is tracked it makes its lookup, a new way being wanted by FETCH_S, FETCH_X and UPGRADE alone, and its lookup's result
decides the phase; where the block is UNTRACKED it makes none. Its situation is what its lookup recorded. At SET_BUSY its
FAULT is decided. A flow with recalls sends them in RECALLING, with its read beside them when the block is SHARED; a flow
without reads memory when it needs data, and has its data complete when it needs none. -/
def Obligations.EntriesBegin : Prop :=
  (∀ (kind : TTKind) (st : Starter) (req : Option (NodeId × ReqTag)) (b : Block) (l : Option Loc) (w : Option WriteData),
    TTEntry.fresh kind st req b l w = ⟨kind, st, req, false, b, l, none, none, .responding, [], ⟨BlockData.zero, 0#4, none⟩,
      w, false, none, [], none, none, false, false, false⟩) ∧
  (∀ (q : Request) (st : Starter) (l : Option Loc), TTEntry.ofRequest q st l =
    TTEntry.fresh (.req q.kind) st (some (q.node, q.tag)) q.block l q.write) ∧
  (∀ (s : State) (i : TTIdx) (st : Starter) (b : Block),
    s.startReclaim i st b = s.startEntry i (.fresh .reclaim st none b (s.locate b) none)) ∧
  (∀ (s : State) (b : Block), (s.tracked b = true ↔
      ∃ l, s.mapLookup b = .region l .coherent ∨ s.mapLookup b = .region l .closing) ∧
    ∀ l, s.locate b = some l ↔ ∃ x, s.mapLookup b = .region l x) ∧
  (∀ (s : State) (i : TTIdx) (e : TTEntry),
    (s.tracked e.block = false → s.startEntry i e = (s.setEntry i (some e)).beginFlow i) ∧
    (∀ new r t, s.tracked e.block = true →
      (new = true ↔ e.kind = .req .fetchS ∨ e.kind = .req .fetchX ∨ e.kind = .req .upgrade) →
      (s.setEntry i (some e)).lookup i e.block new = (r, t) →
      s.startEntry i e = (t.setEntry i (some { e with lookup := some r })).afterLookup i e.block r)) ∧
  (∀ (s : State) (i : TTIdx) (b : Block), (∀ w, s.afterLookup i b (.reservedNew w) = s.beginFlow i) ∧
    s.afterLookup i b .notHeld = s.beginFlow i ∧ s.afterLookup i b .setBusy = s.beginFlow i) ∧
  (∀ e : TTEntry,
    (∀ w d hs, e.lookup = some (.held w d) → d.failed = false → d.rights = .shared hs → e.situation = .shared hs) ∧
    (∀ w d o, e.lookup = some (.held w d) → d.failed = false → d.rights = .owned o → e.situation = .owned o) ∧
    (e.lookup = some .setBusy → e.situation = .setBusy) ∧
    (e.lookup = none ∨ e.lookup = some .notHeld ∨ (∃ w, e.lookup = some (.reservedNew w)) → e.situation = .notHeld)) ∧
  (∀ (s : State) (i : TTIdx) (e f : TTEntry) (needs : Prop), s.entry i = some e →
    f = { e with recalls := [], buffer := ⟨BlockData.zero, 0#4, none⟩, opened := false } →
    (needs ↔ e.kind = .req .fetchS ∨ e.kind = .req .fetchX ∨ e.kind = .req .upgrade ∧ e.grantsUp = false ∨
      e.kind = .req .readOnce ∨ e.kind = .req .writeThru ∧ ∀ w, e.write = some w → w.mask ≠ BitVec.allOnes 64) →
    (e.situation = .setBusy →
      s.beginFlow i = s.setEntry i (some { f with phase := .responding, verdict := some .setBusy })) ∧
    (e.conflicts = true → s.beginFlow i =
      s.setEntry i (some { f with phase := .responding, verdict := some .ownerConflict, changed := true })) ∧
    (∀ l, needs → e.loc = some l → e.planned = [] → (e.situation = .notHeld ∨ ∃ hs, e.situation = .shared hs) →
      s.beginFlow i = (s.setEntry i (some { f with phase := .reading })).placeRead i l.port l.addr false) ∧
    (¬needs → e.planned = [] → e.situation ≠ .setBusy → s.beginFlow i = (s.setEntry i (some f)).complete i) ∧
    (∀ l hs, needs → e.loc = some l → e.planned ≠ [] → e.situation = .shared hs → s.beginFlow i =
      ((s.setEntry i (some { f with phase := .recalling })).formRecalls i .primary e.block e.planned).placeRead i l.port
        l.addr false) ∧
    (e.planned ≠ [] → e.conflicts = false → ((∃ o, e.situation = .owned o) ∨ ¬needs) → s.beginFlow i =
      (s.setEntry i (some { f with phase := .recalling })).formRecalls i .primary e.block e.planned))

/-- R50 to R54, R61, R65, R83: the repair of a FAILED entry and the eviction of a victim. The lookup's result decides the
phase; a repair recalls with INVALIDATE every node that is ACTIVE or QUIESCING, and an eviction every recorded holder; each
RECALL is queued, or held for pacing, in the order of the recall set. While a member is unresolved, or a memory operation
is at work, the entry waits. A repair ends by removing the entry, capturing HOLDER_CHECK and settling memory by what it
collected (the HOLDER_CHECK before an OWNER_LOST, R53's order, log entry 16); an eviction ends by removing the victim's
entry and writing the victim's data of source NODE. Neither sets the changed-state mark. Then the entry goes on as for a
block not held. -/
def Obligations.RepairsAndEvictions : Prop :=
  (∀ (s : State) (i : TTIdx) (b : Block) (w : WayIdx) (d : DirEntry) (e : TTEntry), s.entry i = some e →
    (d.failed = true → s.afterLookup i b (.held w d) =
      (s.setEntry i (some { e with phase := .repairing })).formRecalls i .primary b
        ((allNodes.filter fun n => (s.node n).state == .active || (s.node n).state == .quiescing).map
          fun n => (n, .invalidate))) ∧
    (d.failed = false → s.afterLookup i b (.held w d) = s.beginFlow i) ∧
    (∀ v, v = Victim.mk w d (s.locate d.block) [] ⟨BlockData.zero, 0#4, none⟩ →
      (d.failed = true → s.afterLookup i b (.victim w d) =
        (s.setEntry i (some { e with victim := some v, phase := .evicting })).formRecalls i .victim d.block
          ((allNodes.filter fun n => (s.node n).state == .active || (s.node n).state == .quiescing).map
            fun n => (n, .invalidate))) ∧
      (d.failed = false → s.afterLookup i b (.victim w d) =
        (s.setEntry i (some { e with victim := some v, phase := .evicting })).formRecalls i .victim d.block
          ((allNodes.filter fun n => d.rights.holders.has n).map fun n => (n, .invalidate))))) ∧
  (∀ (s : State) (i : TTIdx) (r : Role) (b : Block) (ms : List (NodeId × RecallKind)) (e : TTEntry),
    s.entry i = some e → e.claims b = some r → (ms.map (·.1)).Nodup → (∀ m ∈ ms, (s.node m.1).state ≠ .fenced) →
    ∃ f, (s.formRecalls i r b ms).entry i = some f ∧
      f.recallsOf r = ms.map (fun m => ⟨m.1, m.2, if (s.ttSlot i).pacing.has m.1 = true then .notQueued else .queued, none,
        .awaiting, none⟩) ∧
      f.held = e.held ++ (ms.filter fun m => (s.ttSlot i).pacing.has m.1).map (fun m => (m.1, .recall b m.2)) ∧
      (∀ n, ((s.formRecalls i r b ms).port n).outbound = (s.port n).outbound ++
        (ms.filter fun m => m.1 == n && !(s.ttSlot i).pacing.has m.1).map fun m => ⟨.recall b m.2, .tt i⟩) ∧
      (s.formRecalls i r b ms).dir = s.dir ∧ (s.formRecalls i r b ms).slots = s.slots) ∧
  (∀ (s : State) (i : TTIdx) (r : Role) (b : Block) (ms : List (NodeId × RecallKind)) (e f : TTEntry) (v : Victim),
    s.entry i = some e →
    (r = .primary ∧ f = { e with recalls := ms.map fun m => ⟨m.1, m.2, .notQueued, none, .awaiting, none⟩ } ∨
      r = .victim ∧ e.victim = some v ∧
        f = { e with victim := some { v with recalls := ms.map fun m => ⟨m.1, m.2, .notQueued, none, .awaiting, none⟩ } }) →
    s.formRecalls i r b ms = ms.foldl (fun t m => t.sendRecall i r b m) (s.setEntry i (some f))) ∧
  (∀ (s : State) (i : TTIdx) (r : Role) (b : Block) (n : NodeId) (k : RecallKind), (s.node n).state ≠ .fenced →
    s.sendRecall i r b (n, k) = s.sendTT i n (.recall b k)) ∧
  (∀ (s : State) (i : TTIdx), s.entry i = none → s.entryStep i = none) ∧
  (∀ (s : State) (i : TTIdx) (e : TTEntry), s.entry i = some e →
    (∀ o, e.memOp = some o → s.entryStep i = none) ∧
    (e.memOp = none → e.phase = .repairing → e.opened = false → (∃ m ∈ e.recalls, m.resolution = none) →
      s.entryStep i = none) ∧
    (∀ v, e.memOp = none → e.phase = .evicting → e.opened = false → e.victim = some v →
      (∃ m ∈ v.recalls, m.resolution = none) → s.entryStep i = none) ∧
    (e.memOp = none → e.phase = .repairing ∨ e.phase = .evicting → e.opened = true →
      s.entryStep i = some (s.beginFlow i))) ∧
  (∀ (s : State) (i : TTIdx) (r : Role) (e : TTEntry) (b : Block) (l : Loc) (f : TTEntry), s.DirectoryCanonical →
    s.entry i = some e → e.memOp = none → e.opened = false → (∀ m ∈ e.recallsOf r, m.resolution ≠ none) →
    (r = .primary ∧ e.phase = .repairing ∧ e.block = b ∨
      r = .victim ∧ e.phase = .evicting ∧ ∃ v, e.victim = some v ∧ v.entry.failed = true ∧ v.entry.block = b) →
    e.locOf r = some l → f = { e with opened := true, reclaimed := e.kind == .reclaim } →
    ∃ t, s.entryStep i = some t ∧ s.Removes t b ∧
      s.HoldsRecord t ⟨.holderCheck, none, some b, none, some i, none, s.timeBase⟩ ∧
      ((e.bufferOf r).source = some .node →
        t.entry i = some { f with memOp := some ⟨.write, r, none⟩ } ∧
        s.PlacesWrite t (.tt i r) l (e.bufferOf r).beats) ∧
      (∀ x, (e.bufferOf r).source = some x → x ≠ .node →
        t.entry i = some f ∧ t.mp0 = s.mp0 ∧ t.mp1 = s.mp1) ∧
      (∀ n, (e.bufferOf r).source = none → e.repairNote = some n →
        t.entry i = some { f with memOp := some ⟨.write, r, none⟩ } ∧
        s.PlacesWrite t (.tt i r) l (Vector.replicate 4 ⟨0#128, true⟩) ∧
        s.HoldsRecord t ⟨.ownerLost, some n, some b, none, none, none, s.timeBase⟩) ∧
      ((e.bufferOf r).source = none → e.repairNote = none →
        t.entry i = some f ∧ t.mp0 = s.mp0 ∧ t.mp1 = s.mp1) ∧
      (¬((e.bufferOf r).source = none ∧ e.repairNote ≠ none) → t.slot .dataLoss = s.slot .dataLoss) ∧
      (∀ j, j ≠ i → t.ttSlot j = s.ttSlot j) ∧ t.hold = s.hold ∧ t.nodes = s.nodes) ∧
  (∀ (s : State) (i : TTIdx) (e : TTEntry) (v : Victim) (l : Loc), s.DirectoryCanonical → s.entry i = some e →
    e.memOp = none → e.opened = false → e.phase = .evicting → e.victim = some v → v.entry.failed = false →
    (∀ m ∈ v.recalls, m.resolution ≠ none) → v.loc = some l →
    ∃ t, s.entryStep i = some t ∧ s.Removes t v.entry.block ∧
      (v.buffer.source = some .node →
        t.entry i = some { e with opened := true, memOp := some ⟨.write, .victim, none⟩ } ∧
        s.PlacesWrite t (.tt i .victim) l v.buffer.beats) ∧
      (v.buffer.source ≠ some .node →
        t.entry i = some { e with opened := true } ∧ t.mp0 = s.mp0 ∧ t.mp1 = s.mp1) ∧
      (∀ j, j ≠ i → t.ttSlot j = s.ttSlot j) ∧ t.slots = s.slots ∧ t.ports = s.ports ∧ t.hold = s.hold ∧
      t.nodes = s.nodes) ∧
  (∀ (e : TTEntry) (w : WayIdx) (d : DirEntry),
    (e.lookup = some (.held w d) → d.failed = true → e.situation = .notHeld) ∧
    (e.lookup = some (.victim w d) → e.situation = .notHeld)) ∧
  (∀ (s : State) (i : TTIdx) (e f : TTEntry), s.entry i = some e → e.situation = .notHeld →
    f = { e with recalls := [], buffer := ⟨BlockData.zero, 0#4, none⟩, opened := false } →
    (∀ l, (e.kind = .req .fetchS ∨ e.kind = .req .fetchX ∨ e.kind = .req .upgrade ∨ e.kind = .req .readOnce ∨
        e.kind = .req .writeThru ∧ ∀ w, e.write = some w → w.mask ≠ BitVec.allOnes 64) → e.loc = some l →
      (s.mp l.port).writesAt l.addr = [] →
      (s.beginFlow i).entry i = some { f with phase := .reading, memOp := some ⟨.read, .primary, none⟩ } ∧
      ((s.beginFlow i).mp l.port).issueQ = (s.mp l.port).issueQ ++ [⟨.tt i .primary, .read, l.addr, false⟩]) ∧
    (∀ l w, e.kind = .req .writeThru → e.write = some w → w.mask = BitVec.allOnes 64 → e.loc = some l →
      (s.beginFlow i).entry i =
        some { f with phase := .writing, changed := true, memOp := some ⟨.write, .primary, none⟩ } ∧
      s.PlacesWrite (s.beginFlow i) (.tt i .primary) l w.beats) ∧
    (e.kind = .reclaim → (s.beginFlow i).entry i = some { f with phase := .responding } ∧
      (s.beginFlow i).mp0 = s.mp0 ∧ (s.beginFlow i).mp1 = s.mp1))

/-- R30, R69, R70, R78, R81, R86, R89 to R93, R95, R96, R98 to R100: what an entry does once its data is complete. The poison
policy turns an answer with data into FAULT POISONED under REFUSE when a beat is marked; the entry writes what its kind and
its data's source call for, and passes to WRITING, or to RESPONDING when it writes nothing. An UPGRADE that is to answer
GRANT_UP and finds at RESPONDING that its requester holds the block no longer applies nothing and reads memory, to be served
as a FETCH_X; an orphaned one makes no such query (MODEL's choice, log entry 26), and an orphaned entry answers nothing. -/
def Obligations.WhatAnEntryWrites : Prop :=
  (∀ (s : State) (e : TTEntry), s.refusesPoison e = true ↔
    (e.kind = .req .fetchS ∨ e.kind = .req .readOnce ∨ e.kind = .req .fetchX ∨ e.kind = .req .upgrade ∧ e.grantsUp = false) ∧
    (∃ l, e.loc = some l ∧ (s.region l.region).policy = .refuse) ∧ ∃ k : Fin 4, (e.buffer.beats[k]).poison = true) ∧
  (∀ (e : TTEntry) (poisoned : Bool),
    (e.kind = .req .fetchS ∨ e.kind = .req .readOnce ∨ e.kind = .reclaim →
      e.toWrite poisoned = if e.buffer.source = some .node then some e.buffer.beats else none) ∧
    (e.kind = .req .fetchX ∨ e.kind = .req .upgrade ∧ e.grantsUp = false →
      (e.buffer.source = some .node →
        (∃ m ∈ e.recalls, m.resolution = some .ownerLost) ∨ e.orphaned = true ∨ poisoned = true →
        e.toWrite poisoned = some e.buffer.beats) ∧
      (e.buffer.source ≠ some .node ∨
        (∀ m ∈ e.recalls, m.resolution ≠ some .ownerLost) ∧ e.orphaned = false ∧ poisoned = false →
        e.toWrite poisoned = none)) ∧
    (e.kind = .req .upgrade → e.grantsUp = true → e.toWrite poisoned = none) ∧
    (∀ w, e.kind = .req .writeThru → e.write = some w → e.toWrite poisoned = some (mergeBlock w e.buffer.beats)) ∧
    (e.kind = .poison → e.toWrite poisoned = some (Vector.replicate 4 ⟨0#128, true⟩))) ∧
  (∀ (s : State) (i : TTIdx) (e f : TTEntry) (l : Loc), s.entry i = some e → e.loc = some l →
    f = { e with verdict := if s.refusesPoison e = true then some .poisoned else e.verdict } →
    (∀ d, e.toWrite (s.refusesPoison e) = some d →
      (s.complete i).entry i =
        some { f with phase := .writing, changed := true, memOp := some ⟨.write, .primary, none⟩ } ∧
      s.PlacesWrite (s.complete i) (.tt i .primary) l d) ∧
    (e.toWrite (s.refusesPoison e) = none →
      (s.complete i).entry i = some { f with phase := .responding } ∧ (s.complete i).mp0 = s.mp0 ∧
      (s.complete i).mp1 = s.mp1) ∧
    ((s.complete i).dir = s.dir ∧ (s.complete i).ports = s.ports ∧ (s.complete i).slots = s.slots)) ∧
  (∀ (s : State) (i : TTIdx) (e : TTEntry), s.entry i = some e → e.memOp = none →
    (e.phase = .reading → s.entryStep i = some (s.complete i)) ∧
    (e.phase = .writing → s.entryStep i = some (s.setEntry i (some { e with phase := .responding }))) ∧
    (e.phase = .recalling → (∃ m ∈ e.recalls, m.resolution = none) → s.entryStep i = none) ∧
    (e.phase = .recalling → (∀ m ∈ e.recalls, m.resolution ≠ none) →
      ((e.kind = .req .fetchS ∨ e.kind = .req .fetchX ∨ e.kind = .req .upgrade ∧ e.grantsUp = false ∨
          e.kind = .req .readOnce ∨ e.kind = .req .writeThru ∧ ∀ w, e.write = some w → w.mask ≠ BitVec.allOnes 64) →
        e.buffer.present ≠ 15#4 → s.entryStep i = some (s.beginRead i)) ∧
      ((e.kind = .reclaim ∨ e.kind = .poison ∨ e.kind = .req .upgrade ∧ e.grantsUp = true ∨
          e.kind = .req .writeThru ∧ (∃ w, e.write = some w ∧ w.mask = BitVec.allOnes 64) ∨ e.buffer.present = 15#4) →
        s.entryStep i = some (s.complete i)))) ∧
  (∀ e : TTEntry, e.grantsUp = true ↔ e.kind = .req .upgrade ∧ e.upgradeAsX = false ∧ ∃ n tag, e.requester = some (n, tag) ∧
    ((∃ hs, e.situation = .shared hs ∧ hs.has n = true) ∨ e.situation = .owned n)) ∧
  (∀ (s : State) (i : TTIdx) (e : TTEntry) (n : NodeId) (tag : ReqTag) (l : Loc), s.entry i = some e → e.grantsUp = true →
    e.requester = some (n, tag) → e.loc = some l →
    (e.orphaned = false → s.standing n e.block = .notHolder → (s.mp l.port).writesAt l.addr = [] →
      (s.respond i e).entry i =
        some { e with upgradeAsX := true, phase := .reading, memOp := some ⟨.read, .primary, none⟩ } ∧
      ((s.respond i e).mp l.port).issueQ = (s.mp l.port).issueQ ++ [⟨.tt i .primary, .read, l.addr, false⟩] ∧
      (s.respond i e).dir = s.dir ∧ (s.respond i e).ports = s.ports) ∧
    (e.orphaned = true ∨ s.standing n e.block = .owner ∨ s.standing n e.block = .sharer →
      s.respond i e = (((s.respondUpdate i e).answer i).modEntry i fun x => { x with opened := true }))) ∧
  (∀ e : TTEntry, e.grantsUp = false → ∀ (s : State) (i : TTIdx), s.respond i e =
    ((s.respondKind i e).modEntry i fun x => { x with opened := true })) ∧
  (∀ e : TTEntry, ({ e with upgradeAsX := true } : TTEntry).grantsUp = false) ∧
  (∀ (s : State) (i : TTIdx) (e : TTEntry) (n : NodeId) (tag : ReqTag), e.orphaned = true → s.sendAnswer i e n tag = s) ∧
  (∀ (s : State) (i : TTIdx) (e : TTEntry) (l : Loc), s.entry i = some e → e.loc = some l →
    s.beginRead i = (s.setEntry i (some { e with phase := .reading })).placeRead i l.port l.addr false)

/-- R94: each byte of a merged block is the write's where its flag is set and the base's where it is clear, and each
beat's mark is the write's when all sixteen flags are set, the base's when none is, and else set when either is. -/
def Obligations.MergedBlock : Prop :=
  ∀ (w : WriteData) (base : BlockData) (b : Fin 4),
    (∀ k : Fin 16, ((mergeBlock w base)[b]).data.extractLsb' (8 * k.val) 8 =
      if w.mask.getLsbD (16 * b.val + k.val) = true then (w.beats[b]).data.extractLsb' (8 * k.val) 8
      else (base[b]).data.extractLsb' (8 * k.val) 8) ∧
    ((∀ k : Fin 16, w.mask.getLsbD (16 * b.val + k.val) = true) →
      ((mergeBlock w base)[b]).poison = (w.beats[b]).poison) ∧
    ((∀ k : Fin 16, w.mask.getLsbD (16 * b.val + k.val) = false) →
      ((mergeBlock w base)[b]).poison = (base[b]).poison) ∧
    ((∃ k : Fin 16, w.mask.getLsbD (16 * b.val + k.val) = true) →
      (∃ k : Fin 16, w.mask.getLsbD (16 * b.val + k.val) = false) →
      ((mergeBlock w base)[b]).poison = ((base[b]).poison || (w.beats[b]).poison))

/-- R40, R41, R64, R70, R74, R79, R80, R87, R97, R101: what a request entry does at RESPONDING. It first applies its
update, the steps of its members and of its requester as one request, a WRITE_THRU removing the entry whole and a SET_BUSY,
an OWNER_CONFLICT and a failed re-check changing nothing; only then it answers its requester, unless orphaned, with the
retryable flag clear exactly when it has changed state, and OWNER_CONFLICT and NOT_PERMITTED are captured behind their
FAULT. A message of an entry waits in it while an earlier one to the same node has not departed. -/
def Obligations.AnswersAndPacing : Prop :=
  (∀ (e : TTEntry) (tag : ReqTag),
    (∀ r, e.verdict = some r → e.answer tag = .fault tag e.block r (!e.changed)) ∧
    (e.verdict = none →
      (e.kind = .req .fetchS → e.answer tag = .grantS tag e.block e.buffer.beats) ∧
      (e.kind = .req .fetchX → e.answer tag = .grantX tag e.block e.buffer.beats) ∧
      (e.kind = .req .upgrade → e.grantsUp = true → e.answer tag = .grantUp tag e.block) ∧
      (e.kind = .req .upgrade → e.grantsUp = false → e.answer tag = .grantX tag e.block e.buffer.beats) ∧
      (e.kind = .req .readOnce → e.answer tag = .data tag e.block e.buffer.beats) ∧
      (e.kind = .req .writeThru → e.answer tag = .done tag e.block))) ∧
  (∀ (e : TTEntry) (n : NodeId) (tag : ReqTag), e.requester = some (n, tag) → e.orphaned = false →
    e.verdict ≠ some .poisoned →
    (e.kind = .req .fetchS → e.update = e.recalls.map Member.step ++ [.addSharer n]) ∧
    (e.kind = .req .fetchX ∨ e.kind = .req .upgrade → e.update = e.recalls.map Member.step ++ [.makeOwner n]) ∧
    (e.kind = .req .readOnce → e.update = e.recalls.map Member.step)) ∧
  (∀ (e : TTEntry) (n : NodeId) (tag : ReqTag), e.requester = some (n, tag) →
    (e.orphaned = true ∨ e.verdict = some .poisoned) →
    e.update = (e.recalls.filter fun m => m.node != n).map Member.step) ∧
  (∀ m : Member, m.step = if m.kind = .downgrade ∧ m.status = .awaiting ∧
    (m.resolution = some .data ∨ m.resolution = some .clean) then .downgrade else .remove m.node) ∧
  (∀ (s : State) (i : TTIdx) (e : TTEntry),
    (∀ k, e.kind = .req k → s.respondKind i e = (s.respondUpdate i e).answer i) ∧
    (e.verdict ∈ [some .setBusy, some .ownerConflict, some .noRegion, some .regionClosed, some .notTracked,
        some .notPermitted] → s.respondUpdate i e = s) ∧
    (e.kind = .req .writeThru → (e.verdict = none ∨ e.verdict = some .writeFailed) →
      s.respondUpdate i e = s.removeEntry e.block) ∧
    (e.kind = .req .fetchS ∨ e.kind = .req .fetchX ∨ e.kind = .req .upgrade ∨ e.kind = .req .readOnce →
      (e.verdict = none ∨ e.verdict = some .poisoned ∨ e.verdict = some .writeFailed) →
      (e.update = [] → s.respondUpdate i e = s) ∧
      (e.update ≠ [] → s.respondUpdate i e =
        (s.applyUpdate i e.block e.update).modEntry i fun x => { x with changed := true }))) ∧
  (∀ (s : State) (i : TTIdx) (e : TTEntry) (n : NodeId) (tag : ReqTag), s.entry i = some e → e.requester = some (n, tag) →
    (e.orphaned = true → e.verdict ≠ some .ownerConflict → e.verdict ≠ some .notPermitted → s.answer i = s) ∧
    (e.orphaned = false →
      (e.verdict ≠ some .ownerConflict → e.verdict ≠ some .notPermitted → s.answer i = s.sendTT i n (e.answer tag)) ∧
      (e.verdict = some .ownerConflict → s.answer i = (s.sendTT i n (e.answer tag)).offer
        ⟨.ownerConflict, some n, some e.block, none, some i, none, s.timeBase⟩) ∧
      (e.verdict = some .notPermitted → s.answer i = (s.sendTT i n (e.answer tag)).offer
        ⟨.notPermitted, some n, some e.block, none, none, none, s.timeBase⟩))) ∧
  (∀ (s : State) (i : TTIdx) (n : NodeId) (m : Msg) (e : TTEntry), s.entry i = some e →
    ((s.ttSlot i).pacing.has n = true →
      (s.sendTT i n m).entry i = some { e with held := e.held ++ [(n, m)] } ∧ (s.sendTT i n m).ports = s.ports) ∧
    ((s.ttSlot i).pacing.has n = false →
      ((s.sendTT i n m).port n).outbound = (s.port n).outbound ++ [⟨m, .tt i⟩] ∧
      ((s.sendTT i n m).ttSlot i).pacing = (s.ttSlot i).pacing.add n))

/-- R44, R60, R70, R71, R73, R74, R181: a retiring entry reports its RECLAIM, gives its reserved way back, makes the
requests held for its victim READY, and is handed to the oldest WAITING request for its block, or becomes free; the
allocator gives the lowest-numbered free entry to the oldest READY held request, which leaves the queue while the others
for its block become WAITING, before the walk and the waiting RECLAIM_BLOCK; a held request is checked again as it is
started. What the entry of a failed re-check holds beside its answer is the model's choice (log entry 28). -/
def Obligations.HandoffAndAllocation : Prop :=
  (∀ (s : State) (i : TTIdx) (b : Block), (∀ h ∈ s.hold, ¬(h.req.block = b ∧ h.ready = false)) →
    s.handOff i b = s.setEntry i none) ∧
  (∀ (s : State) (i : TTIdx) (b : Block) (front back : List HoldEntry) (h : HoldEntry), s.hold = front ++ h :: back →
    (∀ x ∈ front, ¬(x.req.block = b ∧ x.ready = false)) → h.req.block = b → h.ready = false →
    s.handOff i b = State.startHeld { s with hold := front ++ back } i h.req) ∧
  (∀ (s : State) (i : TTIdx), s.entry i = none → (∀ j, j < i → s.entry j ≠ none) →
    (∀ front back h, s.hold = front ++ h :: back → (∀ x ∈ front, x.ready = false) → h.ready = true →
      s.allocStep = some (State.startHeld { s with hold := (front ++ back).map fun x =>
        if x.req.block = h.req.block then { x with ready := false } else x } i h.req)) ∧
    ((∀ x ∈ s.hold, x.ready = false) → ∀ k w, s.sweepClaim = some (k, w) → s.allocStep = some (s.grantSweep i k w)) ∧
    ((∀ x ∈ s.hold, x.ready = false) → s.sweepClaim = none → ∀ c, s.agent = .waiting c → s.claimed c.block = false →
      (s.tracked c.block = true → s.allocStep =
        some (State.startReclaim { s with agent := .reclaiming c i } i .control c.block)) ∧
      (s.tracked c.block = false → s.allocStep = some (s.reply c.sender c.tag .ok [0#32]))) ∧
    ((∀ x ∈ s.hold, x.ready = false) → s.sweepClaim = none → s.agentClaim = none → s.allocStep = none)) ∧
  (∀ s : State, (∀ i, s.entry i ≠ none) → s.allocStep = none) ∧
  (∀ (s : State) (i : TTIdx) (q : Request),
    (∀ l, s.regionCheck q.node q.kind q.block = .pass l →
      s.startHeld i q = s.startEntry i (.ofRequest q .hold (some l))) ∧
    (∀ r, s.regionCheck q.node q.kind q.block = .fail r →
      ∃ e, (s.startHeld i q).entry i = some e ∧ e.phase = .responding ∧ e.verdict = some r ∧ e.block = q.block ∧
        e.requester = some (q.node, q.tag) ∧ e.changed = false)) ∧
  (∀ (s : State) (i : TTIdx) (e : TTEntry) (ds : DirSet), s.DirectoryCanonical → ds = s.dirSet (setOf e.block) →
    s.entry i = some e → e.memOp = none → e.phase = .responding → e.opened = true → e.held = [] →
    ∃ u : State, s.entryStep i = some (u.handOff i e.block) ∧
      (∀ k, k ≠ setOf e.block → u.dirSet k = s.dirSet k) ∧
      (∀ w c, ds.way w = .reserved i c → (∀ v, v < w → ∀ d, ds.way v ≠ .reserved i d) →
        u.dirSet (setOf e.block) = ds.setWay w .empty) ∧
      ((∀ w c, ds.way w ≠ .reserved i c) → u.dirSet (setOf e.block) = ds) ∧
      (e.victim = none → u.hold = s.hold) ∧
      (∀ v, e.victim = some v →
        u.hold = s.hold.map fun h => if h.req.block = v.entry.block then { h with ready := true } else h) ∧
      u.jobs = (s.tellWalk i e).jobs ∧ u.tt = s.tt ∧ u.nodes = s.nodes ∧ u.regions = s.regions ∧ u.slots = s.slots ∧
      u.wb = s.wb ∧ u.mp0 = s.mp0 ∧ u.mp1 = s.mp1 ∧
      ((∀ c, s.agent ≠ .reclaiming c i) → u.ports = s.ports ∧ u.agent = s.agent) ∧
      (∀ c, s.agent = .reclaiming c i → ∃ a, a = s.replies ⟨c.sender, c.tag, 0#8, []⟩ .ok
        [BitVec.ofNat 32 (2 + 256 * i.val + if e.reclaimed = true then 1 else 0)] ∧ u.ports = a.ports ∧ u.agent = a.agent))

/-! ## The Region Map -/

/-- R22: the records that are not CLOSED are looked up first, then the CLOSED ones, of which the lowest-numbered that
contains the block gives the result; a region that is not CLOSED gives its memory port and the block's address (R23). -/
def Obligations.RegionLookup : Prop :=
  ∀ (s : State) (b : Block) (has : RegionIdx → Prop),
    (∀ r, has r ↔ (s.region r).base.toNat ≤ b.toNat ∧ b.toNat < (s.region r).base.toNat + (s.region r).count) →
    (∀ r, (s.region r).state ≠ .closed → has r → (∀ q, q ≠ r → (s.region q).state ≠ .closed → ¬has q) →
      s.mapLookup b = .region ⟨r, (s.region r).port,
        BitVec.ofNat 34 ((s.region r).memBase.toNat + (b.toNat - (s.region r).base.toNat))⟩ (s.region r).state) ∧
    (∀ r, (∀ q, (s.region q).state ≠ .closed → ¬has q) → has r → (∀ q, q < r → ¬has q) →
      s.mapLookup b = .closedRegion r) ∧
    ((∀ q, ¬has q) → s.mapLookup b = .noRegion)

/-- R17, R59, R60, R73, R74, R102, R108, R109, R112, R147, R152, R180: what the names by which the other statements read
the state stand for: the records by their numbers, the arguments of a command and the codes of its memory port (12 section
12.3), the sets of nodes, the ways of a set, the claimant of a block and its role, the recall set, the data, the open
member and the recorded owner of a role, the lowest free entry and place (R60; log entry 17 for the place), the claimants
of the allocator, the running job, the checks of a request in the Region Map, the writes of a memory address, reachability,
and when a deadline is reached (MODEL's reading, log entry 7). -/
def Obligations.NamesOfTheState : Prop :=
  (∀ (c : ControlReq), (∀ k w, c.args[k]? = some w → c.arg k = w) ∧ c.index = (c.arg 0).toNat % 256 ∧
    c.mode = (c.arg 0).toNat / 256 % 16) ∧
  (portCodeOf .mp0 = 0 ∧ portCodeOf .mp1 = 1) ∧
  (∀ (s : State) (n : NodeId) (r : RegionIdx) (i : TTIdx) (w : WBIdx), s.port n = s.ports[n] ∧ s.node n = s.nodes[n] ∧
    s.region r = s.regions[r] ∧ s.ttSlot i = s.tt[i] ∧ s.entry i = (s.tt[i]).work ∧ s.wbEntry w = s.wb[w] ∧
    s.mp .mp0 = s.mp0 ∧ s.mp .mp1 = s.mp1 ∧ (s.port n).credits .request = (s.port n).requestCredits ∧
    (s.port n).credits .ret = (s.port n).returnCredits ∧
    (s.slot .node, s.slot .memory, s.slot .dataLoss, s.slot .directory) = (s.slots[0], s.slots[1], s.slots[2], s.slots[3])) ∧
  (∀ x : NodeState, x.counted = true ↔ x = .active ∨ x = .quiescing) ∧
  (∀ s : State, s.running = true ↔ s.resetAsserted = false ∧ s.powerGood = true) ∧
  (∀ (hs : NodeSet) (n m : NodeId), hs.has n = hs.getLsbD n.val ∧ ((hs.add n).has m = true ↔ hs.has m = true ∨ m = n) ∧
    ((hs.del n).has m = true ↔ hs.has m = true ∧ m ≠ n) ∧ ((NodeSet.only n).has m = true ↔ m = n)) ∧
  (allNodes = [0, 1, 2, 3, 4, 5, 6, 7] ∧ ∀ (o : NodeId) (hs : NodeSet), (Rights.owned o).holders = NodeSet.only o ∧
    (Rights.shared hs).holders = hs ∧ (Rights.owned o).owner = some o ∧ (Rights.shared hs).owner = none) ∧
  (∀ (x : Region) (b : Block), x.contains b = true ↔ x.base.toNat ≤ b.toNat ∧ b.toNat < x.base.toNat + x.count) ∧
  (∀ (ds : DirSet) (b : Block) (i : TTIdx) (w : WayIdx) (e : DirEntry), (setOf b).val = b.toNat % 2048 ∧
    ds.way w = ds.ways[w] ∧
    (ds.findHeld b = some (w, e) ↔ ds.way w = .held e ∧ e.block = b ∧ ∀ v, v < w → ∀ f, ds.way v = .held f → f.block ≠ b) ∧
    (ds.findReserved i = some w ↔ (∃ c, ds.way w = .reserved i c) ∧ ∀ v, v < w → ∀ c, ds.way v ≠ .reserved i c)) ∧
  (∀ (s : State) (b : Block) (e : DirEntry), s.dirEntry b = some e ↔ ∃ w, (s.dirSet (setOf b)).findHeld b = some (w, e)) ∧
  (∀ (p : MemPort) (a : MemAddr) (o : OpOwner), p.writesAt a = p.writes.filter (fun w => w.addr == a) ∧
    p.newest a = (p.writesAt a).getLast? ∧ ∀ w, p.writeOf o = some w ↔
      ∃ front back, p.writes = front ++ w :: back ∧ w.owner = o ∧ ∀ x ∈ front, x.owner ≠ o) ∧
  (∀ (got : Vector (Option Beat) 4), (∀ k : Fin 4, (gotSet got).getLsbD k.val = (got[k]).isSome) ∧
    gotCount got = ([0, 1, 2, 3] : List (Fin 4)).countP fun k => (got[k]).isSome) ∧
  (∀ (i : TTIdx) (r : Role) (g : WBIdx), (OpOwner.tt i r).ttIndex = some i ∧ (OpOwner.wb g).ttIndex = none) ∧
  (∀ (e : TTEntry) (n : NodeId) (m : Member), (e.requestedBy n = true ↔ ∃ tag, e.requester = some (n, tag)) ∧
    (m.resolved = true ↔ m.resolution ≠ none)) ∧
  (∀ (e : TTEntry) (b : Block), (e.claims b = some .primary ↔ e.block = b) ∧
    (e.claims b = some .victim ↔ e.block ≠ b ∧ ∃ v, e.victim = some v ∧ v.entry.block = b)) ∧
  (∀ (s : State) (b : Block) (i : TTIdx) (r : Role), s.claimant b = some (i, r) ↔
    (∃ e, s.entry i = some e ∧ e.claims b = some r) ∧ ∀ j, j < i → ∀ e, s.entry j = some e → e.claims b = none) ∧
  (∀ (s : State) (b : Block), s.claimed b = true ↔ ∃ i e r, s.entry i = some e ∧ e.claims b = some r) ∧
  (∀ (e : TTEntry) (v : Victim), e.recallsOf .primary = e.recalls ∧ e.bufferOf .primary = e.buffer ∧
    e.locOf .primary = e.loc ∧ e.blockOf .primary = some e.block ∧
    (e.repairs .primary = true ↔ e.phase = .repairing) ∧
    (∀ o, e.ownerOf .primary = some o ↔ ∃ w d, e.lookup = some (.held w d) ∧ d.rights = .owned o) ∧
    (e.victim = some v → e.recallsOf .victim = v.recalls ∧ e.bufferOf .victim = v.buffer ∧ e.locOf .victim = v.loc ∧
      e.blockOf .victim = some v.entry.block ∧ (e.repairs .victim = v.entry.failed) ∧
      ∀ o, e.ownerOf .victim = some o ↔ v.entry.rights = .owned o)) ∧
  (∀ (e : TTEntry) (r : Role) (n : NodeId) (m : Member), e.openMember r n = some m ↔
    ∃ front back, e.recallsOf r = front ++ m :: back ∧ m.node = n ∧ m.resolution = none ∧
      ∀ x ∈ front, ¬(x.node = n ∧ x.resolution = none)) ∧
  (∀ (s : State) (n : NodeId) (b : Block) (i : TTIdx) (r : Role) (e : TTEntry) (m : Member),
    s.memberOf n b = some (i, r, e, m) ↔ s.claimant b = some (i, r) ∧ s.entry i = some e ∧ e.openMember r n = some m) ∧
  (∀ (s : State) (i : TTIdx), s.freeTT = some i ↔ s.entry i = none ∧ ∀ j, j < i → s.entry j ≠ none) ∧
  (∀ (s : State) (w : WBIdx), s.freeWB = some w ↔ s.wbEntry w = none ∧ ∀ v, v < w → s.wbEntry v ≠ none) ∧
  (∀ (s : State) (k : JobKind) (w : Walk), s.sweepClaim = some (k, w) ↔
    s.runningJob = some ⟨k, .walking w⟩ ∧ w.wants = true) ∧
  (∀ (s : State) (c : ReclaimCmd), s.agentClaim = some c ↔ s.agent = .waiting c ∧ s.claimed c.block = false) ∧
  (∀ (s : State) (j : Job), s.runningJob = some j ↔
    ∃ front back, s.jobs = front ++ j :: back ∧ (j.phase = .draining ∨ ∃ w, j.phase = .walking w) ∧
      ∀ x ∈ front, x.phase ≠ .draining ∧ ∀ w, x.phase ≠ .walking w) ∧
  (∀ s : State, s.reachable = true ↔ (s.port s.noticeNode).link = .up ∧ (s.node s.noticeNode).state ≠ .fenced) ∧
  (∀ (s : State) (d : Time), s.reached d = true ↔ (s.timeBase - d).toNat < 2 ^ 31) ∧
  (∀ (s : State) (i : TTIdx) (r : Role) (g : WBIdx), s.opBlock (.tt i r) = (s.entry i).bind (·.blockOf r) ∧
    s.opBlock (.wb g) = (s.wbEntry g).map (·.block) ∧ s.opWriter (.tt i r) = none ∧
    s.opWriter (.wb g) = (s.wbEntry g).map (·.writer)) ∧
  (∀ (s : State) (n : NodeId) (k : ReqKind) (b : Block),
    (s.mapLookup b = .noRegion → s.regionCheck n k b = .fail .noRegion) ∧
    (∀ r, s.mapLookup b = .closedRegion r → s.regionCheck n k b = .fail .regionClosed) ∧
    (∀ l, s.mapLookup b = .region l .closing → s.regionCheck n k b = .fail .regionClosed) ∧
    (∀ l, s.mapLookup b = .region l .untracked → (k = .fetchS ∨ k = .fetchX ∨ k = .upgrade) →
      s.regionCheck n k b = .fail .notTracked) ∧
    (∀ l st, s.mapLookup b = .region l st →
      (st = .coherent ∨ st = .untracked ∧ (k = .readOnce ∨ k = .writeThru)) →
      s.regionCheck n k b = if (if k = .fetchS ∨ k = .readOnce then (s.region l.region).readSet
        else (s.region l.region).writeSet).has n = true then .pass l else .fail .notPermitted))

/-- R32: WRITE_REGION replaces every field of a CLOSED record but its state, all at once, after its checks in their
order; the first that fails gives the reply. -/
def Obligations.WriteRegion : Prop :=
  ∀ (s : State) (c : ControlReq) (rest : List ControlReq) (base count mem : Nat), AgentTakes s 0x09#8 5 c rest →
    base = (c.arg 2).toNat % 256 * 2 ^ 32 + (c.arg 1).toNat →
    count = (c.arg 2).toNat / 256 % 256 * 2 ^ 32 + (c.arg 3).toNat →
    mem = (c.arg 2).toNat / 65536 % 256 * 2 ^ 32 + (c.arg 4).toNat →
    (15 < (c.arg 0).toNat % 256 → exec .writeRegion s = .next ((s.taking rest).replies c .badArgument [])) ∧
    ∀ r : RegionIdx, (c.arg 0).toNat % 256 = r.val →
      ((s.region r).state ≠ .closed → exec .writeRegion s = .next ((s.taking rest).replies c .badState [])) ∧
      ((s.region r).state = .closed →
        (count = 0 ∨ 2 ^ 34 < count ∨ 2 ^ 34 < base + count ∨ 2 ^ 34 < mem + count ∨
            1 < (c.arg 0).toNat / 256 % 16 ∨ 1 < (c.arg 0).toNat / 4096 % 16 →
          exec .writeRegion s = .next ((s.taking rest).replies c .badArgument [])) ∧
        (1 ≤ count → count ≤ 2 ^ 34 → base + count ≤ 2 ^ 34 → mem + count ≤ 2 ^ 34 →
          (c.arg 0).toNat / 256 % 16 ≤ 1 → (c.arg 0).toNat / 4096 % 16 ≤ 1 →
          exec .writeRegion s = .next (((s.taking rest).modRegion r fun _ =>
            { state := .closed
              base := BitVec.ofNat 34 base
              count := count
              port := if (c.arg 0).toNat / 256 % 16 = 0 then .mp0 else .mp1
              memBase := BitVec.ofNat 34 mem
              readSet := BitVec.ofNat 8 ((c.arg 0).toNat / 65536)
              writeSet := BitVec.ofNat 8 ((c.arg 0).toNat / 16777216)
              policy := if (c.arg 0).toNat / 4096 % 16 = 0 then .deliver else .refuse }).replies c .ok [])))

/-- R33, R34: OPEN_REGION opens a CLOSED record that shares no block and no memory address with a region that is not
CLOSED; CLOSE_REGION makes a COHERENT or UNTRACKED region CLOSING and places its job, one non-fence job at a time. -/
def Obligations.OpenAndCloseRegion : Prop :=
  (∀ (s : State) (c : ControlReq) (rest : List ControlReq), AgentTakes s 0x0A#8 1 c rest →
    (15 < c.index ∨ (c.mode ≠ 1 ∧ c.mode ≠ 2) →
      exec .openRegion s = .next ((s.taking rest).replies c .badArgument [])) ∧
    (∀ r : RegionIdx, c.index = r.val → (c.mode = 1 ∨ c.mode = 2) →
      ((s.region r).state ≠ .closed ∨ (s.region r).count = 0 ∨
          (∃ q, q ≠ r ∧ (s.region q).state ≠ .closed ∧ ∃ a : Nat,
            (s.region r).base.toNat ≤ a ∧ a < (s.region r).base.toNat + (s.region r).count ∧
            (s.region q).base.toNat ≤ a ∧ a < (s.region q).base.toNat + (s.region q).count) ∨
          (∃ q, q ≠ r ∧ (s.region q).state ≠ .closed ∧ (s.region q).port = (s.region r).port ∧ ∃ a,
            (s.region r).stores a ∧ (s.region q).stores a) →
        exec .openRegion s = .next ((s.taking rest).replies c .badState [])) ∧
      ((s.region r).state = .closed → 1 ≤ (s.region r).count →
        (∀ q, q ≠ r → (s.region q).state ≠ .closed →
          (∀ a : Nat, ¬((s.region r).base.toNat ≤ a ∧ a < (s.region r).base.toNat + (s.region r).count ∧
            (s.region q).base.toNat ≤ a ∧ a < (s.region q).base.toNat + (s.region q).count)) ∧
          ((s.region q).port = (s.region r).port → ∀ a, ¬((s.region r).stores a ∧ (s.region q).stores a))) →
        exec .openRegion s = .next (((s.taking rest).modRegion r fun x =>
          { x with state := if c.mode = 1 then .coherent else .untracked }).replies c .ok [])))) ∧
  (∀ (s : State) (c : ControlReq) (rest : List ControlReq), AgentTakes s 0x0B#8 1 c rest →
    (15 < c.index → exec .closeRegion s = .next ((s.taking rest).replies c .badArgument []).settle) ∧
    (∀ r : RegionIdx, c.index = r.val →
      ((s.region r).state = .closed ∨ (s.region r).state = .closing →
        exec .closeRegion s = .next ((s.taking rest).replies c .badState []).settle) ∧
      ((s.region r).state = .coherent ∨ (s.region r).state = .untracked →
        ((∃ j ∈ s.jobs, ∀ n, j.kind ≠ .fenceNode n) →
          exec .closeRegion s = .next ((s.taking rest).replies c .busy []).settle) ∧
        ((∀ j ∈ s.jobs, ∃ n, j.kind = .fenceNode n) →
          exec .closeRegion s = .next (State.replies
            { (s.taking rest).modRegion r (fun x => { x with state := .closing }) with
              jobs := s.jobs ++ [⟨.closeRegion r ((s.region r).state == .untracked), .queued⟩] } c .accepted []).settle))))

/-! ## The Management Agent -/

/-- R176 to R178: the agent takes the head of the Control Queue when it is READY; a code that names no command is
answered BAD_COMMAND and a wrong number of arguments BAD_ARGUMENT; a reply is queued to its sender, or discarded when the
sender is FENCED. A command that is not at the head changes nothing (MODEL's choice, log entry 2), and the GENERAL row
answers a READ_STATUS of the wrong number of arguments (MODEL's choice, log entry 18). -/
def Obligations.AgentTakesTheHead : Prop :=
  (∀ (i : Instr) (k : BitVec 8) (count : Nat) (s : State), i.command = some (k, count) → s.running = true →
    (s.agent ≠ .ready ∨ s.controlQ = [] ∨ ∃ c rest, s.controlQ = c :: rest ∧ c.code ≠ k) →
    exec i s = .next s.beginStep) ∧
  (∀ (i : Instr) (k : BitVec 8) (count : Nat) (s : State) (c : ControlReq) (rest : List ControlReq),
    i.command = some (k, count) → i ≠ .readStatusJobs → s.running = true → s.agent = .ready → s.controlQ = c :: rest →
    c.code = k → c.args.length ≠ count → exec i s = .next ((s.taking rest).replies c .badArgument [])) ∧
  (∀ (s : State) (c : ControlReq) (rest : List ControlReq), s.running = true → s.agent = .ready →
    s.controlQ = c :: rest →
    ((∀ i k count, Instr.command i = some (k, count) → c.code ≠ k) →
      exec .badCommandCode s = .next ((s.taking rest).replies c .badCommand [])) ∧
    ((∃ i k count, Instr.command i = some (k, count) ∧ c.code = k) → exec .badCommandCode s = .next s.beginStep)) ∧
  (∀ (s : State) (c : ControlReq) (st : Status) (results : List Word),
    ((s.node c.sender).state = .fenced → s.replies c st results = { s with agent := .ready }) ∧
    ((s.node c.sender).state ≠ .fenced → s.replies c st results = { s.modPort c.sender (fun p =>
      { p with outbound := p.outbound ++ [⟨.controlReply c.tag st results, .agent⟩] }) with agent := .replyPending }))

/-- R31, R146, R172, R179, R182, R183: the commands that read answer OK with what they read and change nothing but the
agent and its reply; an index that names nothing is answered BAD_ARGUMENT. The words are those of the statement behind
this one. That the GENERAL row answers a READ_STATUS of no part is the model's choice (log entry 18). -/
def Obligations.ReadCommands : Prop :=
  (∀ (s : State) (c : ControlReq) (rest : List ControlReq), AgentTakes s 0x01#8 1 c rest →
    (7 < c.index → exec .readNode s = .next ((s.taking rest).replies c .badArgument [])) ∧
    (∀ n : NodeId, c.index = n.val →
      exec .readNode s = .next ((s.taking rest).replies c .ok (nodeWords (s.port n).link (s.node n))))) ∧
  (∀ (s : State) (c : ControlReq) (rest : List ControlReq), AgentTakes s 0x08#8 1 c rest →
    (15 < c.index → exec .readRegion s = .next ((s.taking rest).replies c .badArgument [])) ∧
    (∀ r : RegionIdx, c.index = r.val →
      exec .readRegion s = .next ((s.taking rest).replies c .ok (regionWords r (s.region r))))) ∧
  (∀ (s : State) (c : ControlReq) (rest : List ControlReq), AgentTakes s 0x0C#8 2 c rest →
    (2 ^ 34 ≤ (c.arg 1).toNat % 256 * 2 ^ 32 + (c.arg 0).toNat →
      exec .probeBlock s = .next ((s.taking rest).replies c .badArgument [])) ∧
    (∀ b : Block, b.toNat = (c.arg 1).toNat % 256 * 2 ^ 32 + (c.arg 0).toNat →
      exec .probeBlock s = .next ((s.taking rest).replies c .ok [s.probeHolding b, s.probeClaim b]))) ∧
  (∀ (s : State) (c : ControlReq) (rest : List ControlReq), AgentTakes s 0x0E#8 1 c rest →
    (3 < c.index → exec .readCapture s = .next ((s.taking rest).replies c .badArgument [])) ∧
    (∀ k : CaptureClass, c.index = k.index.val →
      exec .readCapture s = .next ((s.taking rest).replies c .ok (slotWords (s.slot k))))) ∧
  (∀ (s : State) (c : ControlReq) (rest : List ControlReq), AgentTakes s 0x10#8 1 c rest →
    (c.index = 0 → exec .readStatusGeneral s = .next ((s.taking rest).replies c .ok (s.taking rest).generalWords)) ∧
    (1 < c.index → exec .readStatusGeneral s = .next ((s.taking rest).replies c .badArgument [])) ∧
    (c.index = 1 → exec .readStatusJobs s = .next ((s.taking rest).replies c .ok (jobWords s.jobs))))

/-- R31, R99, R146, R162, R172, R173, R179, R182, R183 and the layouts of 12 section 12.3: the fields of every result word. A
field that is absent reads zero (MODEL's reading, log entry 10), and the presence bits of READ_CAPTURE stand in the order of
the fields behind them (MODEL's reading, log entry 11). -/
def Obligations.ResultWords : Prop :=
  (∀ (l : LinkState) (r : NodeRec), ∃ w : Word, nodeWords l r = [w] ∧ w.extractLsb' 0 2 = BitVec.ofNat 2 r.state.code ∧
    w.getLsbD 2 = (l == .up) ∧ w.getLsbD 3 = r.manager ∧ w.extractLsb' 4 2 = BitVec.ofNat 2 (fenceReasonCode r.fenceReason) ∧
    w.getLsbD 6 = r.fenceJob ∧ w.extractLsb' 16 12 = r.recallTimeout) ∧
  (∀ (i : RegionIdx) (r : Region), r.count ≤ 2 ^ 34 → ∃ w0 w2 : Word,
    regionWords i r = [w0, r.base.extractLsb' 0 32, w2, BitVec.ofNat 32 r.count, r.memBase.extractLsb' 0 32] ∧
    w0.extractLsb' 0 8 = BitVec.ofNat 8 i.val ∧ w0.extractLsb' 8 4 = (if r.port = .mp0 then 0#4 else 1#4) ∧
    w0.extractLsb' 12 4 = (if r.policy = .deliver then 0#4 else 1#4) ∧ w0.extractLsb' 16 8 = r.readSet ∧
    w0.extractLsb' 24 8 = r.writeSet ∧ w2.extractLsb' 0 8 = BitVec.ofNat 8 (r.base.toNat / 2 ^ 32) ∧
    w2.extractLsb' 8 8 = BitVec.ofNat 8 (r.count / 2 ^ 32) ∧
    w2.extractLsb' 16 8 = BitVec.ofNat 8 (r.memBase.toNat / 2 ^ 32) ∧ w2.extractLsb' 24 4 = BitVec.ofNat 4 r.state.code) ∧
  (∀ (s : State) (b : Block) (ds : DirSet), ds = s.dirSet (setOf b) →
    (∀ v e, ds.findHeld b = some (v, e) →
      (s.probeHolding b).extractLsb' 0 2 = 1#2 ∧ (s.probeHolding b).getLsbD 2 = e.rights.owner.isSome ∧
      (s.probeHolding b).getLsbD 3 = e.failed ∧ (s.probeHolding b).extractLsb' 4 3 = BitVec.ofNat 3 v.val ∧
      (∀ o, e.rights = .owned o → (s.probeHolding b).extractLsb' 8 3 = BitVec.ofNat 3 o.val ∧
        (s.probeHolding b).extractLsb' 16 8 = 1#8 <<< o.val) ∧
      (∀ hs, e.rights = .shared hs → (s.probeHolding b).extractLsb' 8 3 = 0#3 ∧
        (s.probeHolding b).extractLsb' 16 8 = hs) ∧
      (∀ front back, ds.recency = front ++ v :: back → v ∉ front →
        (s.probeHolding b).extractLsb' 24 4 = BitVec.ofNat 4 (front.length + 1))) ∧
    (∀ v i, ds.findHeld b = none → ds.way v = .reserved i b → (∀ u, u < v → ∀ j, ds.way u ≠ .reserved j b) →
      s.probeHolding b = BitVec.ofNat 32 (2 + 16 * v.val)) ∧
    (ds.findHeld b = none → (∀ v j, ds.way v ≠ .reserved j b) → s.probeHolding b = 0#32) ∧
    (s.probeClaim b).extractLsb' 0 11 = BitVec.ofNat 11 (b.toNat % 2048) ∧
    (s.claimant b = none → (s.probeClaim b).extractLsb' 12 2 = 0#2 ∧ (s.probeClaim b).extractLsb' 16 6 = 0#6) ∧
    (∀ i, (s.claimant b = some (i, .primary) → (s.probeClaim b).extractLsb' 12 2 = 1#2 ∧
        (s.probeClaim b).extractLsb' 16 6 = BitVec.ofNat 6 i.val) ∧
      (s.claimant b = some (i, .victim) → (s.probeClaim b).extractLsb' 12 2 = 2#2 ∧
        (s.probeClaim b).extractLsb' 16 6 = BitVec.ofNat 6 i.val))) ∧
  (∀ t : CaptureSlot, t.record = none →
    slotWords t = [if t.outstanding = true then BitVec.ofNat 32 (2 ^ 24) else 0#32, 0#32, 0#32, 0#32]) ∧
  (∀ (t : CaptureSlot) (r : CaptureRecord), t.record = some r → ∃ w0 w1 w2 : Word, slotWords t = [w0, w1, w2, r.stamp] ∧
    (w0.getLsbD 0 = true ∧ w0.extractLsb' 2 2 = BitVec.ofNat 2 r.reason.cls.index.val ∧
      w0.extractLsb' 4 4 = BitVec.ofNat 4 r.reason.code ∧ w0.getLsbD 8 = (r.reason.severity == .dataLost) ∧
      w0.getLsbD 9 = t.escalated ∧ (∀ x, t.escalationReason = some x → w0.extractLsb' 12 4 = BitVec.ofNat 4 x.code) ∧
      (t.escalationReason = none → w0.extractLsb' 12 4 = 0#4) ∧ w0.extractLsb' 16 4 = t.overflow ∧
      w0.extractLsb' 20 2 = BitVec.ofNat 2 t.lockNotice.code ∧
      w0.extractLsb' 22 2 = BitVec.ofNat 2 t.escalationNotice.code ∧ w0.getLsbD 24 = t.outstanding) ∧
    (w1.getLsbD 0 = r.node.isSome ∧ w1.getLsbD 1 = r.block.isSome ∧ w1.getLsbD 2 = r.mem.isSome ∧
      w1.getLsbD 3 = r.tt.isSome ∧ w1.getLsbD 4 = r.beats.isSome ∧
      (∀ n, r.node = some n → w1.extractLsb' 8 3 = BitVec.ofNat 3 n.val) ∧
      (∀ p g, r.mem = some (p, g) → w1.getLsbD 11 = (p == .mp1) ∧ w1.extractLsb' 12 4 = BitVec.ofNat 4 g.val) ∧
      (∀ i, r.tt = some i → w1.extractLsb' 16 6 = BitVec.ofNat 6 i.val) ∧
      (∀ k, r.beats = some k → w1.extractLsb' 24 3 = BitVec.ofNat 3 k.val) ∧
      (∀ b, r.block = some b → w1.extractLsb' 28 2 = b.extractLsb' 32 2 ∧ w2 = b.extractLsb' 0 32)) ∧
    ((r.node = none → w1.extractLsb' 8 3 = 0#3) ∧ (r.mem = none → w1.extractLsb' 11 5 = 0#5) ∧
      (r.tt = none → w1.extractLsb' 16 6 = 0#6) ∧ (r.beats = none → w1.extractLsb' 24 3 = 0#3) ∧
      (r.block = none → w1.extractLsb' 28 2 = 0#2 ∧ w2 = 0#32))) ∧
  (∀ s : State, s.hold.length ≤ 32 → s.controlQ.length ≤ 4 → ∃ w0 w1 w4 : Word,
    s.generalWords = [w0, w1, s.timeBase, s.mp0.statusWord, w4, s.mp1.statusWord] ∧
    w0.extractLsb' 0 8 = BitVec.ofNat 8 (allTT.countP fun i => (s.entry i).isSome) ∧
    w0.extractLsb' 8 8 = BitVec.ofNat 8 s.hold.length ∧ w0.extractLsb' 16 8 = BitVec.ofNat 8 (s.hold.countP (·.ready)) ∧
    w0.extractLsb' 24 4 = BitVec.ofNat 4 (allNodes.countP fun w => (s.wbEntry w).isSome) ∧
    w0.extractLsb' 28 4 = BitVec.ofNat 4 s.controlQ.length ∧
    (∀ n : NodeId, w1.extractLsb' (2 * n.val) 2 = BitVec.ofNat 2 (s.node n).state.code ∧
      w1.getLsbD (16 + n.val) = ((s.port n).link == .up)) ∧ w1.extractLsb' 24 3 = BitVec.ofNat 3 s.noticeNode.val ∧
    w4.extractLsb' 0 16 = s.mp0.timeout.zeroExtend 16 ∧ w4.extractLsb' 16 16 = s.mp1.timeout.zeroExtend 16) ∧
  (∀ p : MemPort, p.issueQ.length ≤ 56 →
    p.statusWord.extractLsb' 0 8 = BitVec.ofNat 8 p.issueQ.length ∧
    p.statusWord.extractLsb' 8 8 = BitVec.ofNat 8 (p.tags.toList.countP fun x => match x with
      | .inFlight _ _ _ => true
      | _ => false) ∧
    p.statusWord.extractLsb' 16 8 = BitVec.ofNat 8 (p.tags.toList.countP fun x => match x with
      | .stale _ _ => true
      | _ => false)) ∧
  (∀ js : List Job, js.length ≤ 9 → ∃ (w0 : Word) (half : Nat → BitVec 16) (ws : List Word), jobWords js = w0 :: ws ∧
    ws.length = 5 ∧ w0.extractLsb' 0 4 = BitVec.ofNat 4 js.length ∧
    (∀ front back j w, js = front ++ j :: back → (∀ x ∈ front, ∀ y, x.phase ≠ .walking y) → j.phase = .walking w →
      w0.extractLsb' 16 11 = BitVec.ofNat 11 w.pos.val) ∧
    ((∀ j ∈ js, ∀ w, j.phase ≠ .walking w) → w0.extractLsb' 16 11 = 0#11) ∧
    (∀ k x, k < 5 → ws[k]? = some x → x.extractLsb' 0 16 = half (2 * k) ∧ x.extractLsb' 16 16 = half (2 * k + 1)) ∧
    (∀ k, js.length ≤ k → half k = 0#16) ∧
    (∀ k j, js[k]? = some j →
      (half k).extractLsb' 0 2 = BitVec.ofNat 2 j.kind.code ∧ (half k).extractLsb' 2 4 = BitVec.ofNat 4 j.kind.target ∧
      (half k).extractLsb' 6 2 = BitVec.ofNat 2 j.phase.code ∧
      (∀ o x, j.phase = .done o x →
        (half k).getLsbD 8 = (o == .abandoned) ∧ (half k).getLsbD 9 = (x == .queued)) ∧
      ((∀ o x, j.phase ≠ .done o x) → (half k).extractLsb' 8 2 = 0#2))) ∧
  (∀ (x : Bool) (i : TTIdx),
    reclaimWord x (some i) = BitVec.ofNat 32 (2 + 256 * i.val + if x = true then 1 else 0) ∧
    reclaimWord x none = BitVec.ofNat 32 (if x = true then 1 else 0)) ∧
  ((NodeState.offline.code, NodeState.active.code, NodeState.quiescing.code, NodeState.fenced.code) = (0, 1, 2, 3) ∧
    (RegionState.closed.code, RegionState.coherent.code, RegionState.untracked.code, RegionState.closing.code) =
      (0, 1, 2, 3) ∧
    (fenceReasonCode none, fenceReasonCode (some .control), fenceReasonCode (some .recallTimeout),
      fenceReasonCode (some .linkLost)) = (0, 1, 2, 3) ∧
    (NoticeState.none.code, NoticeState.pending.code, NoticeState.queued.code, NoticeState.delivered.code) = (0, 1, 2, 3) ∧
    (∀ r u n w o x, (JobKind.closeRegion r u).code = 0 ∧ (JobKind.quiesceNode n).code = 1 ∧ (JobKind.fenceNode n).code = 2 ∧
      (JobKind.closeRegion r u).target = r.val ∧ (JobKind.quiesceNode n).target = n.val ∧
      (JobKind.fenceNode n).target = n.val ∧ JobPhase.queued.code = 0 ∧ JobPhase.draining.code = 1 ∧
      (JobPhase.walking w).code = 2 ∧ (JobPhase.done o x).code = 3) ∧
    (allClasses.map fun k => k.index.val) = [0, 1, 2, 3])

/-- R6, R138, R139, R141, R142, R144, R146, R147: WRITE_NODE replaces a node's manager flag and recall timeout at once;
ADMIT_NODE makes an OFFLINE node whose link is UP ACTIVE, with empty inboxes and full credits, which go out on the link;
RELEASE_NODE makes a FENCED node without a fence job OFFLINE, keeping its fence reason, and SET_NOTICE_NODE names the
notice node; each of these two lets the pending notices be queued, behind its reply (MODEL's order, log entry 16).
QUIESCE_NODE makes an ACTIVE node QUIESCING and places its job, one non-fence job at a time; FENCE_NODE fences an ACTIVE or
QUIESCING node with reason CONTROL, its reply queued after the fence (MODEL's reading, log entry 16). -/
def Obligations.NodeCommands : Prop :=
  (∀ (s : State) (c : ControlReq) (rest : List ControlReq) (t : Nat), AgentTakes s 0x02#8 1 c rest →
    t = (c.arg 0).toNat / 65536 →
    (7 < c.index ∨ t = 0 ∨ 4095 < t → exec .writeNode s = .next ((s.taking rest).replies c .badArgument [])) ∧
    (∀ n : NodeId, c.index = n.val → 1 ≤ t → t ≤ 4095 →
      exec .writeNode s = .next (((s.taking rest).modNode n fun r =>
        { r with manager := (c.arg 0).getLsbD 8, recallTimeout := BitVec.ofNat 12 t }).replies c .ok []))) ∧
  (∀ (s : State) (c : ControlReq) (rest : List ControlReq), AgentTakes s 0x03#8 1 c rest →
    (7 < c.index → exec .admitNode s = .next ((s.taking rest).replies c .badArgument [])) ∧
    (∀ n : NodeId, c.index = n.val →
      ((s.node n).state ≠ .offline ∨ (s.port n).link = .down →
        exec .admitNode s = .next ((s.taking rest).replies c .badState [])) ∧
      ((s.node n).state = .offline → (s.port n).link = .up →
        exec .admitNode s = .next (State.replies
          { ((s.taking rest).modNode n (fun r => { r with state := .active, fenceReason := none })).modPort n
              (fun p => { p with requests := [], returns := [], requestCredits := 8, returnCredits := 4 }) with
            out := [.credits n .request 8, .credits n .ret 4] } c .ok [])))) ∧
  (∀ (s : State) (c : ControlReq) (rest : List ControlReq), AgentTakes s 0x06#8 1 c rest →
    (7 < c.index → exec .releaseNode s = .next ((s.taking rest).replies c .badArgument [])) ∧
    (∀ n : NodeId, c.index = n.val →
      ((s.node n).state ≠ .fenced → exec .releaseNode s = .next ((s.taking rest).replies c .badState [])) ∧
      ((s.node n).state = .fenced → (s.node n).fenceJob = true →
        exec .releaseNode s = .next ((s.taking rest).replies c .busy [])) ∧
      ((s.node n).state = .fenced → (s.node n).fenceJob = false →
        exec .releaseNode s = .next
          (((s.taking rest).modNode n fun r => { r with state := .offline }).replies c .ok []).flushNotices))) ∧
  (∀ (s : State) (c : ControlReq) (rest : List ControlReq), AgentTakes s 0x07#8 1 c rest →
    (7 < c.index → exec .setNoticeNode s = .next ((s.taking rest).replies c .badArgument [])) ∧
    (∀ n : NodeId, c.index = n.val →
      exec .setNoticeNode s =
        .next (State.replies { s.taking rest with noticeNode := n } c .ok []).flushNotices)) ∧
  (∀ (s : State) (c : ControlReq) (rest : List ControlReq), AgentTakes s 0x04#8 1 c rest →
    (7 < c.index → exec .quiesceNode s = .next ((s.taking rest).replies c .badArgument []).settle) ∧
    (∀ n : NodeId, c.index = n.val →
      ((s.node n).state ≠ .active →
        exec .quiesceNode s = .next ((s.taking rest).replies c .badState []).settle) ∧
      ((s.node n).state = .active → (∃ j ∈ s.jobs, ∀ k, j.kind ≠ .fenceNode k) →
        exec .quiesceNode s = .next ((s.taking rest).replies c .busy []).settle) ∧
      ((s.node n).state = .active → (∀ j ∈ s.jobs, ∃ k, j.kind = .fenceNode k) →
        exec .quiesceNode s = .next (State.replies
          { (s.taking rest).modNode n (fun r => { r with state := .quiescing }) with
            jobs := s.jobs ++ [⟨.quiesceNode n, .queued⟩] } c .accepted []).settle))) ∧
  (∀ (s : State) (c : ControlReq) (rest : List ControlReq), AgentTakes s 0x05#8 1 c rest →
    (7 < c.index → exec .fenceNode s = .next ((s.taking rest).replies c .badArgument []).settle) ∧
    (∀ n : NodeId, c.index = n.val →
      ((s.node n).state.counted = false →
        exec .fenceNode s = .next ((s.taking rest).replies c .badState []).settle) ∧
      ((s.node n).state.counted = true → ∃ t, exec .fenceNode s = .next t ∧
        t = (((s.taking rest).fence n .control).replies c .accepted []).settle ∧
        t.node n = { s.node n with state := .fenced, fenceReason := some .control, fenceJob := true } ∧
        (t.port n).requests = [] ∧ (t.port n).returns = [] ∧ (t.port n).requestCredits = 0 ∧
        (t.port n).returnCredits = 0)))

/-- R99, R100, R180, R181: RECLAIM_BLOCK for a block of a COHERENT or CLOSING region makes the agent WAITING; for any other
block it is refused. A RECLAIM whose lookup found its entry HELD and GOOD removes it at RESPONDING, and reports RECLAIMED
when there was one left (MODEL's reading, log entry 14); a POISON writes the owner-lost block without a recall, and at
RESPONDING removes its entry and captures the loss. The entry that the agent started for RECLAIM_BLOCK reports as it
retires: the outcome and the TT index, in the reply, which is discarded when the sender is FENCED. -/
def Obligations.ReclaimsAndPoisons : Prop :=
  (∀ (s : State) (c : ControlReq) (rest : List ControlReq), AgentTakes s 0x0D#8 2 c rest →
    (2 ^ 34 ≤ (c.arg 1).toNat % 256 * 2 ^ 32 + (c.arg 0).toNat →
      exec .reclaimBlock s = .next ((s.taking rest).replies c .badArgument []).settle) ∧
    (∀ b : Block, b.toNat = (c.arg 1).toNat % 256 * 2 ^ 32 + (c.arg 0).toNat →
      (((∃ l, s.mapLookup b = .region l .coherent) ∨ ∃ l, s.mapLookup b = .region l .closing) →
        exec .reclaimBlock s =
          .next (State.settle { s.taking rest with agent := .waiting ⟨c.sender, c.tag, b⟩ })) ∧
      ((∀ l, s.mapLookup b ≠ .region l .coherent) → (∀ l, s.mapLookup b ≠ .region l .closing) →
        exec .reclaimBlock s = .next ((s.taking rest).replies c .badState []).settle))) ∧
  (∀ (s : State) (i : TTIdx) (e : TTEntry), s.DirectoryCanonical → s.entry i = some e → e.kind = .reclaim →
    (∀ w d, e.lookup = some (.held w d) → d.failed = false →
      s.Removes (s.respond i e) e.block ∧ (s.respond i e).entry i =
        some { e with reclaimed := decide (s.dirEntry e.block ≠ none), opened := true }) ∧
    ((∀ w d, e.lookup = some (.held w d) → d.failed = true) →
      (s.respond i e).dir = s.dir ∧ (s.respond i e).entry i = some { e with opened := true }) ∧
    ((s.respond i e).ports = s.ports ∧ (s.respond i e).slots = s.slots ∧ (s.respond i e).agent = s.agent)) ∧
  (∀ (s : State) (i : TTIdx) (w : WayIdx) (d : DirEntry) (l : Loc), s.locate d.block = some l →
    (s.startPoison i w d).entry i = some { TTEntry.fresh .poison .sweep none d.block (some l) none with
      lookup := some (.held w d), phase := .writing, changed := true, memOp := some ⟨.write, .primary, none⟩ } ∧
    s.PlacesWrite (s.startPoison i w d) (.tt i .primary) l (Vector.replicate 4 ⟨0#128, true⟩) ∧
    (s.startPoison i w d).ports = s.ports ∧ (s.startPoison i w d).dir = s.dir ∧ (s.startPoison i w d).slots = s.slots) ∧
  (∀ (s : State) (i : TTIdx) (e : TTEntry) (w : WayIdx) (d : DirEntry) (n : NodeId), s.DirectoryCanonical →
    s.entry i = some e → e.kind = .poison → e.lookup = some (.held w d) → d.rights = .owned n →
    s.Removes (s.respond i e) e.block ∧ (s.respond i e).entry i = some { e with opened := true } ∧
    s.HoldsRecord (s.respond i e) ⟨.ownerLost, some n, some e.block, none, none, none, s.timeBase⟩) ∧
  (∀ (s : State) (i : TTIdx) (e : TTEntry), s.entry i = some e → e.memOp = none → e.phase = .responding →
    (e.opened = false → s.entryStep i = some (s.respond i e)) ∧
    (e.opened = true → e.held ≠ [] → s.entryStep i = none) ∧
    (e.opened = true → e.held = [] → ∃ t, s.entryStep i = some t ∧
      (∀ c, s.agent = .reclaiming c i → (s.node c.sender).state ≠ .fenced → t.agent = .replyPending ∧
        s.Queued t c.sender ⟨.controlReply c.tag .ok
          [BitVec.ofNat 32 (2 + 256 * i.val + if e.reclaimed = true then 1 else 0)], .agent⟩) ∧
      (∀ c, s.agent = .reclaiming c i → (s.node c.sender).state = .fenced → t.agent = .ready) ∧
      ((∀ c, s.agent ≠ .reclaiming c i) → t.agent = s.agent)))

/-- R135: SET_MEMORY_TIMEOUT replaces a port's memory timeout; RESET_MEMORY_PORT frees every STALE tag of a port with no
operation in flight and answers how many. -/
def Obligations.MemoryPortCommands : Prop :=
  (∀ (s : State) (c : ControlReq) (rest : List ControlReq) (t : Nat), AgentTakes s 0x11#8 1 c rest →
    t = (c.arg 0).toNat / 65536 →
    (1 < c.index ∨ t = 0 ∨ 4095 < t → exec .setMemoryTimeout s = .next ((s.taking rest).replies c .badArgument [])) ∧
    (∀ p : MPort, c.index = portCodeOf p → 1 ≤ t → t ≤ 4095 →
      exec .setMemoryTimeout s =
        .next (((s.taking rest).modMP p fun x => { x with timeout := BitVec.ofNat 12 t }).replies c .ok []))) ∧
  (∀ (s : State) (c : ControlReq) (rest : List ControlReq), AgentTakes s 0x12#8 1 c rest →
    (1 < c.index → exec .resetMemoryPort s = .next ((s.taking rest).replies c .badArgument [])) ∧
    (∀ p : MPort, c.index = portCodeOf p →
      ((∃ (t : MemTag) (op : MemOp) (d : Time) (got : Vector (Option Beat) 4), (s.mp p).tags[t] = .inFlight op d got) →
        exec .resetMemoryPort s = .next ((s.taking rest).replies c .busy [])) ∧
      ((∀ (t : MemTag) (op : MemOp) (d : Time) (got : Vector (Option Beat) 4), (s.mp p).tags[t] ≠ .inFlight op d got) →
        exec .resetMemoryPort s = .next (((s.taking rest).modMP p fun x =>
          { x with tags := Vector.replicate 16 .free }).replies c .ok
            [BitVec.ofNat 32 ((s.mp p).tags.toList.countP fun x => x != .free)]))))

/-- R21, R149, R184, R185: RESTART is the warm reset: nodes OFFLINE, regions kept but for those CLOSING, queues, entries,
jobs and the Directory emptied, tags in flight STALE, captures kept with their queued notices owed again; then each
port that is UP holds its DISCONNECT, the reply on the issuing port, and the notices on the notice node's port. -/
def Obligations.RestartIsTheWarmReset : Prop :=
  (∀ (s : State) (c : ControlReq) (rest : List ControlReq), AgentTakes s 0x13#8 0 c rest →
      ∃ t, exec .restart s = .next t ∧
        (∀ n, t.node n = { s.node n with state := .offline, fenceReason := none, fenceJob := false }) ∧
        (∀ n, (t.port n).requests = [] ∧ (t.port n).returns = [] ∧ (t.port n).requestCredits = 0 ∧
          (t.port n).returnCredits = 0 ∧ (t.port n).link = (s.port n).link) ∧
        (∀ n, (s.port n).link = .down → (t.port n).outbound = []) ∧
        (∀ n, (s.port n).link = .up → (t.port n).outbound =
          [⟨.disconnect, .nodeManager⟩] ++ (if n = c.sender then [⟨.controlReply c.tag .ok [], .agent⟩] else []) ++
            (if n = s.noticeNode then allClasses.filterMap fun k => (s.slot k).warm.owed k else [])) ∧
        (t.agent = if (s.port c.sender).link = .up then .replyPending else .ready) ∧
        (∀ r, t.region r = { s.region r with state := if (s.region r).state = .closing then .closed else (s.region r).state }) ∧
        (∀ p, (t.mp p).issueQ = [] ∧ (t.mp p).writes = [] ∧ (t.mp p).timeout = (s.mp p).timeout ∧
          ∀ m : MemTag, (t.mp p).tags[m] = match (s.mp p).tags[m] with
            | .inFlight op _ got => .stale op.kind (gotSet got)
            | x => x) ∧
        (∀ k, (t.slot k).record = (s.slot k).record ∧ (t.slot k).overflow = (s.slot k).overflow ∧
          (t.slot k).escalated = (s.slot k).escalated ∧ (t.slot k).escalationReason = (s.slot k).escalationReason) ∧
        ((s.port s.noticeNode).link = .down → ∀ k, t.slot k = (s.slot k).warm) ∧
        (t.dir = [] ∧ t.hold = [] ∧ t.jobs = [] ∧ t.controlQ = [] ∧ (∀ i, t.ttSlot i = ⟨0#8, none⟩) ∧
          ∀ w, t.wbEntry w = none) ∧
        (t.intakePos = 7 ∧ t.refusalMarks = 0#8 ∧ t.noticeNode = s.noticeNode ∧ t.timeBase = s.timeBase ∧ t.out = [])) ∧
  (∀ t : CaptureSlot, t.warm = { t with
    lockNotice := if t.lockNotice = .queued then .pending else t.lockNotice
    escalationNotice := if t.escalationNotice = .queued then .pending else t.escalationNotice
    outstanding := false })

/-! ## Captures and jobs -/

/-- R164 to R170, R173: an EMPTY slot is locked by the record offered to it; a LOCKED slot keeps its record and counts the
offer up to 15, and is escalated once when a DATA_LOST record meets a RECOVERED one; the notice that the slot then owes is
queued at once when the notice node is reachable and no notice of the slot is outstanding, and stays PENDING otherwise.
RELEASE_CAPTURE answers the overflow count and the escalated flag and empties the slot; a notice of it that is queued stays
queued, and its mark outstanding. -/
def Obligations.CaptureSlots : Prop :=
  (∀ (t : CaptureSlot) (r : CaptureRecord), t.record = none →
    t.offer r = ⟨some r, 0#4, false, none, .pending, .none, t.outstanding⟩) ∧
  (∀ (t : CaptureSlot) (r x : CaptureRecord), t.record = some x →
    (t.offer r).record = some x ∧
    (t.offer r).overflow = (if t.overflow.toNat < 15 then t.overflow + 1#4 else t.overflow) ∧
    (t.offer r).lockNotice = t.lockNotice ∧ (t.offer r).outstanding = t.outstanding ∧
    (r.reason.severity = .dataLost → x.reason.severity = .recovered → t.escalated = false →
      (t.offer r).escalated = true ∧ (t.offer r).escalationReason = some r.reason ∧
      (t.offer r).escalationNotice = .pending) ∧
    (r.reason.severity = .recovered ∨ x.reason.severity = .dataLost ∨ t.escalated = true →
      (t.offer r).escalated = t.escalated ∧ (t.offer r).escalationReason = t.escalationReason ∧
      (t.offer r).escalationNotice = t.escalationNotice)) ∧
  (∀ (s : State) (r : CaptureRecord), s.HoldsRecord (s.offer r) r ∧
    ∀ k, k ≠ r.reason.cls → (s.offer r).slot k = s.slot k) ∧
  (∀ (s : State) (r : CaptureRecord) (k : CaptureClass) (u : CaptureSlot), k = r.reason.cls → u = (s.slot k).offer r →
    (s.reachable = false ∨ u.owed k = none → s.offer r = s.modSlot k fun _ => u) ∧
    (∀ o, s.reachable = true → u.owed k = some o → s.offer r = (s.modSlot k fun _ => { u with
        outstanding := true
        lockNotice := if o.producer = .capture k false then .queued else u.lockNotice
        escalationNotice := if o.producer = .capture k true then .queued else u.escalationNotice }).modPort s.noticeNode
      fun p => { p with outbound := p.outbound ++ [o] })) ∧
  (∀ (s : State) (c : ControlReq) (rest : List ControlReq), AgentTakes s 0x0F#8 1 c rest →
    (3 < c.index → exec .releaseCapture s = .next ((s.taking rest).replies c .badArgument [])) ∧
    (∀ k : CaptureClass, c.index = k.index.val →
      exec .releaseCapture s = .next (((s.taking rest).modSlot k fun t =>
        ⟨none, 0#4, false, none, .none, .none, t.outstanding⟩).replies c .ok
          [BitVec.ofNat 32 ((s.slot k).overflow.toNat + if (s.slot k).escalated = true then 16 else 0)])))

/-- R34, R140, R151 to R153, R159, R161: where a fence job joins the Sweep List, how the first QUEUED job begins when none
runs, that a CLOSE_REGION of an UNTRACKED region waits until its region is drained and then ends without a walk, and what
the end of a job makes of its region or node; its JOB_NOTICE is queued at once when the notice node is reachable, and stays
PENDING otherwise. -/
def Obligations.JobsBeginAndEnd : Prop :=
  (∀ (n : NodeId) (pre post : List Job) (j : Job), (∀ x ∈ pre, ¬(x.kind.nonFence = true ∧ x.phase = .queued)) →
    j.kind.nonFence = true → j.phase = .queued →
    placeFenceJob n (pre ++ j :: post) = pre ++ ⟨.fenceNode n, .queued⟩ :: j :: post) ∧
  (∀ (n : NodeId) (js : List Job), (∀ x ∈ js, ¬(x.kind.nonFence = true ∧ x.phase = .queued)) →
    placeFenceJob n js = js ++ [⟨.fenceNode n, .queued⟩]) ∧
  (∀ (s : State) (pre post : List Job) (j : Job), s.jobs = pre ++ j :: post →
    (∀ x ∈ s.jobs, x.phase ≠ .draining ∧ ∀ w, x.phase ≠ .walking w) → (∀ x ∈ pre, x.phase ≠ .queued) → j.phase = .queued →
    (j.kind.nonFence = true → s.sweepStep = some (s.setPhase j.kind .draining)) ∧
    (j.kind.nonFence = false → s.sweepStep = some (s.setPhase j.kind (.walking (.enter 0))))) ∧
  (∀ k : JobKind, k.nonFence = true ↔ ∀ n, k ≠ .fenceNode n) ∧
  (∀ s : State, s.runningJob = none → (∀ x ∈ s.jobs, x.phase ≠ .queued) → s.sweepStep = none) ∧
  (∀ (s : State) (j : Job) (r : RegionIdx), s.runningJob = some j → j.kind = .closeRegion r true → j.phase = .draining →
    s.sweepStep = if s.regionDrained r = true then some (s.jobDone j.kind) else none) ∧
  (∀ (s : State) (j : Job) (w : Walk), s.runningJob = some j → j.phase = .walking w → w.passed = true →
    s.sweepStep = if s.finalTest j.kind = true then some (s.jobDone j.kind) else none) ∧
  (∀ (s : State) (r : RegionIdx) (u : Bool),
    (s.jobDone (.closeRegion r u)).region r = { s.region r with state := .closed } ∧
    (∀ q, q ≠ r → (s.jobDone (.closeRegion r u)).region q = s.region q) ∧
    (s.jobDone (.closeRegion r u)).nodes = s.nodes) ∧
  (∀ (s : State) (n : NodeId), (s.jobDone (.quiesceNode n)).node n = { s.node n with state := .offline } ∧
    ((s.jobDone (.quiesceNode n)).port n).requests = [] ∧ ((s.jobDone (.quiesceNode n)).port n).returns = [] ∧
    ((s.jobDone (.quiesceNode n)).port n).requestCredits = 0 ∧
    ((s.jobDone (.quiesceNode n)).port n).returnCredits = 0 ∧
    (∀ m, m ≠ n → (s.jobDone (.quiesceNode n)).node m = s.node m) ∧ (s.jobDone (.quiesceNode n)).regions = s.regions ∧
    (s.jobDone (.fenceNode n)).nodes = s.nodes ∧ (s.jobDone (.fenceNode n)).regions = s.regions) ∧
  (∀ (s : State) (k : JobKind) (j : Job), j ∈ (s.jobDone k).jobs → j.kind = k → ∃ x, j.phase = .done .completed x) ∧
  (∀ (s t : State) (k : JobKind) (js : List Job), t = s.jobDone k →
    js = s.jobs.map (fun j => if j.kind = k then { j with phase := .done .completed .pending } else j) →
    (t.reachable = false → t.jobs = js ∧ ∀ n, (t.port n).outbound = (s.port n).outbound) ∧
    (t.reachable = true → t.jobs = js.map Job.noticeQueued ∧
      (t.port s.noticeNode).outbound = (s.port s.noticeNode).outbound ++ js.filterMap Job.owed ∧
      ∀ n, n ≠ s.noticeNode → (t.port n).outbound = (s.port n).outbound))

/-- R153 to R159: the walk of a job. A job waits until it is drained, and then begins its walk at set 0, or ends when
it has none; the final tests. A
reading of a set first removes a fenced sharer from every unclaimed SHARED entry with status GOOD (R158), and then leaves the
set when no way must be acted on and no entry started is left, or waits, a claimant of the allocator while an unclaimed way
needs an entry. A grant starts a RECLAIM, or for a fence walk a POISON, on the first such way, or is not used; a retirement
makes a reading due. That a walk passes over empty sets in one action, and stands at 2047 after the last, is the model's
choice (log entry 15). -/
def Obligations.TheWalk : Prop :=
  (∀ (s : State) (r : RegionIdx), s.regionDrained r = true ↔
    (∀ i e, s.entry i = some e → (s.region r).contains e.block = false ∧
      ∀ v, e.victim = some v → (s.region r).contains v.entry.block = false) ∧
    ∀ h ∈ s.hold, (s.region r).contains h.req.block = false) ∧
  (∀ (s : State) (n : NodeId), s.nodeDrained n = true ↔
    (∀ i e tag, s.entry i = some e → e.requester ≠ some (n, tag)) ∧ ∀ h ∈ s.hold, h.req.node ≠ n) ∧
  (∀ (s : State) (n : NodeId), s.noMember n = true ↔
    ∀ i e, s.entry i = some e → ∀ r, ∀ m ∈ e.recallsOf r, m.node = n → m.resolution ≠ none) ∧
  (∀ (s : State) (j : Job), s.runningJob = some j →
    (∀ r, j.phase = .draining → j.kind = .closeRegion r false → s.sweepStep =
      if s.regionDrained r = true then some (s.setPhase j.kind (.walking ⟨0, [], false, true, false⟩)) else none) ∧
    (∀ r, j.phase = .draining → j.kind = .closeRegion r true → s.sweepStep =
      if s.regionDrained r = true then some (s.jobDone j.kind) else none) ∧
    (∀ n, j.phase = .draining → j.kind = .quiesceNode n → s.sweepStep =
      if s.nodeDrained n = true then some (s.setPhase j.kind (.walking ⟨0, [], false, true, false⟩)) else none) ∧
    (∀ w, j.phase = .walking w → w.passed = false →
      s.sweepStep = if w.due = true then some (s.readSet j.kind w) else none)) ∧
  (∀ (s : State) (k : JobKind), (∀ r, k = .closeRegion r false → s.finalTest k = s.regionDrained r) ∧
    (∀ n, k = .quiesceNode n → s.finalTest k = s.noMember n) ∧ (∀ n, k = .fenceNode n → s.finalTest k = true)) ∧
  (∀ (s t : State) (k : JobKind) (w : Walk), s.DirectorySound → t = s.readSet k w →
    ((∀ n, k ≠ .fenceNode n) → t.dir = s.dir) ∧
    (∀ n, k = .fenceNode n →
      (∀ p, p ≠ w.pos → t.dirSet p = s.dirSet p) ∧
      (∀ v e hs, (s.dirSet w.pos).way v = .held e → e.failed = false → e.rights = .shared hs → hs.has n = true →
        s.claimed e.block = false → (t.dirSet w.pos).way v =
          if hs.del n = 0#8 then .empty else .held { e with rights := .shared (hs.del n) }) ∧
      (∀ v, (∀ e hs, (s.dirSet w.pos).way v = .held e → e.failed = false → e.rights = .shared hs → hs.has n = true →
        s.claimed e.block = true) → (t.dirSet w.pos).way v = (s.dirSet w.pos).way v) ∧
      (t.dirSet w.pos).recency = (s.dirSet w.pos).recency.filter fun v => ((t.dirSet w.pos).way v).entry?.isSome) ∧
    (t.tt = s.tt ∧ t.hold = s.hold ∧ t.ports = s.ports ∧ t.slots = s.slots ∧ t.regions = s.regions) ∧
    ∃ x : Walk, t.jobs = s.jobs.map (fun j => if j.kind = k then { j with phase := .walking x } else j) ∧
      ((∀ v e, (t.dirSet w.pos).way v = .held e → ¬t.WalkActs k e) → w.started = [] →
        (∀ p, t.NextSet w.pos p → x = ⟨p, [], false, true, false⟩) ∧
        ((∀ p, w.pos < p → t.dirSet p = DirSet.empty) → x = ⟨2047, [], true, false, false⟩)) ∧
      ((∃ v e, (t.dirSet w.pos).way v = .held e ∧ t.WalkActs k e) ∨ w.started ≠ [] →
        x.pos = w.pos ∧ x.started = w.started ∧ x.passed = w.passed ∧ x.due = false ∧
        (x.wants = true ↔ ∃ v e, t.WalkStarts k w.pos v e))) ∧
  (∀ (s : State) (i : TTIdx) (k : JobKind) (w : Walk),
    ((∀ v e, ¬s.WalkStarts k w.pos v e) →
      s.grantSweep i k w = s.setPhase k (.walking { w with due := true, wants := false })) ∧
    (∀ v e, s.WalkStarts k w.pos v e → (∀ u, u < v → ∀ f, ¬s.WalkStarts k w.pos u f) →
      (∀ n, k = .fenceNode n → s.grantSweep i k w = (s.setPhase k
        (.walking { w with started := w.started ++ [i], due := true, wants := false })).startPoison i v e) ∧
      ((∀ n, k ≠ .fenceNode n) → s.grantSweep i k w = (s.setPhase k
        (.walking { w with started := w.started ++ [i], due := true, wants := false })).startReclaim i .sweep e.block))) ∧
  (∀ (s : State) (i : TTIdx) (e : TTEntry), (s.tellWalk i e).jobs = s.jobs.map fun j => match j.phase with
    | .walking w => { j with phase := .walking { w with
        started := w.started.erase i
        due := w.due || w.started.contains i || setOf e.block == w.pos ||
          (match e.victim with | some v => setOf v.entry.block == w.pos | none => false) } }
    | _ => j)

end Obligations
end

