-- ==== Sys2Proof/Laws/State.lean ====
section
/-! SUPPORT. One lemma per field per update of State: what each setter leaves as it was, and what it puts. -/

namespace Sys2Proof.Machine.State

variable (s : State)

/-! ### `modPort` -/

@[simp] theorem modPort_pending (n : NodeId) (f : Port → Port) : (s.modPort n f).pending = s.pending := rfl
@[simp] theorem modPort_inputs (n : NodeId) (f : Port → Port) : (s.modPort n f).inputs = s.inputs := rfl
@[simp] theorem modPort_now (n : NodeId) (f : Port → Port) : (s.modPort n f).now = s.now := rfl
@[simp] theorem modPort_out (n : NodeId) (f : Port → Port) : (s.modPort n f).out = s.out := rfl
@[simp] theorem modPort_resetAsserted (n : NodeId) (f : Port → Port) : (s.modPort n f).resetAsserted = s.resetAsserted := rfl
@[simp] theorem modPort_powerGood (n : NodeId) (f : Port → Port) : (s.modPort n f).powerGood = s.powerGood := rfl
@[simp] theorem modPort_timeBase (n : NodeId) (f : Port → Port) : (s.modPort n f).timeBase = s.timeBase := rfl
@[simp] theorem modPort_noticeNode (n : NodeId) (f : Port → Port) : (s.modPort n f).noticeNode = s.noticeNode := rfl
@[simp] theorem modPort_intakePos (n : NodeId) (f : Port → Port) : (s.modPort n f).intakePos = s.intakePos := rfl
@[simp] theorem modPort_refusalMarks (n : NodeId) (f : Port → Port) : (s.modPort n f).refusalMarks = s.refusalMarks := rfl
@[simp] theorem modPort_nodes (n : NodeId) (f : Port → Port) : (s.modPort n f).nodes = s.nodes := rfl
@[simp] theorem modPort_regions (n : NodeId) (f : Port → Port) : (s.modPort n f).regions = s.regions := rfl
@[simp] theorem modPort_dir (n : NodeId) (f : Port → Port) : (s.modPort n f).dir = s.dir := rfl
@[simp] theorem modPort_tt (n : NodeId) (f : Port → Port) : (s.modPort n f).tt = s.tt := rfl
@[simp] theorem modPort_hold (n : NodeId) (f : Port → Port) : (s.modPort n f).hold = s.hold := rfl
@[simp] theorem modPort_wb (n : NodeId) (f : Port → Port) : (s.modPort n f).wb = s.wb := rfl
@[simp] theorem modPort_mp0 (n : NodeId) (f : Port → Port) : (s.modPort n f).mp0 = s.mp0 := rfl
@[simp] theorem modPort_mp1 (n : NodeId) (f : Port → Port) : (s.modPort n f).mp1 = s.mp1 := rfl
@[simp] theorem modPort_jobs (n : NodeId) (f : Port → Port) : (s.modPort n f).jobs = s.jobs := rfl
@[simp] theorem modPort_slots (n : NodeId) (f : Port → Port) : (s.modPort n f).slots = s.slots := rfl
@[simp] theorem modPort_agent (n : NodeId) (f : Port → Port) : (s.modPort n f).agent = s.agent := rfl
@[simp] theorem modPort_controlQ (n : NodeId) (f : Port → Port) : (s.modPort n f).controlQ = s.controlQ := rfl

/-! ### `modNode` -/

@[simp] theorem modNode_pending (n : NodeId) (f : NodeRec → NodeRec) : (s.modNode n f).pending = s.pending := rfl
@[simp] theorem modNode_inputs (n : NodeId) (f : NodeRec → NodeRec) : (s.modNode n f).inputs = s.inputs := rfl
@[simp] theorem modNode_now (n : NodeId) (f : NodeRec → NodeRec) : (s.modNode n f).now = s.now := rfl
@[simp] theorem modNode_out (n : NodeId) (f : NodeRec → NodeRec) : (s.modNode n f).out = s.out := rfl
@[simp] theorem modNode_resetAsserted (n : NodeId) (f : NodeRec → NodeRec) : (s.modNode n f).resetAsserted = s.resetAsserted := rfl
@[simp] theorem modNode_powerGood (n : NodeId) (f : NodeRec → NodeRec) : (s.modNode n f).powerGood = s.powerGood := rfl
@[simp] theorem modNode_timeBase (n : NodeId) (f : NodeRec → NodeRec) : (s.modNode n f).timeBase = s.timeBase := rfl
@[simp] theorem modNode_noticeNode (n : NodeId) (f : NodeRec → NodeRec) : (s.modNode n f).noticeNode = s.noticeNode := rfl
@[simp] theorem modNode_intakePos (n : NodeId) (f : NodeRec → NodeRec) : (s.modNode n f).intakePos = s.intakePos := rfl
@[simp] theorem modNode_refusalMarks (n : NodeId) (f : NodeRec → NodeRec) : (s.modNode n f).refusalMarks = s.refusalMarks := rfl
@[simp] theorem modNode_ports (n : NodeId) (f : NodeRec → NodeRec) : (s.modNode n f).ports = s.ports := rfl
@[simp] theorem modNode_regions (n : NodeId) (f : NodeRec → NodeRec) : (s.modNode n f).regions = s.regions := rfl
@[simp] theorem modNode_dir (n : NodeId) (f : NodeRec → NodeRec) : (s.modNode n f).dir = s.dir := rfl
@[simp] theorem modNode_tt (n : NodeId) (f : NodeRec → NodeRec) : (s.modNode n f).tt = s.tt := rfl
@[simp] theorem modNode_hold (n : NodeId) (f : NodeRec → NodeRec) : (s.modNode n f).hold = s.hold := rfl
@[simp] theorem modNode_wb (n : NodeId) (f : NodeRec → NodeRec) : (s.modNode n f).wb = s.wb := rfl
@[simp] theorem modNode_mp0 (n : NodeId) (f : NodeRec → NodeRec) : (s.modNode n f).mp0 = s.mp0 := rfl
@[simp] theorem modNode_mp1 (n : NodeId) (f : NodeRec → NodeRec) : (s.modNode n f).mp1 = s.mp1 := rfl
@[simp] theorem modNode_jobs (n : NodeId) (f : NodeRec → NodeRec) : (s.modNode n f).jobs = s.jobs := rfl
@[simp] theorem modNode_slots (n : NodeId) (f : NodeRec → NodeRec) : (s.modNode n f).slots = s.slots := rfl
@[simp] theorem modNode_agent (n : NodeId) (f : NodeRec → NodeRec) : (s.modNode n f).agent = s.agent := rfl
@[simp] theorem modNode_controlQ (n : NodeId) (f : NodeRec → NodeRec) : (s.modNode n f).controlQ = s.controlQ := rfl

/-! ### `modRegion` -/

@[simp] theorem modRegion_pending (r : RegionIdx) (f : Region → Region) : (s.modRegion r f).pending = s.pending := rfl
@[simp] theorem modRegion_inputs (r : RegionIdx) (f : Region → Region) : (s.modRegion r f).inputs = s.inputs := rfl
@[simp] theorem modRegion_now (r : RegionIdx) (f : Region → Region) : (s.modRegion r f).now = s.now := rfl
@[simp] theorem modRegion_out (r : RegionIdx) (f : Region → Region) : (s.modRegion r f).out = s.out := rfl
@[simp] theorem modRegion_resetAsserted (r : RegionIdx) (f : Region → Region) : (s.modRegion r f).resetAsserted = s.resetAsserted := rfl
@[simp] theorem modRegion_powerGood (r : RegionIdx) (f : Region → Region) : (s.modRegion r f).powerGood = s.powerGood := rfl
@[simp] theorem modRegion_timeBase (r : RegionIdx) (f : Region → Region) : (s.modRegion r f).timeBase = s.timeBase := rfl
@[simp] theorem modRegion_noticeNode (r : RegionIdx) (f : Region → Region) : (s.modRegion r f).noticeNode = s.noticeNode := rfl
@[simp] theorem modRegion_intakePos (r : RegionIdx) (f : Region → Region) : (s.modRegion r f).intakePos = s.intakePos := rfl
@[simp] theorem modRegion_refusalMarks (r : RegionIdx) (f : Region → Region) : (s.modRegion r f).refusalMarks = s.refusalMarks := rfl
@[simp] theorem modRegion_ports (r : RegionIdx) (f : Region → Region) : (s.modRegion r f).ports = s.ports := rfl
@[simp] theorem modRegion_nodes (r : RegionIdx) (f : Region → Region) : (s.modRegion r f).nodes = s.nodes := rfl
@[simp] theorem modRegion_dir (r : RegionIdx) (f : Region → Region) : (s.modRegion r f).dir = s.dir := rfl
@[simp] theorem modRegion_tt (r : RegionIdx) (f : Region → Region) : (s.modRegion r f).tt = s.tt := rfl
@[simp] theorem modRegion_hold (r : RegionIdx) (f : Region → Region) : (s.modRegion r f).hold = s.hold := rfl
@[simp] theorem modRegion_wb (r : RegionIdx) (f : Region → Region) : (s.modRegion r f).wb = s.wb := rfl
@[simp] theorem modRegion_mp0 (r : RegionIdx) (f : Region → Region) : (s.modRegion r f).mp0 = s.mp0 := rfl
@[simp] theorem modRegion_mp1 (r : RegionIdx) (f : Region → Region) : (s.modRegion r f).mp1 = s.mp1 := rfl
@[simp] theorem modRegion_jobs (r : RegionIdx) (f : Region → Region) : (s.modRegion r f).jobs = s.jobs := rfl
@[simp] theorem modRegion_slots (r : RegionIdx) (f : Region → Region) : (s.modRegion r f).slots = s.slots := rfl
@[simp] theorem modRegion_agent (r : RegionIdx) (f : Region → Region) : (s.modRegion r f).agent = s.agent := rfl
@[simp] theorem modRegion_controlQ (r : RegionIdx) (f : Region → Region) : (s.modRegion r f).controlQ = s.controlQ := rfl

/-! ### `modSlot` -/

@[simp] theorem modSlot_pending (c : CaptureClass) (f : CaptureSlot → CaptureSlot) : (s.modSlot c f).pending = s.pending := rfl
@[simp] theorem modSlot_inputs (c : CaptureClass) (f : CaptureSlot → CaptureSlot) : (s.modSlot c f).inputs = s.inputs := rfl
@[simp] theorem modSlot_now (c : CaptureClass) (f : CaptureSlot → CaptureSlot) : (s.modSlot c f).now = s.now := rfl
@[simp] theorem modSlot_out (c : CaptureClass) (f : CaptureSlot → CaptureSlot) : (s.modSlot c f).out = s.out := rfl
@[simp] theorem modSlot_resetAsserted (c : CaptureClass) (f : CaptureSlot → CaptureSlot) : (s.modSlot c f).resetAsserted = s.resetAsserted := rfl
@[simp] theorem modSlot_powerGood (c : CaptureClass) (f : CaptureSlot → CaptureSlot) : (s.modSlot c f).powerGood = s.powerGood := rfl
@[simp] theorem modSlot_timeBase (c : CaptureClass) (f : CaptureSlot → CaptureSlot) : (s.modSlot c f).timeBase = s.timeBase := rfl
@[simp] theorem modSlot_noticeNode (c : CaptureClass) (f : CaptureSlot → CaptureSlot) : (s.modSlot c f).noticeNode = s.noticeNode := rfl
@[simp] theorem modSlot_intakePos (c : CaptureClass) (f : CaptureSlot → CaptureSlot) : (s.modSlot c f).intakePos = s.intakePos := rfl
@[simp] theorem modSlot_refusalMarks (c : CaptureClass) (f : CaptureSlot → CaptureSlot) : (s.modSlot c f).refusalMarks = s.refusalMarks := rfl
@[simp] theorem modSlot_ports (c : CaptureClass) (f : CaptureSlot → CaptureSlot) : (s.modSlot c f).ports = s.ports := rfl
@[simp] theorem modSlot_nodes (c : CaptureClass) (f : CaptureSlot → CaptureSlot) : (s.modSlot c f).nodes = s.nodes := rfl
@[simp] theorem modSlot_regions (c : CaptureClass) (f : CaptureSlot → CaptureSlot) : (s.modSlot c f).regions = s.regions := rfl
@[simp] theorem modSlot_dir (c : CaptureClass) (f : CaptureSlot → CaptureSlot) : (s.modSlot c f).dir = s.dir := rfl
@[simp] theorem modSlot_tt (c : CaptureClass) (f : CaptureSlot → CaptureSlot) : (s.modSlot c f).tt = s.tt := rfl
@[simp] theorem modSlot_hold (c : CaptureClass) (f : CaptureSlot → CaptureSlot) : (s.modSlot c f).hold = s.hold := rfl
@[simp] theorem modSlot_wb (c : CaptureClass) (f : CaptureSlot → CaptureSlot) : (s.modSlot c f).wb = s.wb := rfl
@[simp] theorem modSlot_mp0 (c : CaptureClass) (f : CaptureSlot → CaptureSlot) : (s.modSlot c f).mp0 = s.mp0 := rfl
@[simp] theorem modSlot_mp1 (c : CaptureClass) (f : CaptureSlot → CaptureSlot) : (s.modSlot c f).mp1 = s.mp1 := rfl
@[simp] theorem modSlot_jobs (c : CaptureClass) (f : CaptureSlot → CaptureSlot) : (s.modSlot c f).jobs = s.jobs := rfl
@[simp] theorem modSlot_agent (c : CaptureClass) (f : CaptureSlot → CaptureSlot) : (s.modSlot c f).agent = s.agent := rfl
@[simp] theorem modSlot_controlQ (c : CaptureClass) (f : CaptureSlot → CaptureSlot) : (s.modSlot c f).controlQ = s.controlQ := rfl

/-! ### `modTT` -/

@[simp] theorem modTT_pending (i : TTIdx) (f : TTSlot → TTSlot) : (s.modTT i f).pending = s.pending := rfl
@[simp] theorem modTT_inputs (i : TTIdx) (f : TTSlot → TTSlot) : (s.modTT i f).inputs = s.inputs := rfl
@[simp] theorem modTT_now (i : TTIdx) (f : TTSlot → TTSlot) : (s.modTT i f).now = s.now := rfl
@[simp] theorem modTT_out (i : TTIdx) (f : TTSlot → TTSlot) : (s.modTT i f).out = s.out := rfl
@[simp] theorem modTT_resetAsserted (i : TTIdx) (f : TTSlot → TTSlot) : (s.modTT i f).resetAsserted = s.resetAsserted := rfl
@[simp] theorem modTT_powerGood (i : TTIdx) (f : TTSlot → TTSlot) : (s.modTT i f).powerGood = s.powerGood := rfl
@[simp] theorem modTT_timeBase (i : TTIdx) (f : TTSlot → TTSlot) : (s.modTT i f).timeBase = s.timeBase := rfl
@[simp] theorem modTT_noticeNode (i : TTIdx) (f : TTSlot → TTSlot) : (s.modTT i f).noticeNode = s.noticeNode := rfl
@[simp] theorem modTT_intakePos (i : TTIdx) (f : TTSlot → TTSlot) : (s.modTT i f).intakePos = s.intakePos := rfl
@[simp] theorem modTT_refusalMarks (i : TTIdx) (f : TTSlot → TTSlot) : (s.modTT i f).refusalMarks = s.refusalMarks := rfl
@[simp] theorem modTT_ports (i : TTIdx) (f : TTSlot → TTSlot) : (s.modTT i f).ports = s.ports := rfl
@[simp] theorem modTT_nodes (i : TTIdx) (f : TTSlot → TTSlot) : (s.modTT i f).nodes = s.nodes := rfl
@[simp] theorem modTT_regions (i : TTIdx) (f : TTSlot → TTSlot) : (s.modTT i f).regions = s.regions := rfl
@[simp] theorem modTT_dir (i : TTIdx) (f : TTSlot → TTSlot) : (s.modTT i f).dir = s.dir := rfl
@[simp] theorem modTT_hold (i : TTIdx) (f : TTSlot → TTSlot) : (s.modTT i f).hold = s.hold := rfl
@[simp] theorem modTT_wb (i : TTIdx) (f : TTSlot → TTSlot) : (s.modTT i f).wb = s.wb := rfl
@[simp] theorem modTT_mp0 (i : TTIdx) (f : TTSlot → TTSlot) : (s.modTT i f).mp0 = s.mp0 := rfl
@[simp] theorem modTT_mp1 (i : TTIdx) (f : TTSlot → TTSlot) : (s.modTT i f).mp1 = s.mp1 := rfl
@[simp] theorem modTT_jobs (i : TTIdx) (f : TTSlot → TTSlot) : (s.modTT i f).jobs = s.jobs := rfl
@[simp] theorem modTT_slots (i : TTIdx) (f : TTSlot → TTSlot) : (s.modTT i f).slots = s.slots := rfl
@[simp] theorem modTT_agent (i : TTIdx) (f : TTSlot → TTSlot) : (s.modTT i f).agent = s.agent := rfl
@[simp] theorem modTT_controlQ (i : TTIdx) (f : TTSlot → TTSlot) : (s.modTT i f).controlQ = s.controlQ := rfl

/-! ### `setEntry` -/

@[simp] theorem setEntry_pending (i : TTIdx) (o : Option TTEntry) : (s.setEntry i o).pending = s.pending := rfl
@[simp] theorem setEntry_inputs (i : TTIdx) (o : Option TTEntry) : (s.setEntry i o).inputs = s.inputs := rfl
@[simp] theorem setEntry_now (i : TTIdx) (o : Option TTEntry) : (s.setEntry i o).now = s.now := rfl
@[simp] theorem setEntry_out (i : TTIdx) (o : Option TTEntry) : (s.setEntry i o).out = s.out := rfl
@[simp] theorem setEntry_resetAsserted (i : TTIdx) (o : Option TTEntry) : (s.setEntry i o).resetAsserted = s.resetAsserted := rfl
@[simp] theorem setEntry_powerGood (i : TTIdx) (o : Option TTEntry) : (s.setEntry i o).powerGood = s.powerGood := rfl
@[simp] theorem setEntry_timeBase (i : TTIdx) (o : Option TTEntry) : (s.setEntry i o).timeBase = s.timeBase := rfl
@[simp] theorem setEntry_noticeNode (i : TTIdx) (o : Option TTEntry) : (s.setEntry i o).noticeNode = s.noticeNode := rfl
@[simp] theorem setEntry_intakePos (i : TTIdx) (o : Option TTEntry) : (s.setEntry i o).intakePos = s.intakePos := rfl
@[simp] theorem setEntry_refusalMarks (i : TTIdx) (o : Option TTEntry) : (s.setEntry i o).refusalMarks = s.refusalMarks := rfl
@[simp] theorem setEntry_ports (i : TTIdx) (o : Option TTEntry) : (s.setEntry i o).ports = s.ports := rfl
@[simp] theorem setEntry_nodes (i : TTIdx) (o : Option TTEntry) : (s.setEntry i o).nodes = s.nodes := rfl
@[simp] theorem setEntry_regions (i : TTIdx) (o : Option TTEntry) : (s.setEntry i o).regions = s.regions := rfl
@[simp] theorem setEntry_dir (i : TTIdx) (o : Option TTEntry) : (s.setEntry i o).dir = s.dir := rfl
@[simp] theorem setEntry_hold (i : TTIdx) (o : Option TTEntry) : (s.setEntry i o).hold = s.hold := rfl
@[simp] theorem setEntry_wb (i : TTIdx) (o : Option TTEntry) : (s.setEntry i o).wb = s.wb := rfl
@[simp] theorem setEntry_mp0 (i : TTIdx) (o : Option TTEntry) : (s.setEntry i o).mp0 = s.mp0 := rfl
@[simp] theorem setEntry_mp1 (i : TTIdx) (o : Option TTEntry) : (s.setEntry i o).mp1 = s.mp1 := rfl
@[simp] theorem setEntry_jobs (i : TTIdx) (o : Option TTEntry) : (s.setEntry i o).jobs = s.jobs := rfl
@[simp] theorem setEntry_slots (i : TTIdx) (o : Option TTEntry) : (s.setEntry i o).slots = s.slots := rfl
@[simp] theorem setEntry_agent (i : TTIdx) (o : Option TTEntry) : (s.setEntry i o).agent = s.agent := rfl
@[simp] theorem setEntry_controlQ (i : TTIdx) (o : Option TTEntry) : (s.setEntry i o).controlQ = s.controlQ := rfl

/-! ### `modEntry` -/

@[simp] theorem modEntry_pending (i : TTIdx) (f : TTEntry → TTEntry) : (s.modEntry i f).pending = s.pending := rfl
@[simp] theorem modEntry_inputs (i : TTIdx) (f : TTEntry → TTEntry) : (s.modEntry i f).inputs = s.inputs := rfl
@[simp] theorem modEntry_now (i : TTIdx) (f : TTEntry → TTEntry) : (s.modEntry i f).now = s.now := rfl
@[simp] theorem modEntry_out (i : TTIdx) (f : TTEntry → TTEntry) : (s.modEntry i f).out = s.out := rfl
@[simp] theorem modEntry_resetAsserted (i : TTIdx) (f : TTEntry → TTEntry) : (s.modEntry i f).resetAsserted = s.resetAsserted := rfl
@[simp] theorem modEntry_powerGood (i : TTIdx) (f : TTEntry → TTEntry) : (s.modEntry i f).powerGood = s.powerGood := rfl
@[simp] theorem modEntry_timeBase (i : TTIdx) (f : TTEntry → TTEntry) : (s.modEntry i f).timeBase = s.timeBase := rfl
@[simp] theorem modEntry_noticeNode (i : TTIdx) (f : TTEntry → TTEntry) : (s.modEntry i f).noticeNode = s.noticeNode := rfl
@[simp] theorem modEntry_intakePos (i : TTIdx) (f : TTEntry → TTEntry) : (s.modEntry i f).intakePos = s.intakePos := rfl
@[simp] theorem modEntry_refusalMarks (i : TTIdx) (f : TTEntry → TTEntry) : (s.modEntry i f).refusalMarks = s.refusalMarks := rfl
@[simp] theorem modEntry_ports (i : TTIdx) (f : TTEntry → TTEntry) : (s.modEntry i f).ports = s.ports := rfl
@[simp] theorem modEntry_nodes (i : TTIdx) (f : TTEntry → TTEntry) : (s.modEntry i f).nodes = s.nodes := rfl
@[simp] theorem modEntry_regions (i : TTIdx) (f : TTEntry → TTEntry) : (s.modEntry i f).regions = s.regions := rfl
@[simp] theorem modEntry_dir (i : TTIdx) (f : TTEntry → TTEntry) : (s.modEntry i f).dir = s.dir := rfl
@[simp] theorem modEntry_hold (i : TTIdx) (f : TTEntry → TTEntry) : (s.modEntry i f).hold = s.hold := rfl
@[simp] theorem modEntry_wb (i : TTIdx) (f : TTEntry → TTEntry) : (s.modEntry i f).wb = s.wb := rfl
@[simp] theorem modEntry_mp0 (i : TTIdx) (f : TTEntry → TTEntry) : (s.modEntry i f).mp0 = s.mp0 := rfl
@[simp] theorem modEntry_mp1 (i : TTIdx) (f : TTEntry → TTEntry) : (s.modEntry i f).mp1 = s.mp1 := rfl
@[simp] theorem modEntry_jobs (i : TTIdx) (f : TTEntry → TTEntry) : (s.modEntry i f).jobs = s.jobs := rfl
@[simp] theorem modEntry_slots (i : TTIdx) (f : TTEntry → TTEntry) : (s.modEntry i f).slots = s.slots := rfl
@[simp] theorem modEntry_agent (i : TTIdx) (f : TTEntry → TTEntry) : (s.modEntry i f).agent = s.agent := rfl
@[simp] theorem modEntry_controlQ (i : TTIdx) (f : TTEntry → TTEntry) : (s.modEntry i f).controlQ = s.controlQ := rfl

/-! ### `setWB` -/

@[simp] theorem setWB_pending (w : WBIdx) (o : Option WBEntry) : (s.setWB w o).pending = s.pending := rfl
@[simp] theorem setWB_inputs (w : WBIdx) (o : Option WBEntry) : (s.setWB w o).inputs = s.inputs := rfl
@[simp] theorem setWB_now (w : WBIdx) (o : Option WBEntry) : (s.setWB w o).now = s.now := rfl
@[simp] theorem setWB_out (w : WBIdx) (o : Option WBEntry) : (s.setWB w o).out = s.out := rfl
@[simp] theorem setWB_resetAsserted (w : WBIdx) (o : Option WBEntry) : (s.setWB w o).resetAsserted = s.resetAsserted := rfl
@[simp] theorem setWB_powerGood (w : WBIdx) (o : Option WBEntry) : (s.setWB w o).powerGood = s.powerGood := rfl
@[simp] theorem setWB_timeBase (w : WBIdx) (o : Option WBEntry) : (s.setWB w o).timeBase = s.timeBase := rfl
@[simp] theorem setWB_noticeNode (w : WBIdx) (o : Option WBEntry) : (s.setWB w o).noticeNode = s.noticeNode := rfl
@[simp] theorem setWB_intakePos (w : WBIdx) (o : Option WBEntry) : (s.setWB w o).intakePos = s.intakePos := rfl
@[simp] theorem setWB_refusalMarks (w : WBIdx) (o : Option WBEntry) : (s.setWB w o).refusalMarks = s.refusalMarks := rfl
@[simp] theorem setWB_ports (w : WBIdx) (o : Option WBEntry) : (s.setWB w o).ports = s.ports := rfl
@[simp] theorem setWB_nodes (w : WBIdx) (o : Option WBEntry) : (s.setWB w o).nodes = s.nodes := rfl
@[simp] theorem setWB_regions (w : WBIdx) (o : Option WBEntry) : (s.setWB w o).regions = s.regions := rfl
@[simp] theorem setWB_dir (w : WBIdx) (o : Option WBEntry) : (s.setWB w o).dir = s.dir := rfl
@[simp] theorem setWB_tt (w : WBIdx) (o : Option WBEntry) : (s.setWB w o).tt = s.tt := rfl
@[simp] theorem setWB_hold (w : WBIdx) (o : Option WBEntry) : (s.setWB w o).hold = s.hold := rfl
@[simp] theorem setWB_mp0 (w : WBIdx) (o : Option WBEntry) : (s.setWB w o).mp0 = s.mp0 := rfl
@[simp] theorem setWB_mp1 (w : WBIdx) (o : Option WBEntry) : (s.setWB w o).mp1 = s.mp1 := rfl
@[simp] theorem setWB_jobs (w : WBIdx) (o : Option WBEntry) : (s.setWB w o).jobs = s.jobs := rfl
@[simp] theorem setWB_slots (w : WBIdx) (o : Option WBEntry) : (s.setWB w o).slots = s.slots := rfl
@[simp] theorem setWB_agent (w : WBIdx) (o : Option WBEntry) : (s.setWB w o).agent = s.agent := rfl
@[simp] theorem setWB_controlQ (w : WBIdx) (o : Option WBEntry) : (s.setWB w o).controlQ = s.controlQ := rfl

/-! ### `emit` -/

@[simp] theorem emit_pending (e : OutEvent) : (s.emit e).pending = s.pending := rfl
@[simp] theorem emit_inputs (e : OutEvent) : (s.emit e).inputs = s.inputs := rfl
@[simp] theorem emit_now (e : OutEvent) : (s.emit e).now = s.now := rfl
@[simp] theorem emit_resetAsserted (e : OutEvent) : (s.emit e).resetAsserted = s.resetAsserted := rfl
@[simp] theorem emit_powerGood (e : OutEvent) : (s.emit e).powerGood = s.powerGood := rfl
@[simp] theorem emit_timeBase (e : OutEvent) : (s.emit e).timeBase = s.timeBase := rfl
@[simp] theorem emit_noticeNode (e : OutEvent) : (s.emit e).noticeNode = s.noticeNode := rfl
@[simp] theorem emit_intakePos (e : OutEvent) : (s.emit e).intakePos = s.intakePos := rfl
@[simp] theorem emit_refusalMarks (e : OutEvent) : (s.emit e).refusalMarks = s.refusalMarks := rfl
@[simp] theorem emit_ports (e : OutEvent) : (s.emit e).ports = s.ports := rfl
@[simp] theorem emit_nodes (e : OutEvent) : (s.emit e).nodes = s.nodes := rfl
@[simp] theorem emit_regions (e : OutEvent) : (s.emit e).regions = s.regions := rfl
@[simp] theorem emit_dir (e : OutEvent) : (s.emit e).dir = s.dir := rfl
@[simp] theorem emit_tt (e : OutEvent) : (s.emit e).tt = s.tt := rfl
@[simp] theorem emit_hold (e : OutEvent) : (s.emit e).hold = s.hold := rfl
@[simp] theorem emit_wb (e : OutEvent) : (s.emit e).wb = s.wb := rfl
@[simp] theorem emit_mp0 (e : OutEvent) : (s.emit e).mp0 = s.mp0 := rfl
@[simp] theorem emit_mp1 (e : OutEvent) : (s.emit e).mp1 = s.mp1 := rfl
@[simp] theorem emit_jobs (e : OutEvent) : (s.emit e).jobs = s.jobs := rfl
@[simp] theorem emit_slots (e : OutEvent) : (s.emit e).slots = s.slots := rfl
@[simp] theorem emit_agent (e : OutEvent) : (s.emit e).agent = s.agent := rfl
@[simp] theorem emit_controlQ (e : OutEvent) : (s.emit e).controlQ = s.controlQ := rfl

/-! ### `capture` -/

@[simp] theorem capture_pending (r : CaptureRecord) : (s.capture r).pending = s.pending := rfl
@[simp] theorem capture_inputs (r : CaptureRecord) : (s.capture r).inputs = s.inputs := rfl
@[simp] theorem capture_now (r : CaptureRecord) : (s.capture r).now = s.now := rfl
@[simp] theorem capture_out (r : CaptureRecord) : (s.capture r).out = s.out := rfl
@[simp] theorem capture_resetAsserted (r : CaptureRecord) : (s.capture r).resetAsserted = s.resetAsserted := rfl
@[simp] theorem capture_powerGood (r : CaptureRecord) : (s.capture r).powerGood = s.powerGood := rfl
@[simp] theorem capture_timeBase (r : CaptureRecord) : (s.capture r).timeBase = s.timeBase := rfl
@[simp] theorem capture_noticeNode (r : CaptureRecord) : (s.capture r).noticeNode = s.noticeNode := rfl
@[simp] theorem capture_intakePos (r : CaptureRecord) : (s.capture r).intakePos = s.intakePos := rfl
@[simp] theorem capture_refusalMarks (r : CaptureRecord) : (s.capture r).refusalMarks = s.refusalMarks := rfl
@[simp] theorem capture_ports (r : CaptureRecord) : (s.capture r).ports = s.ports := rfl
@[simp] theorem capture_nodes (r : CaptureRecord) : (s.capture r).nodes = s.nodes := rfl
@[simp] theorem capture_regions (r : CaptureRecord) : (s.capture r).regions = s.regions := rfl
@[simp] theorem capture_dir (r : CaptureRecord) : (s.capture r).dir = s.dir := rfl
@[simp] theorem capture_tt (r : CaptureRecord) : (s.capture r).tt = s.tt := rfl
@[simp] theorem capture_hold (r : CaptureRecord) : (s.capture r).hold = s.hold := rfl
@[simp] theorem capture_wb (r : CaptureRecord) : (s.capture r).wb = s.wb := rfl
@[simp] theorem capture_mp0 (r : CaptureRecord) : (s.capture r).mp0 = s.mp0 := rfl
@[simp] theorem capture_mp1 (r : CaptureRecord) : (s.capture r).mp1 = s.mp1 := rfl
@[simp] theorem capture_jobs (r : CaptureRecord) : (s.capture r).jobs = s.jobs := rfl
@[simp] theorem capture_agent (r : CaptureRecord) : (s.capture r).agent = s.agent := rfl
@[simp] theorem capture_controlQ (r : CaptureRecord) : (s.capture r).controlQ = s.controlQ := rfl

/-! ### `enqueue` -/

@[simp] theorem enqueue_pending (n : NodeId) (p : Producer) (m : Msg) : (s.enqueue n p m).pending = s.pending := rfl
@[simp] theorem enqueue_inputs (n : NodeId) (p : Producer) (m : Msg) : (s.enqueue n p m).inputs = s.inputs := rfl
@[simp] theorem enqueue_now (n : NodeId) (p : Producer) (m : Msg) : (s.enqueue n p m).now = s.now := rfl
@[simp] theorem enqueue_out (n : NodeId) (p : Producer) (m : Msg) : (s.enqueue n p m).out = s.out := rfl
@[simp] theorem enqueue_resetAsserted (n : NodeId) (p : Producer) (m : Msg) : (s.enqueue n p m).resetAsserted = s.resetAsserted := rfl
@[simp] theorem enqueue_powerGood (n : NodeId) (p : Producer) (m : Msg) : (s.enqueue n p m).powerGood = s.powerGood := rfl
@[simp] theorem enqueue_timeBase (n : NodeId) (p : Producer) (m : Msg) : (s.enqueue n p m).timeBase = s.timeBase := rfl
@[simp] theorem enqueue_noticeNode (n : NodeId) (p : Producer) (m : Msg) : (s.enqueue n p m).noticeNode = s.noticeNode := rfl
@[simp] theorem enqueue_intakePos (n : NodeId) (p : Producer) (m : Msg) : (s.enqueue n p m).intakePos = s.intakePos := rfl
@[simp] theorem enqueue_refusalMarks (n : NodeId) (p : Producer) (m : Msg) : (s.enqueue n p m).refusalMarks = s.refusalMarks := rfl
@[simp] theorem enqueue_nodes (n : NodeId) (p : Producer) (m : Msg) : (s.enqueue n p m).nodes = s.nodes := rfl
@[simp] theorem enqueue_regions (n : NodeId) (p : Producer) (m : Msg) : (s.enqueue n p m).regions = s.regions := rfl
@[simp] theorem enqueue_dir (n : NodeId) (p : Producer) (m : Msg) : (s.enqueue n p m).dir = s.dir := rfl
@[simp] theorem enqueue_tt (n : NodeId) (p : Producer) (m : Msg) : (s.enqueue n p m).tt = s.tt := rfl
@[simp] theorem enqueue_hold (n : NodeId) (p : Producer) (m : Msg) : (s.enqueue n p m).hold = s.hold := rfl
@[simp] theorem enqueue_wb (n : NodeId) (p : Producer) (m : Msg) : (s.enqueue n p m).wb = s.wb := rfl
@[simp] theorem enqueue_mp0 (n : NodeId) (p : Producer) (m : Msg) : (s.enqueue n p m).mp0 = s.mp0 := rfl
@[simp] theorem enqueue_mp1 (n : NodeId) (p : Producer) (m : Msg) : (s.enqueue n p m).mp1 = s.mp1 := rfl
@[simp] theorem enqueue_jobs (n : NodeId) (p : Producer) (m : Msg) : (s.enqueue n p m).jobs = s.jobs := rfl
@[simp] theorem enqueue_slots (n : NodeId) (p : Producer) (m : Msg) : (s.enqueue n p m).slots = s.slots := rfl
@[simp] theorem enqueue_agent (n : NodeId) (p : Producer) (m : Msg) : (s.enqueue n p m).agent = s.agent := rfl
@[simp] theorem enqueue_controlQ (n : NodeId) (p : Producer) (m : Msg) : (s.enqueue n p m).controlQ = s.controlQ := rfl

/-! ### `putSet` -/

@[simp] theorem putSet_pending (k : SetIdx) (v : DirSet) : (s.putSet k v).pending = s.pending := rfl
@[simp] theorem putSet_inputs (k : SetIdx) (v : DirSet) : (s.putSet k v).inputs = s.inputs := rfl
@[simp] theorem putSet_now (k : SetIdx) (v : DirSet) : (s.putSet k v).now = s.now := rfl
@[simp] theorem putSet_out (k : SetIdx) (v : DirSet) : (s.putSet k v).out = s.out := rfl
@[simp] theorem putSet_resetAsserted (k : SetIdx) (v : DirSet) : (s.putSet k v).resetAsserted = s.resetAsserted := rfl
@[simp] theorem putSet_powerGood (k : SetIdx) (v : DirSet) : (s.putSet k v).powerGood = s.powerGood := rfl
@[simp] theorem putSet_timeBase (k : SetIdx) (v : DirSet) : (s.putSet k v).timeBase = s.timeBase := rfl
@[simp] theorem putSet_noticeNode (k : SetIdx) (v : DirSet) : (s.putSet k v).noticeNode = s.noticeNode := rfl
@[simp] theorem putSet_intakePos (k : SetIdx) (v : DirSet) : (s.putSet k v).intakePos = s.intakePos := rfl
@[simp] theorem putSet_refusalMarks (k : SetIdx) (v : DirSet) : (s.putSet k v).refusalMarks = s.refusalMarks := rfl
@[simp] theorem putSet_ports (k : SetIdx) (v : DirSet) : (s.putSet k v).ports = s.ports := rfl
@[simp] theorem putSet_nodes (k : SetIdx) (v : DirSet) : (s.putSet k v).nodes = s.nodes := rfl
@[simp] theorem putSet_regions (k : SetIdx) (v : DirSet) : (s.putSet k v).regions = s.regions := rfl
@[simp] theorem putSet_tt (k : SetIdx) (v : DirSet) : (s.putSet k v).tt = s.tt := rfl
@[simp] theorem putSet_hold (k : SetIdx) (v : DirSet) : (s.putSet k v).hold = s.hold := rfl
@[simp] theorem putSet_wb (k : SetIdx) (v : DirSet) : (s.putSet k v).wb = s.wb := rfl
@[simp] theorem putSet_mp0 (k : SetIdx) (v : DirSet) : (s.putSet k v).mp0 = s.mp0 := rfl
@[simp] theorem putSet_mp1 (k : SetIdx) (v : DirSet) : (s.putSet k v).mp1 = s.mp1 := rfl
@[simp] theorem putSet_jobs (k : SetIdx) (v : DirSet) : (s.putSet k v).jobs = s.jobs := rfl
@[simp] theorem putSet_slots (k : SetIdx) (v : DirSet) : (s.putSet k v).slots = s.slots := rfl
@[simp] theorem putSet_agent (k : SetIdx) (v : DirSet) : (s.putSet k v).agent = s.agent := rfl
@[simp] theorem putSet_controlQ (k : SetIdx) (v : DirSet) : (s.putSet k v).controlQ = s.controlQ := rfl

/-! ### `modMP` -/

@[simp] theorem modMP_pending (p : MPort) (f : MemPort → MemPort) : (s.modMP p f).pending = s.pending := by cases p <;> rfl
@[simp] theorem modMP_inputs (p : MPort) (f : MemPort → MemPort) : (s.modMP p f).inputs = s.inputs := by cases p <;> rfl
@[simp] theorem modMP_now (p : MPort) (f : MemPort → MemPort) : (s.modMP p f).now = s.now := by cases p <;> rfl
@[simp] theorem modMP_out (p : MPort) (f : MemPort → MemPort) : (s.modMP p f).out = s.out := by cases p <;> rfl
@[simp] theorem modMP_resetAsserted (p : MPort) (f : MemPort → MemPort) : (s.modMP p f).resetAsserted = s.resetAsserted := by cases p <;> rfl
@[simp] theorem modMP_powerGood (p : MPort) (f : MemPort → MemPort) : (s.modMP p f).powerGood = s.powerGood := by cases p <;> rfl
@[simp] theorem modMP_timeBase (p : MPort) (f : MemPort → MemPort) : (s.modMP p f).timeBase = s.timeBase := by cases p <;> rfl
@[simp] theorem modMP_noticeNode (p : MPort) (f : MemPort → MemPort) : (s.modMP p f).noticeNode = s.noticeNode := by cases p <;> rfl
@[simp] theorem modMP_intakePos (p : MPort) (f : MemPort → MemPort) : (s.modMP p f).intakePos = s.intakePos := by cases p <;> rfl
@[simp] theorem modMP_refusalMarks (p : MPort) (f : MemPort → MemPort) : (s.modMP p f).refusalMarks = s.refusalMarks := by cases p <;> rfl
@[simp] theorem modMP_ports (p : MPort) (f : MemPort → MemPort) : (s.modMP p f).ports = s.ports := by cases p <;> rfl
@[simp] theorem modMP_nodes (p : MPort) (f : MemPort → MemPort) : (s.modMP p f).nodes = s.nodes := by cases p <;> rfl
@[simp] theorem modMP_regions (p : MPort) (f : MemPort → MemPort) : (s.modMP p f).regions = s.regions := by cases p <;> rfl
@[simp] theorem modMP_dir (p : MPort) (f : MemPort → MemPort) : (s.modMP p f).dir = s.dir := by cases p <;> rfl
@[simp] theorem modMP_tt (p : MPort) (f : MemPort → MemPort) : (s.modMP p f).tt = s.tt := by cases p <;> rfl
@[simp] theorem modMP_hold (p : MPort) (f : MemPort → MemPort) : (s.modMP p f).hold = s.hold := by cases p <;> rfl
@[simp] theorem modMP_wb (p : MPort) (f : MemPort → MemPort) : (s.modMP p f).wb = s.wb := by cases p <;> rfl
@[simp] theorem modMP_jobs (p : MPort) (f : MemPort → MemPort) : (s.modMP p f).jobs = s.jobs := by cases p <;> rfl
@[simp] theorem modMP_slots (p : MPort) (f : MemPort → MemPort) : (s.modMP p f).slots = s.slots := by cases p <;> rfl
@[simp] theorem modMP_agent (p : MPort) (f : MemPort → MemPort) : (s.modMP p f).agent = s.agent := by cases p <;> rfl
@[simp] theorem modMP_controlQ (p : MPort) (f : MemPort → MemPort) : (s.modMP p f).controlQ = s.controlQ := by cases p <;> rfl

/-! ### The record that a setter changes, and the others of its kind -/

theorem modPort_port (n m : NodeId) (f : Port → Port) :
    (s.modPort n f).port m = if m = n then f (s.port n) else s.port m := by
  unfold State.port modPort
  by_cases h : m = n
  · subst h; simp [State.port]
  · have : n.val ≠ m.val := fun e => h (Fin.ext e.symm)
    simp [h, this]

@[simp] theorem modPort_port_self (n : NodeId) (f : Port → Port) : (s.modPort n f).port n = f (s.port n) := by
  simp [modPort_port]

theorem modPort_port_of_ne {n m : NodeId} (h : m ≠ n) (f : Port → Port) : (s.modPort n f).port m = s.port m := by
  simp [modPort_port, h]

theorem modNode_node (n m : NodeId) (f : NodeRec → NodeRec) :
    (s.modNode n f).node m = if m = n then f (s.node n) else s.node m := by
  unfold State.node modNode
  by_cases h : m = n
  · subst h; simp [State.node]
  · have : n.val ≠ m.val := fun e => h (Fin.ext e.symm)
    simp [h, this]

@[simp] theorem modNode_node_self (n : NodeId) (f : NodeRec → NodeRec) : (s.modNode n f).node n = f (s.node n) := by
  simp [modNode_node]

theorem modNode_node_of_ne {n m : NodeId} (h : m ≠ n) (f : NodeRec → NodeRec) : (s.modNode n f).node m = s.node m := by
  simp [modNode_node, h]

theorem modRegion_region (r q : RegionIdx) (f : Region → Region) :
    (s.modRegion r f).region q = if q = r then f (s.region r) else s.region q := by
  unfold State.region modRegion
  by_cases h : q = r
  · subst h; simp [State.region]
  · have : r.val ≠ q.val := fun e => h (Fin.ext e.symm)
    simp [h, this]

@[simp] theorem modRegion_region_self (r : RegionIdx) (f : Region → Region) :
    (s.modRegion r f).region r = f (s.region r) := by
  simp [modRegion_region]

theorem modSlot_slot (c d : CaptureClass) (f : CaptureSlot → CaptureSlot) :
    (s.modSlot c f).slot d = if d = c then f (s.slot c) else s.slot d := by
  cases c <;> cases d <;> simp [State.slot, modSlot, CaptureClass.index]

@[simp] theorem modSlot_slot_self (c : CaptureClass) (f : CaptureSlot → CaptureSlot) :
    (s.modSlot c f).slot c = f (s.slot c) := by
  simp [modSlot_slot]

theorem capture_slot (r : CaptureRecord) (k : CaptureClass) :
    (s.capture r).slot k = if k = r.reason.cls then (s.slot r.reason.cls).offer r else s.slot k :=
  modSlot_slot s _ _ _

theorem modTT_ttSlot (i j : TTIdx) (f : TTSlot → TTSlot) :
    (s.modTT i f).ttSlot j = if j = i then f (s.ttSlot i) else s.ttSlot j := by
  unfold State.ttSlot modTT
  by_cases h : j = i
  · subst h; simp [State.ttSlot]
  · have : i.val ≠ j.val := fun e => h (Fin.ext e.symm)
    simp [h, this]

@[simp] theorem modTT_ttSlot_self (i : TTIdx) (f : TTSlot → TTSlot) : (s.modTT i f).ttSlot i = f (s.ttSlot i) := by
  simp [modTT_ttSlot]

theorem setEntry_entry (i j : TTIdx) (o : Option TTEntry) :
    (s.setEntry i o).entry j = if j = i then o else s.entry j := by
  unfold State.entry setEntry
  rw [modTT_ttSlot]
  split <;> rfl

theorem modEntry_entry (i j : TTIdx) (f : TTEntry → TTEntry) :
    (s.modEntry i f).entry j = if j = i then (s.entry i).map f else s.entry j := by
  unfold State.entry modEntry
  rw [modTT_ttSlot]
  split <;> rfl

theorem setWB_wbEntry (w v : WBIdx) (o : Option WBEntry) :
    (s.setWB w o).wbEntry v = if v = w then o else s.wbEntry v := by
  unfold State.wbEntry setWB
  by_cases h : v = w
  · subst h; simp
  · have : w.val ≠ v.val := fun e => h (Fin.ext e.symm)
    simp [h, this]

theorem modMP_mp (p q : MPort) (f : MemPort → MemPort) : (s.modMP p f).mp q = if q = p then f (s.mp p) else s.mp q := by
  cases p <;> cases q <;> rfl

theorem enqueue_port (n m : NodeId) (p : Producer) (x : Msg) :
    (s.enqueue n p x).port m =
      if m = n then { s.port n with outbound := (s.port n).outbound ++ [⟨x, p⟩] } else s.port m :=
  modPort_port s n m _

/-- Reading a record reads its field. -/
theorem port_congr {s t : State} (h : t.ports = s.ports) (n : NodeId) : t.port n = s.port n := by
  simp [State.port, h]

theorem node_congr {s t : State} (h : t.nodes = s.nodes) (n : NodeId) : t.node n = s.node n := by
  simp [State.node, h]

theorem region_congr {s t : State} (h : t.regions = s.regions) (r : RegionIdx) : t.region r = s.region r := by
  simp [State.region, h]

theorem slot_congr {s t : State} (h : t.slots = s.slots) (c : CaptureClass) : t.slot c = s.slot c := by
  simp [State.slot, h]

end Sys2Proof.Machine.State
end

