-- ==== Sys2Proof/Laws/Work.lean ====
section
/-! SUPPORT. `Work`: the small updates of which all the bridge's own work inside a step is made. A property of `settle` is proved by induction over them. -/

namespace Sys2Proof.Machine

/-- A job that is not DONE. -/
def Job.live (j : Job) : Bool :=
  match j.phase with
  | .done _ _ => false
  | _ => true

/-- A change of the Directory keeps its canonical form, and keeps it sound (R36 to R38). -/
structure Directory.Keeps (d e : Directory) : Prop where
  wf : d.wf = true → e.wf = true
  sound : d.Sound → e.Sound

/-- The updates that the bridge's own work consists of; those of the Sweep Engine's jobs are among them when `sw`
holds. -/
inductive Work (sw : Prop) : State → State → Prop where
  | refl (s : State) : Work sw s s
  | trans {s t u : State} : Work sw s t → Work sw t u → Work sw s u
  | now (s : State) (x : StepInput) : Work sw s { s with now := x }
  | modTT (s : State) (i : TTIdx) (f : TTSlot → TTSlot) : Work sw s (s.modTT i f)
  | hold (s : State) (h : List HoldEntry) (le : h.length ≤ s.hold.length) : Work sw s { s with hold := h }
  | queueOp (s : State) (p : MPort) (op : MemOp) : Work sw s (s.modMP p fun x => x.queueOp op)
  | addWrite (s : State) (p : MPort) (w : WriteRec) (h : ∃ i r, w.owner = .tt i r) : Work sw s (s.modMP p fun x => x.addWrite w)
  | dir (s : State) (d : Directory) (h : s.dir.Keeps d) : Work sw s { s with dir := d }
  | outbound (s : State) (n : NodeId) (ms : List OutMsg) :
      Work sw s (s.modPort n fun q => { q with outbound := q.outbound ++ ms })
  | modSlot (s : State) (c : CaptureClass) (f : CaptureSlot → CaptureSlot)
      (h : ∀ t r, t.record = some r → (f t).record = some r) : Work sw s (s.modSlot c f)
  | jobs (s : State) (f : Job → Job) (h : ∀ j, (f j).kind = j.kind ∧ (f j).live = j.live) :
      Work sw s { s with jobs := s.jobs.map f }
  | agent (s : State) (a : AgentState) (h : s.agent ≠ .ready ∧ s.agent ≠ .replyPending) : Work sw s { s with agent := a }
  | phase (x : sw) (s : State) (k : JobKind) (p : JobPhase) (h : ∃ j ∈ s.jobs, j.kind = k ∧ j.live = true) : Work sw s (s.setPhase k p)
  | finish (x : sw) (s : State) (k : JobKind) (h : ∃ j ∈ s.jobs, j.kind = k ∧ j.live = true) :
      Work sw s ((s.setPhase k (.done .completed .pending)).applyOutcome k)

namespace Work

variable {sw : Prop}

theorem foldl {α : Type} {f : State → α → State} (hf : ∀ s a, Work sw s (f s a)) (l : List α) (s : State) :
    Work sw s (l.foldl f s) := by
  induction l generalizing s with
  | nil => exact refl s
  | cons a l ih => exact (hf s a).trans (ih (f s a))

/-! ### Setters -/

theorem setEntry (s : State) (i : TTIdx) (o : Option TTEntry) : Work sw s (s.setEntry i o) := modTT s i _
theorem modEntry (s : State) (i : TTIdx) (f : TTEntry → TTEntry) : Work sw s (s.modEntry i f) := modTT s i _
theorem modMemberFor (s : State) (i : TTIdx) (b : Block) (n : NodeId) (f : Member → Member) :
    Work sw s (s.modMemberFor i b n f) := modEntry s i _
theorem enqueue (s : State) (n : NodeId) (p : Producer) (m : Msg) : Work sw s (s.enqueue n p m) := outbound s n [⟨m, p⟩]
theorem setHeldReady (s : State) (b : Block) (r : Bool) : Work sw s (s.setHeldReady b r) := hold s _ (by simp)

/-! ### The Fault Capture Unit and the notices -/

theorem queueNotice (s : State) (c : CaptureClass) : Work sw s (s.queueNotice c) := by
  unfold State.queueNotice
  dsimp only
  split
  · split
    · exact refl s
    · split
      · exact trans (t := s.modSlot c _) (modSlot s c _ (fun _ _ x => by exact x)) (enqueue _ _ _ _)
      · split
        · exact trans (t := s.modSlot c _) (modSlot s c _ (fun _ _ x => by exact x)) (enqueue _ _ _ _)
        · exact refl s
  · exact refl s

theorem offer_record (t : CaptureSlot) (r x : CaptureRecord) (h : t.record = some x) : (t.offer r).record = some x := by
  unfold CaptureSlot.offer
  rw [h]
  dsimp only
  split <;> rfl

theorem capture (s : State) (r : CaptureRecord) : Work sw s (s.capture r) :=
  modSlot s _ _ fun t x h => offer_record t r x h

theorem offer (s : State) (r : CaptureRecord) : Work sw s (s.offer r) := (capture s r).trans (queueNotice _ _)

theorem queueJobNotices (s : State) : Work sw s s.queueJobNotices := by
  unfold State.queueJobNotices
  split
  · refine trans (outbound s _ _) (jobs (s.modPort s.noticeNode _) Job.noticeQueued fun j => ?_)
    unfold Job.noticeQueued
    split <;> simp_all [Job.live]
  · exact refl s

theorem flushNotices (s : State) : Work sw s s.flushNotices :=
  ((((queueNotice s _).trans (queueNotice _ _)).trans (queueNotice _ _)).trans (queueNotice _ _)).trans (queueJobNotices _)

/-! ### Messages of a TT entry -/

theorem queueTT (s : State) (i : TTIdx) (n : NodeId) (m : Msg) : Work sw s (s.queueTT i n m) := by
  unfold State.queueTT
  dsimp only
  have h : Work sw s ((s.enqueue n (.tt i) m).modTT i fun t => { t with pacing := t.pacing.add n }) :=
    (enqueue s n _ m).trans (modTT _ _ _)
  split
  · exact h.trans (modMemberFor _ _ _ _ _)
  · exact h

theorem sendTT (s : State) (i : TTIdx) (n : NodeId) (m : Msg) : Work sw s (s.sendTT i n m) := by
  unfold State.sendTT
  split
  · exact modEntry s i _
  · exact queueTT s i n m

theorem flushHeld (s : State) (i : TTIdx) (n : NodeId) : Work sw s (s.flushHeld i n) := by
  unfold State.flushHeld
  split
  · exact refl s
  · exact (modEntry s i _).trans (queueTT _ _ _ _)

theorem reply (s : State) (n : NodeId) (tag : ReqTag) (st : Status) (ws : List Word)
    (h : s.agent ≠ .ready ∧ s.agent ≠ .replyPending) : Work sw s (s.reply n tag st ws) := by
  unfold State.reply
  split
  · exact agent s _ h
  · exact (enqueue s n _ _).trans (agent _ _ h)

end Work
end Sys2Proof.Machine
end

