-- ==== Sys2Proof/Laws/Sets.lean ====
section
/-! SUPPORT. What a set of the Directory reads as, and the changes of one set that keep it sound (R36 to R38). -/

namespace Sys2Proof.Machine

/-! ### Reading a set -/

theorem mem_allWays (w : WayIdx) : w ∈ allWays := by revert w; decide

theorem DirSet.way_setWay (ds : DirSet) (w v : WayIdx) (x : Way) :
    (ds.setWay w x).way v = if v = w then x else ds.way v := by
  unfold DirSet.way DirSet.setWay
  by_cases h : v = w
  · subst h; simp
  · rw [if_neg h]
    show (ds.ways.set w.val x)[v.val] = ds.ways[v.val]
    exact Vector.getElem_set_ne _ _ fun e => h (Fin.ext e.symm)

@[simp] theorem DirSet.recency_setWay (ds : DirSet) (w : WayIdx) (x : Way) : (ds.setWay w x).recency = ds.recency := rfl

@[simp] theorem DirSet.way_recency (ds : DirSet) (l : List WayIdx) (w : WayIdx) :
    DirSet.way { ds with recency := l } w = ds.way w := rfl

@[simp] theorem DirSet.way_refresh (ds : DirSet) (w v : WayIdx) : (ds.refresh w).way v = ds.way v := rfl

theorem Way.entry?_eq_some (x : Way) (e : DirEntry) : x.entry? = some e ↔ x = .held e := by
  cases x <;> simp [Way.entry?]

/-- The HELD way that a lookup finds holds the block. -/
theorem DirSet.findHeld_some (ds : DirSet) (b : Block) (w : WayIdx) (e : DirEntry) (h : ds.findHeld b = some (w, e)) :
    ds.way w = .held e ∧ e.block = b := by
  obtain ⟨v, -, hv⟩ := List.exists_of_findSome?_eq_some h
  obtain ⟨f, hf, hb⟩ := Option.bind_eq_some_iff.mp hv
  split at hb
  · next hk =>
    cases hb
    exact ⟨(Way.entry?_eq_some _ _).mp hf, hk⟩
  · cases hb

/-- A lookup that finds none leaves no HELD way with the block. -/
theorem DirSet.findHeld_none (ds : DirSet) (b : Block) (h : ds.findHeld b = none) (w : WayIdx) (e : DirEntry)
    (hw : ds.way w = .held e) : e.block ≠ b := by
  intro hb
  have := List.findSome?_eq_none_iff.mp h w (mem_allWays w)
  rw [(Way.entry?_eq_some _ _).mpr hw] at this
  simp [hb] at this

theorem DirSet.findReserved_some (ds : DirSet) (i : TTIdx) (w : WayIdx) (h : ds.findReserved i = some w) :
    ∃ b, ds.way w = .reserved i b := by
  have := List.find?_some h
  split at this
  · next j b hb => exact ⟨b, by rw [hb, beq_iff_eq.mp this]⟩
  · cases this

theorem DirSet.firstEmpty_some (ds : DirSet) (w : WayIdx) (h : ds.firstEmpty = some w) : ds.way w = .empty :=
  beq_iff_eq.mp (List.find?_some (p := fun w => ds.way w == .empty) h)

/-! ### Holders -/

/-- An entry has a holder. -/
def Rights.held (r : Rights) : Prop := ∃ n, r.holders.has n = true

theorem NodeSet.has_of_ne (s : NodeSet) (h : s ≠ NodeSet.none) : ∃ n, NodeSet.has s n = true := by
  revert h; revert s; decide

theorem NodeSet.has_add (s : NodeSet) (n : NodeId) : NodeSet.has (NodeSet.add s n) n = true := by
  unfold NodeSet.has NodeSet.add
  rw [BitVec.getLsbD_or, Bool.or_eq_true]
  right
  revert n; decide

theorem NodeSet.has_only (n : NodeId) : NodeSet.has (NodeSet.only n) n = true := by revert n; decide

/-- What the steps of an update on the way of a block leave, if it is HELD: an entry of the block with a holder. -/
def Way.Good (b : Block) (x : Way) : Prop := ∀ e, x = .held e → e.block = b ∧ e.rights.held

theorem Way.good_step (b : Block) (vac x : Way) (u : UStep) (hv : vac.Good b) (hx : x.Good b) : (Way.step b vac x u).Good b := by
  cases x with
  | empty => exact nofun
  | reserved i c =>
    cases u with
    | addSharer n => rintro e ⟨⟩; exact ⟨rfl, n, NodeSet.has_only n⟩
    | makeOwner n => rintro e ⟨⟩; exact ⟨rfl, n, NodeSet.has_only n⟩
    | downgrade => exact nofun
    | remove n => exact nofun
  | held f =>
    obtain ⟨hb, hh⟩ := hx f rfl
    cases u with
    | addSharer n => rintro e ⟨⟩; exact ⟨hb, n, NodeSet.has_add _ n⟩
    | makeOwner n => rintro e ⟨⟩; exact ⟨hb, n, NodeSet.has_only n⟩
    | downgrade => rintro e ⟨⟩; exact ⟨hb, hh⟩
    | remove n =>
      unfold Way.step
      dsimp only
      split
      · exact hx
      · split
        · exact hv
        · next hne => rintro e ⟨⟩; exact ⟨hb, NodeSet.has_of_ne _ hne⟩

theorem Way.good_steps (b : Block) (vac x : Way) (us : List UStep) (hv : vac.Good b) (hx : x.Good b) :
    (us.foldl (Way.step b vac) x).Good b := by
  induction us generalizing x with
  | nil => exact hx
  | cons u us ih => exact ih _ (Way.good_step b vac x u hv hx)

/-- A removed entry leaves no HELD way. -/
theorem State.vacated_ne (s : State) (b : Block) (e : DirEntry) : s.vacated b ≠ .held e := by
  unfold State.vacated
  repeat' split
  all_goals exact nofun

/-! ### Changes of a set -/

namespace DirSet.Sound

variable {ds : DirSet} {k : SetIdx}

theorem empty (k : SetIdx) : DirSet.Sound DirSet.empty k := by
  have h : ∀ w, DirSet.empty.way w = .empty := by decide
  refine ⟨List.nodup_nil, fun w => ?_, fun w e x => ?_, fun w v e f x => ?_, fun w e x => ?_⟩
  · rw [h]; simp [DirSet.empty]
  all_goals (rw [h] at x; cases x)

/-- An entry changed in its place. -/
theorem change (h : ds.Sound k) (w : WayIdx) (e f : DirEntry) (hw : ds.way w = .held e) (hb : f.block = e.block)
    (hh : f.rights.held) : (ds.setWay w (.held f)).Sound k := by
  have way : ∀ v x, (ds.setWay w (.held f)).way v = .held x → v = w ∧ x = f ∨ v ≠ w ∧ ds.way v = .held x := by
    intro v x hv
    rw [DirSet.way_setWay] at hv
    split at hv
    · next hvw => cases hv; exact .inl ⟨hvw, rfl⟩
    · next hvw => exact .inr ⟨hvw, hv⟩
  refine ⟨h.nodup, fun v => ?_, fun v x hv => ?_, fun v u x y hv hu e' => ?_, fun v x hv => ?_⟩
  · rw [DirSet.recency_setWay, h.order, DirSet.way_setWay]
    split
    · next hvw => subst hvw; exact ⟨fun _ => ⟨f, rfl⟩, fun _ => ⟨e, hw⟩⟩
    · rfl
  · rcases way v x hv with ⟨-, rfl⟩ | ⟨-, hv⟩
    · rw [hb]; exact h.own w e hw
    · exact h.own v x hv
  · rcases way v x hv with ⟨p, q⟩ | ⟨-, hv'⟩ <;> rcases way u y hu with ⟨p', q'⟩ | ⟨-, hu'⟩
    · exact p.trans p'.symm
    · exact p ▸ h.once _ _ e y hw hu' (by rw [← e', q, hb])
    · exact p' ▸ h.once _ _ x e hv' hw (by rw [e', q', hb])
    · exact h.once _ _ x y hv' hu' e'
  · rcases way v x hv with ⟨-, rfl⟩ | ⟨-, hv⟩
    · exact hh
    · exact h.holder v x hv

/-- A way that becomes EMPTY or RESERVED, and leaves the order. -/
theorem vacate (h : ds.Sound k) (w : WayIdx) (x : Way) (hx : ∀ e, x ≠ .held e) : (ds.vacate w x).Sound k := by
  have way : ∀ v y, (ds.vacate w x).way v = .held y → v ≠ w ∧ ds.way v = .held y := by
    intro v y hv
    have hv : (ds.setWay w x).way v = .held y := hv
    rw [DirSet.way_setWay] at hv
    split at hv
    · exact absurd hv (hx y)
    · next hvw => exact ⟨hvw, hv⟩
  refine ⟨h.nodup.erase w, fun v => ?_, fun v y hv => h.own v y (way v y hv).2,
    fun v u y z hv hu => h.once v u y z (way v y hv).2 (way u z hu).2, fun v y hv => h.holder v y (way v y hv).2⟩
  show v ∈ ds.recency.erase w ↔ ∃ e, (ds.setWay w x).way v = .held e
  rw [h.nodup.mem_erase_iff, h.order, DirSet.way_setWay]
  split
  · next hvw => exact ⟨fun a => absurd hvw a.1, fun ⟨e, he⟩ => absurd he (hx e)⟩
  · next hvw => exact ⟨fun a => a.2, fun a => ⟨hvw, a⟩⟩

/-- A way that is not HELD and does not become so. -/
theorem aside (h : ds.Sound k) (w : WayIdx) (x : Way) (hw : ∀ e, ds.way w ≠ .held e) (hx : ∀ e, x ≠ .held e) :
    (ds.setWay w x).Sound k := by
  have e : ds.vacate w x = ds.setWay w x := by
    have : w ∉ ds.recency := fun m => by
      obtain ⟨e, he⟩ := (h.order w).mp m
      exact hw e he
    unfold DirSet.vacate
    rw [List.erase_of_not_mem this]
    rfl
  exact e ▸ h.vacate w x hx

/-- A HELD way moved to the front. -/
theorem refresh (h : ds.Sound k) (w : WayIdx) (e : DirEntry) (hw : ds.way w = .held e) : (ds.refresh w).Sound k := by
  refine ⟨List.nodup_cons.mpr ⟨fun m => absurd rfl (h.nodup.mem_erase_iff.mp m).1, h.nodup.erase w⟩, fun v => ?_, h.own, h.once, h.holder⟩
  show v ∈ w :: ds.recency.erase w ↔ ∃ e, ds.way v = .held e
  rw [List.mem_cons, h.nodup.mem_erase_iff, h.order]
  constructor
  · rintro (rfl | ⟨-, x⟩)
    · exact ⟨e, hw⟩
    · exact x
  · intro x
    by_cases hv : v = w
    · exact .inl hv
    · exact .inr ⟨hv, x⟩

/-- An entry entered in a way that was not HELD, at the front. -/
theorem enter (h : ds.Sound k) (w : WayIdx) (f : DirEntry) (hw : ∀ e, ds.way w ≠ .held e) (hk : setOf f.block = k)
    (hb : ∀ v e, ds.way v = .held e → e.block ≠ f.block) (hh : f.rights.held) : ((ds.setWay w (.held f)).refresh w).Sound k := by
  have way : ∀ v x, (ds.setWay w (.held f)).way v = .held x → v = w ∧ x = f ∨ v ≠ w ∧ ds.way v = .held x := by
    intro v x hv
    rw [DirSet.way_setWay] at hv
    split at hv
    · next hvw => cases hv; exact .inl ⟨hvw, rfl⟩
    · next hvw => exact .inr ⟨hvw, hv⟩
  have out : w ∉ ds.recency := fun m => by
    obtain ⟨e, he⟩ := (h.order w).mp m
    exact hw e he
  have er : ds.recency.erase w = ds.recency := List.erase_of_not_mem out
  refine ⟨?_, fun v => ?_, fun v x hv => ?_, fun v u x y hv hu e' => ?_, fun v x hv => ?_⟩
  · show (w :: ds.recency.erase w).Nodup
    rw [er]
    exact List.nodup_cons.mpr ⟨out, h.nodup⟩
  · show v ∈ w :: ds.recency.erase w ↔ ∃ e, (ds.setWay w (.held f)).way v = .held e
    rw [er, List.mem_cons, h.order, DirSet.way_setWay]
    split
    · next hvw => exact ⟨fun _ => ⟨f, rfl⟩, fun _ => .inl hvw⟩
    · next hvw => exact ⟨fun a => a.resolve_left hvw, .inr⟩
  · rcases way v x hv with ⟨-, rfl⟩ | ⟨-, hv⟩
    · exact hk
    · exact h.own v x hv
  · rcases way v x hv with ⟨p, q⟩ | ⟨-, hv'⟩ <;> rcases way u y hu with ⟨p', q'⟩ | ⟨-, hu'⟩
    · exact p.trans p'.symm
    · exact absurd (by rw [← e', q]) (hb u y hu')
    · exact absurd (by rw [e', q']) (hb v x hv')
    · exact h.once _ _ x y hv' hu' e'
  · rcases way v x hv with ⟨-, rfl⟩ | ⟨-, hv⟩
    · exact hh
    · exact h.holder v x hv

end DirSet.Sound
end Sys2Proof.Machine
end

