-- ==== Sys2Proof/Laws/Directory.lean ====
section
/-! SUPPORT. The Directory keeps its canonical form, and its requests do nothing else than change one set. -/

namespace Sys2Proof.Machine

/-- The sets that a change leaves listed are the changed set and sets listed before. -/
theorem Directory.mem_put (d : Directory) (k : SetIdx) (v : DirSet) (p : SetIdx × DirSet) (h : p ∈ d.put k v) :
    p = (k, v) ∨ p ∈ d := by
  induction d with
  | nil => unfold Directory.put at h; split at h <;> simp_all
  | cons q rest ih =>
    obtain ⟨m, u⟩ := q
    unfold Directory.put at h
    split at h
    · split at h
      · exact .inr (List.mem_cons_of_mem _ h)
      · rcases List.mem_cons.mp h with e | e
        · exact .inl e
        · exact .inr (List.mem_cons_of_mem _ e)
    · split at h
      · split at h
        · exact .inr h
        · rcases List.mem_cons.mp h with e | e
          · exact .inl e
          · exact .inr e
      · rcases List.mem_cons.mp h with e | e
        · exact .inr (e ▸ List.mem_cons_self)
        · exact (ih e).imp id (List.mem_cons_of_mem _)

/-- The canonical form of a list with a head. -/
theorem Directory.wf_cons (k : SetIdx) (v : DirSet) (rest : Directory) :
    Directory.wf ((k, v) :: rest) = true ↔ v ≠ DirSet.empty ∧ (∀ p ∈ rest, k < p.1) ∧ rest.wf = true := by
  simp [Directory.wf, List.all_eq_true, and_assoc]

/-- The canonical form is kept by every change of a set. -/
theorem Directory.put_wf (d : Directory) (k : SetIdx) (v : DirSet) (h : d.wf = true) : (d.put k v).wf = true := by
  induction d with
  | nil => unfold Directory.put; split <;> simp_all [Directory.wf]
  | cons p rest ih =>
    obtain ⟨m, u⟩ := p
    obtain ⟨hu, ha, hr⟩ := (Directory.wf_cons m u rest).mp h
    unfold Directory.put
    split
    · next e =>
      split
      · exact hr
      · next hv => exact (Directory.wf_cons _ _ _).mpr ⟨hv, e ▸ ha, hr⟩
    · next hne =>
      split
      · next hlt =>
        split
        · exact h
        · next hv =>
          refine (Directory.wf_cons _ _ _).mpr ⟨hv, fun p hp => ?_, h⟩
          rcases List.mem_cons.mp hp with e | e
          · rw [e]; exact hlt
          · exact lt_trans hlt (ha p e)
      · next hlt =>
        have hmk : m < k := lt_of_le_of_ne (not_lt.mp hlt) hne
        refine (Directory.wf_cons _ _ _).mpr ⟨hu, fun p hp => ?_, ih hr⟩
        rcases Directory.mem_put _ _ _ _ hp with e | e
        · rw [e]; exact hmk
        · exact ha p e

/-- A set below every listed one is not listed. -/
theorem Directory.get_below (d : Directory) (k : SetIdx) (h : ∀ p ∈ d, k < p.1) : d.get k = DirSet.empty := by
  induction d with
  | nil => rfl
  | cons p rest ih =>
    have hk := h p List.mem_cons_self
    rw [Directory.get, if_neg (by rintro rfl; exact absurd hk (lt_irrefl _))]
    exact ih fun q hq => h q (List.mem_cons_of_mem _ hq)

/-- What a set reads as after one set has been written back, in a Directory in canonical form. -/
theorem Directory.get_put (d : Directory) (k : SetIdx) (v : DirSet) (h : d.wf = true) (j : SetIdx) :
    (d.put k v).get j = if j = k then v else d.get j := by
  induction d with
  | nil =>
    unfold Directory.put
    split
    · next e => subst e; split <;> rfl
    · next e =>
      simp only [Directory.get]
      by_cases hj : j = k
      · rw [if_pos hj, if_pos hj.symm]
      · rw [if_neg hj, if_neg (Ne.symm hj)]
  | cons p rest ih =>
    obtain ⟨a, u⟩ := p
    obtain ⟨-, hr, hw⟩ := (Directory.wf_cons a u rest).mp h
    have ih := ih hw
    unfold Directory.put
    split
    · next e =>
      subst e
      split
      · next e =>
        subst e
        by_cases hj : j = a
        · rw [hj, if_pos rfl]; exact Directory.get_below _ _ hr
        · rw [if_neg hj]; simp only [Directory.get, if_neg (Ne.symm hj)]
      · simp only [Directory.get]
        by_cases hj : j = a
        · rw [if_pos hj, if_pos hj.symm]
        · rw [if_neg hj, if_neg (Ne.symm hj), if_neg (Ne.symm hj)]
    · next e =>
      split
      · next hlt =>
        have hb : Directory.get ((a, u) :: rest) k = DirSet.empty := Directory.get_below _ _ fun p hp => by
          rcases List.mem_cons.mp hp with rfl | hp
          · exact hlt
          · exact lt_trans hlt (hr p hp)
        split
        · next e =>
          subst e
          by_cases hj : j = k
          · rw [if_pos hj, hj, hb]
          · rw [if_neg hj]
        · simp only [Directory.get]
          by_cases hj : j = k
          · rw [if_pos hj, if_pos hj.symm]
          · rw [if_neg hj, if_neg (Ne.symm hj)]
      · simp only [Directory.get]
        rw [ih]
        by_cases hj : j = k
        · rw [hj, if_neg e, if_pos rfl]
          simp
        · rw [if_neg hj, if_neg hj]

/-- A set of the state's Directory after one set has been written back. -/
theorem State.dirSet_putSet (s : State) (k j : SetIdx) (v : DirSet) (h : s.dir.wf = true) :
    (s.putSet k v).dirSet j = if j = k then v else s.dirSet j := Directory.get_put _ _ _ h _

/-- A set of one node has that node alone. -/
theorem NodeSet.del_only (n : NodeId) : NodeSet.del (NodeSet.only n) n = NodeSet.none := by revert n; decide

/-- One set of the Directory changed, which stays sound. -/
theorem Directory.Keeps.put (d : Directory) (k : SetIdx) (v : DirSet) (h : d.Sound → DirSet.Sound v k) :
    d.Keeps (d.put k v) where
  wf := Directory.put_wf d k v
  sound x := ⟨Directory.put_wf d k v x.1, fun j => by
    rw [Directory.get_put d k v x.1 j]
    split
    · next e => exact e ▸ h x
    · exact x.2 j⟩

/-- A set of a sound Directory is sound. -/
theorem State.dirSet_sound (s : State) (h : s.dir.Sound) (k : SetIdx) : (s.dirSet k).Sound k := h.2 k

/-- An update leaves its set sound (R38, R40). -/
theorem State.update_sound (s : State) (i : TTIdx) (b : Block) (us : List UStep) (w : WayIdx)
    (hs : (s.dirSet (setOf b)).Sound (setOf b)) (hw : (s.dirSet (setOf b)).updateWay i b = some w) :
    DirSet.Sound
      (match ((s.dirSet (setOf b)).way w).entry?, (us.foldl (Way.step b (s.vacated b)) ((s.dirSet (setOf b)).way w)).entry? with
        | some e, some e' => if e.rights.grew e'.rights then
            ((s.dirSet (setOf b)).setWay w (us.foldl (Way.step b (s.vacated b)) ((s.dirSet (setOf b)).way w))).refresh w
          else (s.dirSet (setOf b)).setWay w (us.foldl (Way.step b (s.vacated b)) ((s.dirSet (setOf b)).way w))
        | none, some _ =>
            ((s.dirSet (setOf b)).setWay w (us.foldl (Way.step b (s.vacated b)) ((s.dirSet (setOf b)).way w))).refresh w
        | some _, none =>
            { (s.dirSet (setOf b)).setWay w (us.foldl (Way.step b (s.vacated b)) ((s.dirSet (setOf b)).way w)) with
              recency := (s.dirSet (setOf b)).recency.erase w }
        | none, none => (s.dirSet (setOf b)).setWay w (us.foldl (Way.step b (s.vacated b)) ((s.dirSet (setOf b)).way w)))
      (setOf b) := by
  generalize s.dirSet (setOf b) = ds at hs hw ⊢
  have old : (ds.way w).Good b ∧ ((∀ e, ds.way w ≠ .held e) → ∀ v e, ds.way v = .held e → e.block ≠ b) := by
    unfold DirSet.updateWay at hw
    split at hw
    · next v e hf =>
      cases hw
      obtain ⟨h1, h2⟩ := ds.findHeld_some b _ _ hf
      refine ⟨fun f hf => ?_, fun no => absurd h1 (no _)⟩
      rw [h1] at hf
      cases hf
      exact ⟨h2, hs.holder _ _ h1⟩
    · next hf =>
      obtain ⟨c, hc⟩ := ds.findReserved_some i w hw
      refine ⟨fun f hf => ?_, fun _ => ds.findHeld_none b hf⟩
      rw [hc] at hf
      cases hf
  have new := Way.good_steps b (s.vacated b) (ds.way w) us (fun e he => absurd he (s.vacated_ne b e)) old.1
  generalize us.foldl (Way.step b (s.vacated b)) (ds.way w) = x at new ⊢
  cases hx : x.entry? with
  | none =>
    have e : (match (ds.way w).entry?, (none : Option DirEntry) with
        | some e, some e' => if e.rights.grew e'.rights then (ds.setWay w x).refresh w else ds.setWay w x
        | none, some _ => (ds.setWay w x).refresh w
        | some _, none => { ds.setWay w x with recency := ds.recency.erase w }
        | none, none => ds.setWay w x) = ds.vacate w x := by
      cases ho : (ds.way w).entry? with
      | some e => rfl
      | none =>
        have out : w ∉ ds.recency := fun hm => by
          obtain ⟨e, he⟩ := (hs.order w).mp hm
          rw [he] at ho
          cases ho
        simp only [DirSet.vacate, List.erase_of_not_mem out]
        rfl
    refine e ▸ hs.vacate w x fun f hf => ?_
    rw [hf] at hx
    cases hx
  | some f =>
    have hxf := (Way.entry?_eq_some x f).mp hx
    obtain ⟨fb, fh⟩ := new f hxf
    rw [hxf]
    cases ho : (ds.way w).entry? with
    | none =>
      have no : ∀ e, ds.way w ≠ .held e := fun e he => by rw [he] at ho; cases ho
      exact hs.enter w f no (by rw [fb]) (fun v e he => fb ▸ old.2 no v e he) fh
    | some e =>
      have hwe := (Way.entry?_eq_some _ e).mp ho
      have base := hs.change w e f hwe (by rw [fb, (old.1 e hwe).1]) fh
      dsimp only
      split
      · exact base.refresh w f (by rw [DirSet.way_setWay, if_pos rfl])
      · exact base

namespace Work

variable {sw : Prop}

theorem putSet (s : State) (k : SetIdx) (v : DirSet) (h : (s.dirSet k).Sound k → v.Sound k) : Work sw s (s.putSet k v) :=
  dir s _ (.put s.dir k v fun x => h (x.2 k))

theorem removeEntry (s : State) (b : Block) : Work sw s (s.removeEntry b) := by
  unfold State.removeEntry
  dsimp only
  split
  · exact refl s
  · exact putSet s _ _ fun h => h.vacate _ _ (s.vacated_ne b)

theorem removeHolder (s : State) (n : NodeId) (b : Block) : Work sw s (s.removeHolder n b) := by
  unfold State.removeHolder
  dsimp only
  split
  · exact refl s
  · next w e hf =>
    obtain ⟨hw, -⟩ := DirSet.findHeld_some _ b w e hf
    split
    · exact refl s
    · split
      · exact removeEntry s b
      · split
        · exact removeEntry s b
        · next hne => exact putSet s _ _ fun h => h.change w e _ hw rfl (NodeSet.has_of_ne _ hne)

theorem applyUpdate (s : State) (i : TTIdx) (b : Block) (us : List UStep) : Work sw s (s.applyUpdate i b us) := by
  unfold State.applyUpdate
  dsimp only
  split
  · exact refl s
  · next w hw => exact putSet s _ _ fun h => s.update_sound i b us w h hw

theorem giveBack (s : State) (i : TTIdx) (b : Block) : Work sw s (s.giveBack i b) := by
  unfold State.giveBack
  dsimp only
  split
  · exact refl s
  · next w hw =>
    obtain ⟨c, hc⟩ := DirSet.findReserved_some _ i w hw
    exact putSet s _ _ fun h => h.aside w _ (fun e => by rw [hc]; exact nofun) nofun

theorem takeCheck (s : State) : Work sw s s.takeCheck.2 := by
  unfold State.takeCheck
  split
  · exact refl s
  · exact now s _

theorem takeCheck_dirSet (s : State) (k : SetIdx) : s.takeCheck.2.dirSet k = s.dirSet k := by
  unfold State.takeCheck
  split <;> rfl

theorem readHeld (s : State) (k : SetIdx) (w : WayIdx) (e : DirEntry) (hw : (s.dirSet k).way w = .held e) :
    Work sw s (s.readHeld k w e).2 := by
  unfold State.readHeld
  dsimp only
  split
  · exact (takeCheck s).trans (putSet _ _ _ fun h => h.change w e _ (by rw [takeCheck_dirSet]; exact hw) rfl
      (h.holder w e (by rw [takeCheck_dirSet]; exact hw)))
  · exact takeCheck s

theorem lookup (s : State) (i : TTIdx) (b : Block) (needsNew : Bool) : Work sw s (s.lookup i b needsNew).2 := by
  unfold State.lookup
  dsimp only
  split
  · next w e hf => exact readHeld s _ w e (DirSet.findHeld_some _ b w e hf).1
  · split
    · exact refl s
    · split
      · next w hw =>
        exact putSet s _ _ fun h => h.aside w _ (fun e => by rw [DirSet.firstEmpty_some _ w hw]; exact nofun) nofun
      · split
        · exact refl s
        · next w e hc =>
          refine (readHeld s _ w e ?_).trans (setHeldReady _ _ _)
          obtain ⟨v, -, hv⟩ := List.exists_of_findSome?_eq_some hc
          obtain ⟨f, hf, hb⟩ := Option.bind_eq_some_iff.mp hv
          split at hb
          · cases hb
          · cases hb
            exact (Way.entry?_eq_some _ _).mp hf

end Work
end Sys2Proof.Machine
end

