-- ==== Sys2Proof/Laws/Settle.lean ====
section
/-! SUPPORT. Every operation of a TT entry, the Sweep Engine and the allocator is `Work`, and so is `settle`. -/

namespace Sys2Proof.Machine.Work

variable {sw : Prop}

/-! ### Memory operations -/

theorem placeWrite (s : State) (i : TTIdx) (r : Role) (mp : MPort) (a : MemAddr) (d : BlockData) :
    Work sw s (s.placeWrite (.tt i r) mp a d) := by
  cases mp
  · exact (addWrite s .mp0 _ ⟨i, r, rfl⟩).trans (queueOp _ .mp0 _)
  · exact (addWrite s .mp1 _ ⟨i, r, rfl⟩).trans (queueOp _ .mp1 _)

theorem writeTT (s : State) (i : TTIdx) (r : Role) (d : BlockData) : Work sw s (s.writeTT i r d) := by
  unfold State.writeTT
  split
  · exact refl s
  · exact (placeWrite s _ _ _ _ _).trans (modEntry _ _ _)

theorem placeRead (s : State) (i : TTIdx) (mp : MPort) (a : MemAddr) (b : Bool) : Work sw s (s.placeRead i mp a b) := by
  unfold State.placeRead
  split
  · exact modEntry s i _
  · exact trans (queueOp s mp _) (modEntry _ i _)

theorem readTT (s : State) (i : TTIdx) : Work sw s (s.readTT i) := by
  unfold State.readTT
  split
  · exact refl s
  · exact placeRead s _ _ _ _

/-! ### Recalls -/

theorem resolveAtFence (s : State) (i : TTIdx) (r : Role) (n : NodeId) : Work sw s (s.resolveAtFence i r n) := by
  unfold State.resolveAtFence
  split
  · exact refl s
  · split
    · exact refl s
    · split
      · exact modEntry s i _
      · split
        · exact (modEntry s i _).trans (offer _ _)
        · exact modEntry s i _

theorem sendRecall (s : State) (i : TTIdx) (r : Role) (b : Block) (m : NodeId × RecallKind) :
    Work sw s (s.sendRecall i r b m) := by
  unfold State.sendRecall
  split
  · exact resolveAtFence s i r _
  · exact sendTT s i _ _

theorem formRecalls (s : State) (i : TTIdx) (r : Role) (b : Block) (ms : List (NodeId × RecallKind)) :
    Work sw s (s.formRecalls i r b ms) :=
  trans (modEntry s i _) (foldl (fun s m => sendRecall s i r b m) ms _)

theorem recallAll (s : State) (i : TTIdx) (r : Role) (b : Block) : Work sw s (s.recallAll i r b) := formRecalls s i r b _

/-! ### The flow of an entry -/

theorem complete (s : State) (i : TTIdx) : Work sw s (s.complete i) := by
  unfold State.complete
  split
  · exact refl s
  · dsimp only
    split
    · exact trans (trans (modEntry s i _) (modEntry _ i _)) (writeTT _ _ _ _)
    · exact trans (modEntry s i _) (modEntry _ i _)

theorem beginRead (s : State) (i : TTIdx) : Work sw s (s.beginRead i) := (modEntry s i _).trans (readTT _ _)

theorem afterRecalls (s : State) (i : TTIdx) : Work sw s (s.afterRecalls i) := by
  unfold State.afterRecalls
  split
  · exact refl s
  · split
    · exact beginRead s i
    · exact complete s i

theorem readBeside (s : State) (i : TTIdx) (e : TTEntry) : Work sw s (s.readBeside i e) := by
  unfold State.readBeside
  split
  · exact readTT s i
  · exact refl s

theorem enterFlow (s : State) (i : TTIdx) (e : TTEntry) : Work sw s (s.enterFlow i e) := by
  unfold State.enterFlow
  split
  · exact modEntry s _ _
  · split
    · exact modEntry s _ _
    · split
      · split
        · exact beginRead s i
        · exact complete s i
      · exact trans (trans (modEntry s i _) (formRecalls _ i _ _ _)) (readBeside _ i e)

theorem beginFlow (s : State) (i : TTIdx) : Work sw s (s.beginFlow i) := by
  unfold State.beginFlow
  split
  · exact refl s
  · exact trans (modEntry s i _) (enterFlow _ i _)

theorem recallVictim (s : State) (i : TTIdx) (d : DirEntry) : Work sw s (s.recallVictim i d) := by
  unfold State.recallVictim
  split
  · exact recallAll s _ _ _
  · exact formRecalls s _ _ _ _

theorem beginEviction (s : State) (i : TTIdx) (w : WayIdx) (d : DirEntry) : Work sw s (s.beginEviction i w d) :=
  trans (modEntry s i _) (recallVictim _ i d)

theorem beginRepair (s : State) (i : TTIdx) (b : Block) : Work sw s (s.beginRepair i b) :=
  trans (modEntry s i _) (recallAll _ i _ b)

theorem afterLookup (s : State) (i : TTIdx) (b : Block) (r : LookupResult) : Work sw s (s.afterLookup i b r) := by
  unfold State.afterLookup
  split
  · split
    · exact beginRepair s i b
    · exact beginFlow s i
  · exact beginEviction s i _ _
  · exact beginFlow s i

theorem beginEntry (s : State) (i : TTIdx) (e : TTEntry) : Work sw s (s.beginEntry i e) := by
  unfold State.beginEntry
  split
  · exact trans (trans (lookup s i e.block e.kind.keepsWay) (modEntry _ i _)) (afterLookup _ i _ _)
  · exact beginFlow s i

theorem startEntry (s : State) (i : TTIdx) (e : TTEntry) : Work sw s (s.startEntry i e) :=
  trans (setEntry s i _) (beginEntry _ i e)

theorem startHeld (s : State) (i : TTIdx) (q : Request) : Work sw s (s.startHeld i q) := by
  unfold State.startHeld
  split
  · exact startEntry s i _
  · exact setEntry s i _

theorem startReclaim (s : State) (i : TTIdx) (x : Starter) (b : Block) : Work sw s (s.startReclaim i x b) := startEntry s i _

theorem startPoison (s : State) (i : TTIdx) (w : WayIdx) (d : DirEntry) : Work sw s (s.startPoison i w d) :=
  trans (setEntry s i _) (beginFlow _ i)

theorem settleRepair (s : State) (i : TTIdx) (r : Role) (e : TTEntry) (b : Block) : Work sw s (s.settleRepair i r e b) := by
  unfold State.settleRepair
  split
  · exact writeTT s _ _ _
  · exact refl s
  · exact trans (writeTT s i r _) (offer _ _)
  · exact refl s

theorem endRepair (s : State) (i : TTIdx) (r : Role) (e : TTEntry) (b : Block) : Work sw s (s.endRepair i r e b) :=
  trans (trans (trans (removeEntry s b) (offer _ _)) (modEntry _ i _)) (settleRepair _ i r e b)

theorem writeVictim (s : State) (i : TTIdx) (e : TTEntry) : Work sw s (s.writeVictim i e) := by
  unfold State.writeVictim
  split
  · exact writeTT s _ _ _
  · exact refl s

theorem endEviction (s : State) (i : TTIdx) (e : TTEntry) (b : Block) : Work sw s (s.endEviction i e b) :=
  trans (trans (removeEntry s b) (modEntry _ i _)) (writeVictim _ i e)

theorem endVictim (s : State) (i : TTIdx) (e : TTEntry) (v : Victim) : Work sw s (s.endVictim i e v) := by
  unfold State.endVictim
  split
  · exact endRepair s _ _ _ _
  · exact endEviction s _ _ _

theorem sendAnswer (s : State) (i : TTIdx) (e : TTEntry) (n : NodeId) (tag : ReqTag) : Work sw s (s.sendAnswer i e n tag) := by
  unfold State.sendAnswer
  split
  · exact refl s
  · exact sendTT s _ _ _

theorem captureVerdict (s : State) (i : TTIdx) (e : TTEntry) (n : NodeId) : Work sw s (s.captureVerdict i e n) := by
  unfold State.captureVerdict
  split
  · exact offer s _
  · exact offer s _
  · exact refl s

theorem answer (s : State) (i : TTIdx) : Work sw s (s.answer i) := by
  unfold State.answer
  split
  · exact refl s
  · split
    · exact refl s
    · exact trans (sendAnswer s i _ _ _) (captureVerdict _ i _ _)

theorem respondUpdate (s : State) (i : TTIdx) (e : TTEntry) : Work sw s (s.respondUpdate i e) := by
  unfold State.respondUpdate
  split
  all_goals try exact refl s
  split
  · exact removeEntry s _
  · split
    · exact refl s
    · exact trans (applyUpdate s i _ _) (modEntry _ _ _)

theorem respondReclaim (s : State) (i : TTIdx) (e : TTEntry) : Work sw s (s.respondReclaim i e) := by
  unfold State.respondReclaim
  split
  · split
    · exact refl s
    · exact trans (removeEntry s _) (modEntry _ _ _)
  · exact refl s

theorem respondPoison (s : State) (e : TTEntry) : Work sw s (s.respondPoison e) := trans (removeEntry s _) (offer _ _)

theorem respondKind (s : State) (i : TTIdx) (e : TTEntry) : Work sw s (s.respondKind i e) := by
  unfold State.respondKind
  split
  · exact trans (respondUpdate s i e) (answer _ i)
  · exact respondReclaim s i e
  · exact respondPoison s e

theorem respond (s : State) (i : TTIdx) (e : TTEntry) : Work sw s (s.respond i e) := by
  unfold State.respond
  split
  · exact trans (modEntry s i _) (beginRead _ i)
  · exact trans (respondKind s i e) (modEntry _ i _)

theorem reportReclaim (s : State) (i : TTIdx) (e : TTEntry) : Work sw s (s.reportReclaim i e) := by
  unfold State.reportReclaim
  split
  · next e =>
    split
    · exact reply s _ _ _ _ (by rw [e]; exact ⟨AgentState.noConfusion, AgentState.noConfusion⟩)
    · exact refl s
  · exact refl s

theorem freeVictim (s : State) (e : TTEntry) : Work sw s (s.freeVictim e) := by
  unfold State.freeVictim
  split
  · exact setHeldReady s _ _
  · exact refl s

theorem tellWalk (s : State) (i : TTIdx) (e : TTEntry) : Work sw s (s.tellWalk i e) := by
  refine jobs s _ fun j => ?_
  unfold Job.modWalk
  split <;> simp_all [Job.live]

theorem handOff (s : State) (i : TTIdx) (b : Block) : Work sw s (s.handOff i b) := by
  unfold State.handOff
  split
  · exact trans (hold s _ List.eraseP_sublist.length_le) (startHeld _ i _)
  · exact setEntry s i _

theorem retire (s : State) (i : TTIdx) (e : TTEntry) : Work sw s (s.retire i e) :=
  trans (trans (trans (trans (reportReclaim s i e) (giveBack _ i _)) (freeVictim _ e)) (tellWalk _ i e)) (handOff _ i _)

theorem entryStep (s t : State) (i : TTIdx) (h : s.entryStep i = some t) : Work sw s t := by
  unfold State.entryStep at h
  split at h
  · cases h
  · split at h
    · cases h
    · split at h <;> (try split at h) <;> (try split at h) <;> (try split at h) <;> cases h
      all_goals first
        | exact beginFlow s i
        | exact endRepair s i _ _ _
        | exact endVictim s i _ _
        | exact afterRecalls s i
        | exact complete s i
        | exact modEntry s i _
        | exact respond s i _
        | exact retire s i _

/-! ### The Sweep Engine -/

/-- The running job is on the list and is not DONE. -/
theorem live_of_running (s : State) (j : Job) (h : s.runningJob = some j) : ∃ x ∈ s.jobs, x.kind = j.kind ∧ x.live = true := by
  refine ⟨j, List.mem_of_find?_eq_some h, rfl, ?_⟩
  have := List.find?_some h
  unfold Job.running at this
  unfold Job.live
  split at this <;> simp_all

/-- The job that begins is on the list and is not DONE. -/
theorem live_of_queued (s : State) (j : Job) (h : s.jobs.find? Job.isQueued = some j) :
    ∃ x ∈ s.jobs, x.kind = j.kind ∧ x.live = true := by
  refine ⟨j, List.mem_of_find?_eq_some h, rfl, ?_⟩
  have := List.find?_some h
  simp only [Job.isQueued, beq_iff_eq] at this
  simp [Job.live, this]

theorem jobDone (s : State) (k : JobKind) (h : ∃ j ∈ s.jobs, j.kind = k ∧ j.live = true) : Work True s (s.jobDone k) :=
  (finish trivial s k h).trans (queueJobNotices _)

theorem removeHolder_jobs (s : State) (n : NodeId) (b : Block) : (s.removeHolder n b).jobs = s.jobs := by
  unfold State.removeHolder State.removeEntry
  dsimp only
  repeat' split
  all_goals rfl

theorem removeSharers_jobs (s : State) (k : JobKind) (pos : SetIdx) : (s.removeSharers k pos).jobs = s.jobs := by
  unfold State.removeSharers
  split
  · next n =>
    generalize s.waysToAct _ _ = l
    suffices h : ∀ (l : List (WayIdx × DirEntry)) (t : State), (l.foldl (fun t p =>
        if p.2.failed || (JobKind.fenceNode n).needsEntry p.2 || s.claimed p.2.block then t
        else t.removeHolder n p.2.block) t).jobs = t.jobs from h l s
    intro l
    induction l with
    | nil => intro t; rfl
    | cons p l ih =>
      intro t
      rw [List.foldl_cons, ih]
      split
      · rfl
      · exact removeHolder_jobs t _ _
  · rfl

theorem removeSharers (s : State) (k : JobKind) (pos : SetIdx) : Work sw s (s.removeSharers k pos) := by
  unfold State.removeSharers
  split
  · refine foldl (fun t p => ?_) _ s
    split
    · exact refl t
    · exact removeHolder t _ _
  · exact refl s

theorem readSet (s : State) (k : JobKind) (w : Walk) (h : ∃ j ∈ s.jobs, j.kind = k ∧ j.live = true) :
    Work True s (s.readSet k w) :=
  trans (removeSharers s k w.pos) (phase trivial _ k _ (by rwa [removeSharers_jobs]))

theorem startForWalk (s : State) (i : TTIdx) (k : JobKind) (w : WayIdx) (e : DirEntry) : Work sw s (s.startForWalk i k w e) := by
  unfold State.startForWalk
  split
  · exact startPoison s i w e
  · exact startReclaim s i _ _

theorem grantSweep (s : State) (i : TTIdx) (k : JobKind) (w : Walk)
    (h : ∃ j ∈ s.jobs, j.kind = k ∧ j.live = true) : Work True s (s.grantSweep i k w) := by
  unfold State.grantSweep
  split
  · exact phase trivial s k _ h
  · exact trans (phase trivial s k _ h) (startForWalk _ i k _ _)

theorem beginJob (s : State) (k : JobKind) (h : ∃ j ∈ s.jobs, j.kind = k ∧ j.live = true) : Work True s (s.beginJob k) := by
  unfold State.beginJob
  split <;> exact phase trivial s _ _ h

theorem sweepStep (s t : State) (h : s.sweepStep = some t) : Work True s t := by
  unfold State.sweepStep at h
  split at h
  · obtain ⟨j, hj, rfl⟩ := Option.map_eq_some_iff.mp h
    exact beginJob s _ (live_of_queued s j hj)
  · next j hj =>
    have live := live_of_running s j hj
    split at h
    · split at h
      · cases h
        split
        · exact jobDone s _ live
        · exact phase trivial s _ _ live
      · cases h
    · split at h
      · split at h
        · cases h; exact jobDone s _ live
        · cases h
      · split at h
        · cases h; exact readSet s _ _ live
        · cases h
    · cases h

/-! ### The allocator and the whole -/

theorem grantHeld (s : State) (i : TTIdx) (q : Request) : Work sw s (s.grantHeld i q) :=
  trans (trans (hold s _ List.eraseP_sublist.length_le) (setHeldReady _ q.block false))
    (startHeld _ i q)

theorem grantAgent (s : State) (i : TTIdx) (c : ReclaimCmd) (h : s.agent ≠ .ready ∧ s.agent ≠ .replyPending) :
    Work sw s (s.grantAgent i c) := by
  unfold State.grantAgent
  split
  · exact trans (agent s _ h) (startReclaim _ i _ _)
  · exact reply s _ _ _ _ h

theorem allocStep (s t : State) (h : s.allocStep = some t) : Work True s t := by
  unfold State.allocStep at h
  split at h
  · cases h
  · split at h
    · cases h; exact grantHeld s _ _
    · split at h
      · next k w hk =>
        cases h
        refine grantSweep s _ _ _ ?_
        obtain ⟨j, hj, e⟩ := Option.bind_eq_some_iff.mp hk
        have live := live_of_running s j hj
        split at e
        · split at e
          · cases e; exact live
          · cases e
        · cases e
      · obtain ⟨c, hc, rfl⟩ := Option.map_eq_some_iff.mp h
        refine grantAgent s _ _ ?_
        unfold State.agentClaim at hc
        split at hc
        · next e => rw [e]; exact ⟨AgentState.noConfusion, AgentState.noConfusion⟩
        · cases hc

theorem entryAct (s t : State) (h : s.entryAct = some t) : Work sw s t := by
  obtain ⟨i, -, e⟩ := List.exists_of_findSome?_eq_some h
  exact entryStep s t i e

theorem act (s t : State) (h : s.act = some t) : Work True s t := by
  unfold State.act at h
  cases h1 : s.sweepStep with
  | some u => rw [h1] at h; cases h; exact sweepStep s _ h1
  | none =>
    cases h2 : s.allocStep with
    | some u => rw [h1, h2] at h; cases h; exact allocStep s _ h2
    | none => rw [h1, h2] at h; exact entryAct s t h

theorem settleWith (n : Nat) (s : State) : Work True s (settleWith n s) := by
  induction n generalizing s with
  | zero => exact refl s
  | succ n ih =>
    unfold Machine.settleWith
    cases h : s.act with
    | none => exact refl s
    | some t => exact (act s t h).trans (ih t)

/-- All that the bridge does of its own accord inside one step. -/
theorem settle (s : State) : Work True s s.settle := settleWith _ s

end Sys2Proof.Machine.Work
end

