-- ==== Sys2Proof/Laws/Calm.lean ====
section
/-! SUPPORT. `Calm`: all that the bridge's own work inside a step can do to the rest of the machine, as one relation between the state before and the state after. -/

namespace Sys2Proof.Machine

/-- The inboxes, the credits and the node state are as they were, or the node has become OFFLINE with empty inboxes
and no credits (a completed quiesce, R140). -/
def Calm.Inbox (p q : Port) (a b : NodeState) : Prop :=
  (b = a ∧ q.requests = p.requests ∧ q.returns = p.returns ∧ q.requestCredits = p.requestCredits ∧
      q.returnCredits = p.returnCredits) ∨
    (b = .offline ∧ q.requests = [] ∧ q.returns = [] ∧ q.requestCredits = 0 ∧ q.returnCredits = 0)

/-- What the bridge's own work can do. -/
structure Calm (s t : State) : Prop where
  pending : t.pending = s.pending
  inputs : t.inputs = s.inputs
  out : t.out = s.out
  resetAsserted : t.resetAsserted = s.resetAsserted
  powerGood : t.powerGood = s.powerGood
  timeBase : t.timeBase = s.timeBase
  noticeNode : t.noticeNode = s.noticeNode
  intakePos : t.intakePos = s.intakePos
  refusalMarks : t.refusalMarks = s.refusalMarks
  controlQ : t.controlQ = s.controlQ
  link : ∀ n, (t.port n).link = (s.port n).link
  outbound : ∀ n, ∃ ms, (t.port n).outbound = (s.port n).outbound ++ ms
  inbox : ∀ n, Calm.Inbox (s.port n) (t.port n) (s.node n).state (t.node n).state
  node : ∀ n, { t.node n with state := (s.node n).state } = s.node n
  region : ∀ r, t.region r = s.region r ∨ t.region r = { s.region r with state := .closed }
  record : ∀ c r, (s.slot c).record = some r → (t.slot c).record = some r
  dir : s.dir.Keeps t.dir
  tags : ∀ p, (t.mp p).tags = (s.mp p).tags
  timeout : ∀ p, (t.mp p).timeout = (s.mp p).timeout
  issueQ : ∀ p, ∃ ops, (t.mp p).issueQ = (s.mp p).issueQ ++ ops
  wb : t.wb = s.wb
  wbWrites : ∀ p w, (∀ x ∈ (s.mp p).writes, x.owner ≠ .wb w) → ∀ x ∈ (t.mp p).writes, x.owner ≠ .wb w
  hold : t.hold.length ≤ s.hold.length
  jobKinds : t.jobs.map (·.kind) = s.jobs.map (·.kind)
  agent : s.agent = .ready ∨ s.agent = .replyPending → t.agent = s.agent

namespace Calm

theorem Inbox.refl (p : Port) (a : NodeState) : Inbox p p a a := .inl ⟨rfl, rfl, rfl, rfl, rfl⟩

theorem Inbox.trans {p q r : Port} {a b c : NodeState} (h : Inbox p q a b) (k : Inbox q r b c) : Inbox p r a c := by
  rcases k with ⟨rfl, k1, k2, k3, k4⟩ | k
  · rcases h with ⟨rfl, h1, h2, h3, h4⟩ | ⟨rfl, h1, h2, h3, h4⟩
    · exact .inl ⟨rfl, k1.trans h1, k2.trans h2, k3.trans h3, k4.trans h4⟩
    · exact .inr ⟨rfl, k1.trans h1, k2.trans h2, k3.trans h3, k4.trans h4⟩
  · exact .inr k

theorem refl (s : State) : Calm s s where
  pending := rfl
  inputs := rfl
  out := rfl
  resetAsserted := rfl
  powerGood := rfl
  timeBase := rfl
  noticeNode := rfl
  intakePos := rfl
  refusalMarks := rfl
  controlQ := rfl
  link _ := rfl
  outbound _ := ⟨[], by simp⟩
  inbox _ := .refl _ _
  node _ := rfl
  region _ := .inl rfl
  record _ _ h := h
  dir := ⟨id, id⟩
  tags _ := rfl
  timeout _ := rfl
  issueQ _ := ⟨[], by simp⟩
  wb := rfl
  wbWrites _ _ h := h
  hold := le_refl _
  jobKinds := rfl
  agent _ := rfl

theorem trans {s t u : State} (h : Calm s t) (k : Calm t u) : Calm s u where
  pending := k.pending.trans h.pending
  inputs := k.inputs.trans h.inputs
  out := k.out.trans h.out
  resetAsserted := k.resetAsserted.trans h.resetAsserted
  powerGood := k.powerGood.trans h.powerGood
  timeBase := k.timeBase.trans h.timeBase
  noticeNode := k.noticeNode.trans h.noticeNode
  intakePos := k.intakePos.trans h.intakePos
  refusalMarks := k.refusalMarks.trans h.refusalMarks
  controlQ := k.controlQ.trans h.controlQ
  link n := (k.link n).trans (h.link n)
  outbound n := by
    obtain ⟨a, ha⟩ := h.outbound n
    obtain ⟨b, hb⟩ := k.outbound n
    exact ⟨a ++ b, by rw [hb, ha, List.append_assoc]⟩
  inbox n := (h.inbox n).trans (k.inbox n)
  node n := by
    have h1 := h.node n
    have h2 := k.node n
    rw [← h1, ← h2]
  region r := by
    rcases k.region r with e | e <;> rcases h.region r with e' | e' <;> rw [e, e'] <;> simp
  record c r x := k.record c r (h.record c r x)
  dir := ⟨fun x => k.dir.wf (h.dir.wf x), fun x => k.dir.sound (h.dir.sound x)⟩
  tags p := (k.tags p).trans (h.tags p)
  timeout p := (k.timeout p).trans (h.timeout p)
  issueQ p := by
    obtain ⟨a, ha⟩ := h.issueQ p
    obtain ⟨b, hb⟩ := k.issueQ p
    exact ⟨a ++ b, by rw [hb, ha, List.append_assoc]⟩
  wb := k.wb.trans h.wb
  wbWrites p w x := k.wbWrites p w (h.wbWrites p w x)
  hold := le_trans k.hold h.hold
  jobKinds := k.jobKinds.trans h.jobKinds
  agent x := (k.agent (h.agent x ▸ x)).trans (h.agent x)

/-! ### The updates of `Work` -/

theorem modMP (s : State) (p : MPort) (f : MemPort → MemPort) (ht : ∀ x, (f x).tags = x.tags)
    (hd : ∀ x, (f x).timeout = x.timeout) (hq : ∀ x, ∃ ops, (f x).issueQ = x.issueQ ++ ops)
    (hw : ∀ x w, (∀ v ∈ x.writes, v.owner ≠ .wb w) → ∀ v ∈ (f x).writes, v.owner ≠ .wb w) : Calm s (s.modMP p f) := by
  have e : ∀ q, (s.modMP p f).mp q = if q = p then f (s.mp p) else s.mp q := fun q => State.modMP_mp s p q f
  cases p <;> exact { refl s with
    tags := fun q => by
      rw [e]
      split
      · next h => subst h; exact ht _
      · rfl
    timeout := fun q => by
      rw [e]
      split
      · next h => subst h; exact hd _
      · rfl
    issueQ := fun q => by
      rw [e]
      split
      · next h => subst h; exact hq _
      · exact ⟨[], by simp⟩
    wbWrites := fun q w x => by
      rw [e]
      split
      · next h => subst h; exact hw _ w x
      · exact x }

theorem outbound' (s : State) (n : NodeId) (ms : List OutMsg) :
    Calm s (s.modPort n fun q => { q with outbound := q.outbound ++ ms }) :=
  { refl s with
    link := fun m => by
      rw [State.modPort_port]
      split
      · next e => subst e; rfl
      · rfl
    outbound := fun m => by
      rw [State.modPort_port]
      split
      · next e => subst e; exact ⟨ms, rfl⟩
      · exact ⟨[], by simp⟩
    inbox := fun m => by
      rw [State.modPort_port]
      split
      · next e => subst e; exact .inl ⟨rfl, rfl, rfl, rfl, rfl⟩
      · exact .refl _ _ }

theorem modSlot (s : State) (c : CaptureClass) (f : CaptureSlot → CaptureSlot)
    (h : ∀ t r, t.record = some r → (f t).record = some r) : Calm s (s.modSlot c f) :=
  { refl s with
    record := fun d r x => by
      rw [State.modSlot_slot]
      split
      · next e => subst e; exact h _ _ x
      · exact x }

theorem jobsMap (s : State) (f : Job → Job) (h : ∀ j, (f j).kind = j.kind) : Calm s { s with jobs := s.jobs.map f } :=
  { refl s with jobKinds := by simp [List.map_map, Function.comp_def, h] }

theorem setPhase (s : State) (k : JobKind) (p : JobPhase) : Calm s (s.setPhase k p) :=
  jobsMap s _ fun j => by split <;> rfl

theorem quiesceDone_port (s : State) (n m : NodeId) :
    (s.quiesceDone n).port m = if m = n then (s.port n).silenced else s.port m :=
  State.modPort_port (s.modNode n fun r => { r with state := .offline }) n m Port.silenced

theorem quiesceDone_node (s : State) (n m : NodeId) :
    (s.quiesceDone n).node m = if m = n then { s.node n with state := .offline } else s.node m :=
  State.modNode_node s n m fun r => { r with state := .offline }

theorem quiesceDone (s : State) (n : NodeId) : Calm s (s.quiesceDone n) :=
  { refl s with
    link := fun m => by
      rw [quiesceDone_port]
      split
      · next e => subst e; rfl
      · rfl
    outbound := fun m => by
      refine ⟨[], ?_⟩
      rw [quiesceDone_port]
      split
      · next e => subst e; simp [Port.silenced]
      · simp
    inbox := fun m => by
      rw [quiesceDone_port, quiesceDone_node]
      split
      · exact .inr ⟨rfl, rfl, rfl, rfl, rfl⟩
      · exact .refl _ _
    node := fun m => by
      rw [quiesceDone_node]
      split
      · next e => subst e; rfl
      · rfl }

theorem closeDone (s : State) (r : RegionIdx) : Calm s (s.modRegion r fun x => { x with state := .closed }) :=
  { refl s with
    region := fun q => by
      rw [State.modRegion_region]
      split
      · next e => subst e; exact .inr rfl
      · exact .inl rfl }

theorem applyOutcome (s : State) (k : JobKind) : Calm s (s.applyOutcome k) := by
  cases k
  · exact closeDone s _
  · exact quiesceDone s _
  · exact refl s

/-- Every update of the bridge's own work is `Calm`. -/
theorem of_work {sw : Prop} {s t : State} (h : Work sw s t) : Calm s t := by
  induction h with
  | refl s => exact refl s
  | trans _ _ h k => exact h.trans k
  | now s x => exact { refl s with }
  | modTT s i f => exact { refl s with }
  | hold s h le => exact { refl s with hold := le }
  | queueOp s p op =>
    exact modMP s p _ (fun _ => rfl) (fun _ => rfl) (fun _ => ⟨[op], rfl⟩) fun _ _ h => h
  | addWrite s p w h =>
    refine modMP s p _ (fun _ => rfl) (fun _ => rfl) (fun _ => ⟨[], by simp [MemPort.addWrite]⟩) fun x v hx y hy => ?_
    obtain ⟨i, r, hw⟩ := h
    rcases List.mem_append.mp hy with hy | hy
    · obtain ⟨z, hz, rfl⟩ := List.mem_map.mp hy
      have := hx z hz
      split <;> exact this
    · rw [List.mem_singleton.mp hy, hw]; exact fun e => OpOwner.noConfusion e
  | dir s d h => exact { refl s with dir := h }
  | outbound s n ms => exact outbound' s n ms
  | modSlot s c f h => exact modSlot s c f h
  | jobs s f h => exact jobsMap s f fun j => (h j).1
  | agent s a h => exact { refl s with agent := fun x => (x.elim h.1 h.2).elim }
  | phase _ s k p h => exact setPhase s k p
  | finish _ s k h => exact (setPhase s k _).trans (applyOutcome _ k)

/-- All that the bridge does of its own accord inside one step. -/
theorem settle (s : State) : Calm s s.settle := of_work (Work.settle s)

end Calm

/-! ### Quiesce jobs -/

/-- No quiesce job of the node is in a phase before DONE. -/
def State.noQuiesce (s : State) (n : NodeId) : Prop := ∀ j ∈ s.jobs, j.kind = .quiesceNode n → j.live = false

/-- A kind with a live job is not the quiesce of a node that has none. -/
theorem State.live_ne (s : State) (k : JobKind) (n : NodeId) (h : ∃ j ∈ s.jobs, j.kind = k ∧ j.live = true)
    (q : s.noQuiesce n) : k ≠ .quiesceNode n := by
  rintro rfl
  obtain ⟨j, hj, e, l⟩ := h
  rw [q j hj e] at l
  cases l

theorem State.noQuiesce_setPhase (s : State) (k : JobKind) (p : JobPhase) (n : NodeId)
    (h : ∃ j ∈ s.jobs, j.kind = k ∧ j.live = true) (q : s.noQuiesce n) : (s.setPhase k p).noQuiesce n := by
  have ne := State.live_ne s k n h q
  intro j hj e
  obtain ⟨x, hx, rfl⟩ := List.mem_map.mp hj
  split at e
  · next hk => exact absurd (hk ▸ e) ne
  · next hk => rw [if_neg hk]; exact q x hx e

/-- A node without a live quiesce job keeps its state through the bridge's own work. -/
theorem Work.noQuiesce {sw : Prop} {s t : State} (h : Work sw s t) (n : NodeId) (q : s.noQuiesce n) :
    t.noQuiesce n ∧ t.node n = s.node n := by
  induction h with
  | refl s => exact ⟨q, rfl⟩
  | trans _ _ h k => obtain ⟨a, b⟩ := h q; obtain ⟨c, d⟩ := k a; exact ⟨c, d.trans b⟩
  | now s x => exact ⟨q, rfl⟩
  | modTT s i f => exact ⟨q, rfl⟩
  | hold s h le => exact ⟨q, rfl⟩
  | queueOp s p op => cases p <;> exact ⟨q, rfl⟩
  | addWrite s p w h => cases p <;> exact ⟨q, rfl⟩
  | dir s d h => exact ⟨q, rfl⟩
  | outbound s m ms => exact ⟨q, rfl⟩
  | modSlot s c f h => exact ⟨q, rfl⟩
  | jobs s f h =>
    refine ⟨fun j hj e => ?_, rfl⟩
    obtain ⟨x, hx, rfl⟩ := List.mem_map.mp hj
    rw [(h x).1] at e
    rw [(h x).2]; exact q x hx e
  | agent s a h => exact ⟨q, rfl⟩
  | phase _ s k p h => exact ⟨State.noQuiesce_setPhase s k p n h q, rfl⟩
  | finish _ s k h =>
    have ne : k ≠ .quiesceNode n := State.live_ne s k n h q
    refine ⟨?_, ?_⟩
    · have := State.noQuiesce_setPhase s k (.done .completed .pending) n h q
      cases k <;> exact this
    · cases k with
      | closeRegion r u => rfl
      | fenceNode m => rfl
      | quiesceNode m =>
        refine (Calm.quiesceDone_node (s.setPhase (.quiesceNode m) _) m n).trans ?_
        rw [if_neg (fun e => ne (by rw [e]))]; rfl

/-! ### Work without the Sweep Engine -/

/-- A job list whose jobs keep their order, their kinds, and whether they are DONE. -/
def JobsKept (js ks : List Job) : Prop := ∃ f : Job → Job, ks = js.map f ∧ ∀ j, (f j).kind = j.kind ∧ (f j).live = j.live

theorem JobsKept.refl (js : List Job) : JobsKept js js := ⟨id, by simp, fun _ => ⟨rfl, rfl⟩⟩

theorem JobsKept.trans {a b c : List Job} (h : JobsKept a b) (k : JobsKept b c) : JobsKept a c := by
  obtain ⟨f, hf, hf'⟩ := h
  obtain ⟨g, hg, hg'⟩ := k
  exact ⟨g ∘ f, by rw [hg, hf, List.map_map], fun j => ⟨(hg' _).1.trans (hf' j).1, (hg' _).2.trans (hf' j).2⟩⟩

/-- Work that is none of the Sweep Engine's. -/
structure Quiet (s t : State) : Prop where
  nodes : t.nodes = s.nodes
  regions : t.regions = s.regions
  jobs : JobsKept s.jobs t.jobs
  port : ∀ n, ∃ ms, t.port n = { s.port n with outbound := (s.port n).outbound ++ ms }

theorem Quiet.of_eq {s t : State} (h1 : t.nodes = s.nodes) (h2 : t.regions = s.regions) (h3 : t.jobs = s.jobs)
    (h4 : t.ports = s.ports) : Quiet s t :=
  ⟨h1, h2, h3 ▸ .refl _, fun n => ⟨[], by rw [State.port_congr h4]; simp⟩⟩

/-- Work that is none of the Sweep Engine's leaves the node records and the regions as they were, no job comes, goes,
or passes to DONE, and of a port only the Outbound Queue grows. -/
theorem Work.quiet {s t : State} (h : Work False s t) : Quiet s t := by
  induction h with
  | refl s => exact .of_eq rfl rfl rfl rfl
  | trans _ _ h k =>
    refine ⟨k.nodes.trans h.nodes, k.regions.trans h.regions, h.jobs.trans k.jobs, fun n => ?_⟩
    obtain ⟨a, ha⟩ := h.port n
    obtain ⟨b, hb⟩ := k.port n
    exact ⟨a ++ b, by rw [hb, ha]; simp⟩
  | now s x => exact .of_eq rfl rfl rfl rfl
  | modTT s i f => exact .of_eq rfl rfl rfl rfl
  | hold s h le => exact .of_eq rfl rfl rfl rfl
  | queueOp s p op => cases p <;> exact .of_eq rfl rfl rfl rfl
  | addWrite s p w h => cases p <;> exact .of_eq rfl rfl rfl rfl
  | dir s d h => exact .of_eq rfl rfl rfl rfl
  | outbound s n ms =>
    refine ⟨rfl, rfl, .refl _, fun m => ?_⟩
    rw [State.modPort_port]
    split
    · next e => subst e; exact ⟨ms, rfl⟩
    · exact ⟨[], by simp⟩
  | modSlot s c f h => exact .of_eq rfl rfl rfl rfl
  | jobs s f h => exact ⟨rfl, rfl, ⟨f, rfl, h⟩, fun n => ⟨[], by simp [State.port]⟩⟩
  | agent s a h => exact .of_eq rfl rfl rfl rfl
  | phase x => exact x.elim
  | finish x => exact x.elim

end Sys2Proof.Machine
end

