-- ==== Sys2Proof/Laws/Fence.lean ====
section
/-! SUPPORT. What the fence of a node does to the machine, and what starts every step. -/

namespace Sys2Proof.Machine

/-- A command that acts while the bridge runs. -/
theorem run_running (f : State → State) (s : State) (h : s.running = true) : run f s = .next (f s.beginStep) := by
  unfold run
  rw [if_pos h]

/-- A command that does not act: a cold reset holds the bridge. -/
theorem run_held (f : State → State) (s : State) (h : s.running = false) : run f s = .next s.beginStep := by
  unfold run
  rw [h]; rfl

/-! ### Withdrawal (R12) -/

/-- The fields that no withdrawal touches. -/
def State.withoutProducers (s : State) :=
  (s.pending, s.inputs, s.now, s.out, s.resetAsserted, s.powerGood, s.timeBase, s.noticeNode, s.intakePos, s.ports,
    s.nodes, s.regions, s.dir, s.hold, s.mp0, s.mp1, s.controlQ)

/-- The withdrawal of one message: the producers alone are touched, no record of a capture slot changes, no job
leaves the list and none passes to or from DONE. -/
structure Withdrawn (s t : State) : Prop where
  rest : t.withoutProducers = s.withoutProducers
  record : ∀ c, (t.slot c).record = (s.slot c).record
  jobs : JobsKept s.jobs t.jobs
  entry : ∀ i, t.entry i = s.entry i

namespace Withdrawn

theorem refl (s : State) : Withdrawn s s := ⟨rfl, fun _ => rfl, JobsKept.refl _, fun _ => rfl⟩

theorem trans {s t u : State} (h : Withdrawn s t) (k : Withdrawn t u) : Withdrawn s u :=
  ⟨k.rest.trans h.rest, fun c => (k.record c).trans (h.record c), h.jobs.trans k.jobs, fun i => (k.entry i).trans (h.entry i)⟩

theorem withdraw (n : NodeId) (s : State) (m : OutMsg) : Withdrawn s (State.withdraw n s m) := by
  have same : ∀ t : State, t.withoutProducers = s.withoutProducers → t.slots = s.slots → t.jobs = s.jobs → t.tt = s.tt →
      Withdrawn s t := fun t h1 h2 h3 h4 =>
    ⟨h1, fun c => by unfold State.slot; rw [h2], h3 ▸ JobsKept.refl _,
      fun i => by unfold State.entry State.ttSlot; rw [h4]⟩
  unfold State.withdraw
  split
  · next i =>
    refine ⟨rfl, fun _ => rfl, JobsKept.refl _, fun k => ?_⟩
    unfold State.entry
    rw [State.modTT_ttSlot]
    split
    · next e => subst e; rfl
    · rfl
  · exact same _ rfl rfl rfl rfl
  · exact same _ rfl rfl rfl rfl
  · exact same _ rfl rfl rfl rfl
  · next c x =>
    refine ⟨rfl, fun d => ?_, JobsKept.refl _, fun _ => rfl⟩
    rw [State.modSlot_slot]
    split
    · next e => subst e; unfold CaptureSlot.noticeGone; split <;> rfl
    · rfl
  · refine ⟨rfl, fun _ => rfl, ⟨_, rfl, fun j => ?_⟩, fun _ => rfl⟩
    unfold Job.noticeWithdrawn
    split
    · split <;> simp_all [Job.live]
    · exact ⟨rfl, rfl⟩
  · exact refl s

theorem foldl (n : NodeId) (l : List OutMsg) (s : State) : Withdrawn s (l.foldl (State.withdraw n) s) := by
  induction l generalizing s with
  | nil => exact refl s
  | cons m l ih => exact (withdraw n s m).trans (ih _)

end Withdrawn

/-! ### The parts of the fence (R142) -/

/-- The fields that the offers, the notices and the resolutions of a fence do not touch. -/
def State.besideNotices (s : State) :=
  (s.pending, s.inputs, s.now, s.out, s.resetAsserted, s.powerGood, s.timeBase, s.noticeNode, s.intakePos,
    s.refusalMarks, s.nodes, s.regions, s.dir, s.hold, s.wb, s.mp0, s.mp1, s.agent, s.controlQ)

theorem State.queueNotice_beside (s : State) (c : CaptureClass) : (s.queueNotice c).besideNotices = s.besideNotices := by
  unfold State.queueNotice
  dsimp only
  repeat' split
  all_goals rfl

theorem State.offer_beside (s : State) (r : CaptureRecord) : (s.offer r).besideNotices = s.besideNotices :=
  (State.queueNotice_beside _ _).trans rfl

theorem State.queueJobNotices_beside (s : State) : s.queueJobNotices.besideNotices = s.besideNotices := by
  unfold State.queueJobNotices
  split <;> rfl

theorem State.resolveAtFence_beside (s : State) (i : TTIdx) (r : Role) (n : NodeId) :
    (s.resolveAtFence i r n).besideNotices = s.besideNotices := by
  unfold State.resolveAtFence
  repeat' split
  all_goals first
    | rfl
    | exact State.offer_beside _ _

/-- No notice is queued to a FENCED node (R143). -/
theorem State.queueNotice_fenced (s : State) (c : CaptureClass) (n : NodeId) (h : (s.node n).state = .fenced) :
    (s.queueNotice c).port n = s.port n := by
  have ne : s.reachable = true → n ≠ s.noticeNode := by
    rintro hr rfl
    simp [State.reachable, h] at hr
  unfold State.queueNotice
  dsimp only
  split
  · next hr =>
    have hn := ne (by simp only [Bool.and_eq_true] at hr; exact hr.1)
    repeat' split
    all_goals first
      | rfl
      | exact (State.enqueue_port _ _ _ _ _).trans (if_neg hn)
  · rfl

theorem State.queueJobNotices_fenced (s : State) (n : NodeId) (h : (s.node n).state = .fenced) :
    s.queueJobNotices.port n = s.port n := by
  unfold State.queueJobNotices
  split
  · next hr =>
    have hn : n ≠ s.noticeNode := by
      rintro rfl
      simp [State.reachable, h] at hr
    have e := State.modPort_port s s.noticeNode n fun q => { q with outbound := q.outbound ++ s.jobs.filterMap Job.owed }
    rw [if_neg hn] at e
    exact e
  · rfl

theorem State.queueNotice_node (s : State) (c : CaptureClass) (n : NodeId) : (s.queueNotice c).node n = s.node n := by
  have := State.queueNotice_beside s c
  simp only [State.besideNotices, Prod.mk.injEq] at this
  exact State.node_congr this.2.2.2.2.2.2.2.2.2.2.1 n

theorem State.offer_fenced (s : State) (r : CaptureRecord) (n : NodeId) (h : (s.node n).state = .fenced) :
    (s.offer r).port n = s.port n :=
  State.queueNotice_fenced (s.modSlot _ _) _ n h

/-- The resolutions of a fence, member by member. -/
theorem State.resolveAll_induct {P : State → Prop} (s : State) (n : NodeId) (h : P s)
    (step : ∀ t i r, P t → P (t.resolveAtFence i r n)) : P (s.resolveAll n) := by
  unfold State.resolveAll
  generalize s.now.order ++ allTT = l
  induction l generalizing s with
  | nil => exact h
  | cons i l ih => exact ih _ (step _ _ _ (step _ _ _ h))

theorem State.resolveAll_beside (s : State) (n : NodeId) : (s.resolveAll n).besideNotices = s.besideNotices :=
  State.resolveAll_induct (P := fun t => t.besideNotices = s.besideNotices) s n rfl fun t i r h =>
    (State.resolveAtFence_beside t i r n).trans h

theorem State.resolveAll_work (s : State) (n : NodeId) : Work False s (s.resolveAll n) :=
  State.resolveAll_induct (P := fun t => Work False s t) s n (.refl s) fun t i r h => h.trans (Work.resolveAtFence t i r n)

theorem State.resolveAtFence_node (s : State) (i : TTIdx) (r : Role) (n m : NodeId) :
    (s.resolveAtFence i r n).node m = s.node m := by
  have := State.resolveAtFence_beside s i r n
  simp only [State.besideNotices, Prod.mk.injEq] at this
  exact State.node_congr this.2.2.2.2.2.2.2.2.2.2.1 m

/-- The port of a FENCED node is touched by no resolution (R143). -/
theorem State.resolveAtFence_fenced (s : State) (i : TTIdx) (r : Role) (n : NodeId) (h : (s.node n).state = .fenced) :
    (s.resolveAtFence i r n).port n = s.port n := by
  unfold State.resolveAtFence
  repeat' split
  all_goals first
    | rfl
    | exact State.offer_fenced (State.modEntry _ _ _) _ n h

theorem State.resolveAll_fenced (s : State) (n : NodeId) (h : (s.node n).state = .fenced) :
    (s.resolveAll n).port n = s.port n :=
  (State.resolveAll_induct (P := fun t => (t.node n).state = .fenced ∧ t.port n = s.port n) s n ⟨h, rfl⟩ fun t i r k =>
    ⟨by rw [State.resolveAtFence_node]; exact k.1, (State.resolveAtFence_fenced t i r n k.1).trans k.2⟩).2

/-! ### The early notices -/

theorem State.queueEarlyNotices_beside (s : State) : s.queueEarlyNotices.besideNotices = s.besideNotices := by
  unfold State.queueEarlyNotices
  rw [State.queueNotice_beside, State.queueNotice_beside, State.queueNotice_beside]

theorem State.queueEarlyNotices_fenced (s : State) (n : NodeId) (h : (s.node n).state = .fenced) :
    s.queueEarlyNotices.port n = s.port n := by
  unfold State.queueEarlyNotices
  rw [State.queueNotice_fenced _ _ n (by simpa only [State.queueNotice_node]),
    State.queueNotice_fenced _ _ n (by simpa only [State.queueNotice_node]), State.queueNotice_fenced _ _ n h]

theorem State.queueEarlyNotices_work (s : State) : Work False s s.queueEarlyNotices :=
  ((Work.queueNotice s _).trans (.queueNotice _ _)).trans (.queueNotice _ _)

/-- R142: what the fence of a node does. -/
structure Fenced (n : NodeId) (reason : FenceReason) (s t : State) : Prop where
  node : t.node n = NodeRec.fence reason (s.node n)
  others : ∀ m, m ≠ n → t.node m = s.node m
  port : t.port n = { s.port n with requests := [], returns := [], requestCredits := 0, returnCredits := 0, outbound := [] }
  inbox : ∀ m, m ≠ n → (t.port m).requests = (s.port m).requests ∧ (t.port m).returns = (s.port m).returns ∧
    (t.port m).requestCredits = (s.port m).requestCredits ∧ (t.port m).returnCredits = (s.port m).returnCredits ∧
    (t.port m).link = (s.port m).link ∧ ∃ ms, (t.port m).outbound = (s.port m).outbound ++ ms
  noQuiesce : t.noQuiesce n
  jobs : ∀ j ∈ t.jobs, j.live = true → j.kind = .fenceNode n ∨ ∃ x ∈ s.jobs, x.kind = j.kind ∧ x.live = true
  hold : t.hold = s.hold.filter fun h => h.req.node != n
  controlQ : t.controlQ = s.controlQ.filter fun c => c.sender != n
  wb : ∀ w e, t.wbEntry w = some e → e.writer = n → e.fenced = true
  record : ∀ c r, (s.slot c).record = some r → (t.slot c).record = some r
  rest : (t.pending, t.inputs, t.now, t.out, t.resetAsserted, t.powerGood, t.timeBase, t.noticeNode, t.intakePos,
      t.regions, t.dir, t.mp0, t.mp1) =
    (s.pending, s.inputs, s.now, s.out, s.resetAsserted, s.powerGood, s.timeBase, s.noticeNode, s.intakePos,
      s.regions, s.dir, s.mp0, s.mp1)

/-- A node fenced before its port is silenced keeps its port through the rest of the fence. -/
theorem State.placeFenceJob_mem (n : NodeId) (js : List Job) (j : Job) (h : j ∈ placeFenceJob n js) :
    j = ⟨.fenceNode n, .queued⟩ ∨ j ∈ js := by
  induction js with
  | nil => exact .inl (List.mem_singleton.mp h)
  | cons x rest ih =>
    unfold placeFenceJob at h
    split at h
    · exact (List.mem_cons.mp h).imp id id
    · rcases List.mem_cons.mp h with e | e
      · exact .inr (e ▸ List.mem_cons_self)
      · exact (ih e).imp id (List.mem_cons_of_mem _)

/-- An abandoned list has no live quiesce job of the node. -/
theorem Job.abandon_spec (n : NodeId) (j : Job) :
    (Job.abandon n j).kind = j.kind ∧ ((Job.abandon n j).live = true → j.live = true ∧ j.kind ≠ .quiesceNode n) := by
  unfold Job.abandon
  split
  · next o x e => simp [Job.live, e]
  · next e =>
    split
    · exact ⟨rfl, fun h => Bool.noConfusion h⟩
    · next ne => exact ⟨rfl, fun h => ⟨h, ne⟩⟩

/-- R115: after a fence every Writeback Buffer entry of the node has its fenced mark set. -/
theorem State.fenceLists_wb (s : State) (n : NodeId) (w : WBIdx) (x : WBEntry) (h : (s.fenceLists n).wbEntry w = some x)
    (hw : x.writer = n) : x.fenced = true := by
  have hm : (s.fenceLists n).wbEntry w = (s.wbEntry w).map (WBEntry.fence n) := by
    show (s.wb.map (Option.map (WBEntry.fence n)))[w] = _
    simp [State.wbEntry]
  rw [hm] at h
  obtain ⟨y, -, rfl⟩ := Option.map_eq_some_iff.mp h
  unfold WBEntry.fence at hw ⊢
  split
  · rfl
  · next ne => rw [if_neg ne] at hw; exact absurd hw ne

/-- What a fence leaves as it was. -/
def State.fenceRest (s : State) :=
  (s.pending, s.inputs, s.now, s.out, s.resetAsserted, s.powerGood, s.timeBase, s.noticeNode, s.intakePos, s.regions,
    s.dir, s.mp0, s.mp1)

/-- The first part of a fence: the record, the port, the Hold Queue and the entries. -/
theorem State.fence_first (s : State) (n : NodeId) (reason : FenceReason) (c : State)
    (hc : c = (((s.modNode n (NodeRec.fence reason)).silencePort n).fenceRequests n)) :
    c.fenceRest = s.fenceRest ∧ (∀ m, c.node m = if m = n then NodeRec.fence reason (s.node n) else s.node m) ∧
      (∀ m, c.port m = if m = n then
        { s.port n with requests := [], returns := [], requestCredits := 0, returnCredits := 0, outbound := [] }
        else s.port m) ∧
      JobsKept s.jobs c.jobs ∧ (∀ x, (c.slot x).record = (s.slot x).record) ∧
      c.hold = (s.hold.filter fun h => h.req.node != n) ∧ c.controlQ = s.controlQ := by
  have hw : Withdrawn ((s.modNode n (NodeRec.fence reason)).modPort n fun p => { p.silenced with outbound := [] })
      ((s.modNode n (NodeRec.fence reason)).silencePort n) := Withdrawn.foldl n _ _
  generalize (s.modNode n (NodeRec.fence reason)).silencePort n = b at hw hc
  subst hc
  have r := hw.rest
  simp only [State.withoutProducers, Prod.mk.injEq] at r
  obtain ⟨r1, r2, r3, r4, r5, r6, r7, r8, r9, r10, r11, r12, r13, r14, r15, r16, r17⟩ := r
  refine ⟨?_, fun m => ?_, fun m => ?_, hw.jobs, hw.record, congrArg _ r14, r17⟩
  · simp only [State.fenceRest, Prod.mk.injEq]
    exact ⟨r1, r2, r3, r4, r5, r6, r7, r8, r9, r12, r13, r15, r16⟩
  · exact (State.node_congr (s := s.modNode n (NodeRec.fence reason)) (t := b) r11 m).trans (State.modNode_node s n m _)
  · exact (State.port_congr (t := b) r10 m).trans (State.modPort_port (s.modNode n (NodeRec.fence reason)) n m _)

/-- The second part: the notices of the slots and the resolutions. -/
theorem State.fence_second (s t : State) (n : NodeId) (h : (s.node n).state = .fenced)
    (ht : t = (s.queueEarlyNotices.resolveAll n).queueNotice .directory) :
    t.fenceRest = s.fenceRest ∧ t.hold = s.hold ∧ t.controlQ = s.controlQ ∧ t.port n = s.port n := by
  have fenced : ∀ u : State, u.besideNotices = s.besideNotices → (u.node n).state = .fenced := fun u hu => by
    simp only [State.besideNotices, Prod.mk.injEq] at hu
    rw [State.node_congr hu.2.2.2.2.2.2.2.2.2.2.1 n]; exact h
  have r : t.besideNotices = s.besideNotices ∧ t.port n = s.port n := by
    have e1 := State.queueEarlyNotices_beside s
    have e2 := (State.resolveAll_beside s.queueEarlyNotices n).trans e1
    rw [ht]
    exact ⟨(State.queueNotice_beside _ _).trans e2, (State.queueNotice_fenced _ _ n (fenced _ e2)).trans
      ((State.resolveAll_fenced _ n (fenced _ e1)).trans (State.queueEarlyNotices_fenced s n h))⟩
  clear ht
  obtain ⟨r, p⟩ := r
  simp only [State.besideNotices, Prod.mk.injEq] at r
  obtain ⟨r1, r2, r3, r4, r5, r6, r7, r8, r9, r10, r11, r12, r13, r14, r15, r16, r17, r18, r19⟩ := r
  refine ⟨?_, r14, r19, p⟩
  simp only [State.fenceRest, Prod.mk.injEq]
  exact ⟨r1, r2, r3, r4, r5, r6, r7, r8, r9, r12, r13, r16, r17⟩

/-- The end of a fence: the job notices. -/
theorem State.queueJobNotices_rest (s : State) :
    s.queueJobNotices.fenceRest = s.fenceRest ∧ s.queueJobNotices.hold = s.hold ∧
      s.queueJobNotices.controlQ = s.controlQ ∧ s.queueJobNotices.wb = s.wb := by
  have r := State.queueJobNotices_beside s
  simp only [State.besideNotices, Prod.mk.injEq] at r
  obtain ⟨r1, r2, r3, r4, r5, r6, r7, r8, r9, r10, r11, r12, r13, r14, r15, r16, r17, r18, r19⟩ := r
  refine ⟨?_, r14, r19, r15⟩
  simp only [State.fenceRest, Prod.mk.injEq]
  exact ⟨r1, r2, r3, r4, r5, r6, r7, r8, r9, r12, r13, r16, r17⟩

/-- The jobs that a fence leaves before DONE: its own fence job, and jobs that were so before and are not the node's
quiesce job. -/
theorem State.fence_jobs (n : NodeId) (a b c : List Job) (h : JobsKept a b)
    (k : JobsKept (placeFenceJob n (b.map (Job.abandon n))) c) (j : Job) (hj : j ∈ c) (hl : j.live = true) :
    j.kind = .fenceNode n ∨ (j.kind ≠ .quiesceNode n ∧ ∃ x ∈ a, x.kind = j.kind ∧ x.live = true) := by
  obtain ⟨g, rfl, hg⟩ := k
  obtain ⟨z, hz, rfl⟩ := List.mem_map.mp hj
  rw [(hg z).1]
  rw [(hg z).2] at hl
  rcases State.placeFenceJob_mem n _ z hz with rfl | hz
  · exact .inl rfl
  · obtain ⟨y, hy, rfl⟩ := List.mem_map.mp hz
    obtain ⟨k1, k2⟩ := Job.abandon_spec n y
    obtain ⟨l1, l2⟩ := k2 hl
    obtain ⟨f, rfl, hf⟩ := h
    obtain ⟨x, hx, rfl⟩ := List.mem_map.mp hy
    exact .inr ⟨k1 ▸ l2, x, hx, (hf x).1.symm.trans k1.symm, (hf x).2 ▸ l1⟩

/-- R142: the fence of a node. -/
theorem State.fence_fenced (s : State) (n : NodeId) (reason : FenceReason) : Fenced n reason s (s.fence n reason) := by
  have e : s.fence n reason = ((((((((s.modNode n (NodeRec.fence reason)).silencePort n).fenceRequests n).queueEarlyNotices
      ).resolveAll n).queueNotice .directory).fenceLists n).queueJobNotices) := rfl
  rw [e]
  clear e
  have c1 := State.fence_first s n reason _ rfl
  generalize ((s.modNode n (NodeRec.fence reason)).silencePort n).fenceRequests n = c at c1
  obtain ⟨cr, cn, cp, cj, cs, ch, cq⟩ := c1
  have cf : (c.node n).state = .fenced := by rw [cn, if_pos rfl]; rfl
  obtain ⟨dr, dh, dq, dp⟩ := State.fence_second c _ n cf rfl
  have dw : Work False c ((c.queueEarlyNotices.resolveAll n).queueNotice .directory) :=
    ((State.queueEarlyNotices_work c).trans (State.resolveAll_work _ n)).trans (.queueNotice _ _)
  generalize (c.queueEarlyNotices.resolveAll n).queueNotice .directory = d at dr dh dq dp dw
  have ew := State.fenceLists_wb d n
  have en : (d.fenceLists n).nodes = d.nodes := rfl
  have ep : (d.fenceLists n).ports = d.ports := rfl
  have es : (d.fenceLists n).slots = d.slots := rfl
  have ej : (d.fenceLists n).jobs = placeFenceJob n (d.jobs.map (Job.abandon n)) := rfl
  have eh : (d.fenceLists n).hold = d.hold := rfl
  have eq : (d.fenceLists n).controlQ = d.controlQ.filter fun c => c.sender != n := rfl
  have er : (d.fenceLists n).fenceRest = d.fenceRest := rfl
  generalize d.fenceLists n = f at ew en ep es ej eh eq er
  obtain ⟨gr, gh, gq, gw⟩ := State.queueJobNotices_rest f
  have hw : Work False f f.queueJobNotices := Work.queueJobNotices f
  have fn : ∀ m, f.node m = c.node m := fun m => (State.node_congr en m).trans (State.node_congr dw.quiet.nodes m)
  have gp : f.queueJobNotices.port n = f.port n := State.queueJobNotices_fenced f n (by rw [fn]; exact cf)
  generalize f.queueJobNotices = t at gr gh gq gw hw gp
  have node : ∀ m, t.node m = if m = n then NodeRec.fence reason (s.node n) else s.node m := fun m =>
    (State.node_congr hw.quiet.nodes m).trans ((fn m).trans (cn m))
  have js := State.fence_jobs n s.jobs d.jobs t.jobs (cj.trans dw.quiet.jobs) (ej ▸ hw.quiet.jobs)
  refine {
    node := (node n).trans (if_pos rfl)
    others := fun m hm => (node m).trans (if_neg hm)
    port := gp.trans ((State.port_congr ep n).trans (dp.trans ((cp n).trans (if_pos rfl))))
    inbox := fun m hm => ?_
    noQuiesce := fun j hj hk => ?_
    jobs := fun j hj hl => (js j hj hl).imp id And.right
    hold := gh.trans (eh.trans (dh.trans ch))
    controlQ := gq.trans (eq.trans (congrArg _ (dq.trans cq)))
    wb := fun w x hx => ew w x (by unfold State.wbEntry at hx ⊢; rwa [gw] at hx)
    record := fun x r hr => ?_
    rest := gr.trans (er.trans (dr.trans cr)) }
  · obtain ⟨x, hx⟩ := dw.quiet.port m
    obtain ⟨y, hy⟩ := hw.quiet.port m
    have : t.port m = { s.port m with outbound := (s.port m).outbound ++ (x ++ y) } := by
      rw [hy, State.port_congr ep m, hx, cp, if_neg hm]; simp
    rw [this]
    exact ⟨rfl, rfl, rfl, rfl, rfl, x ++ y, rfl⟩
  · cases hl : j.live with
    | false => rfl
    | true =>
      rcases js j hj hl with e | e
      · rw [hk] at e; cases e
      · exact absurd hk e.1
  · refine (Calm.of_work hw).record x r ?_
    rw [State.slot_congr es x]
    exact (Calm.of_work dw).record x r ((cs x).trans hr)

end Sys2Proof.Machine
end

