-- ==== Sys2Proof/Laws/Agent.lean ====
section
/-! SUPPORT. The agent's take (R176, R177): performed, refused for its argument count, or not made. -/

namespace Sys2Proof.Machine

theorem ControlReq.is_code (c : ControlReq) : ControlReq.is c.code c = true := by simp [ControlReq.is]

/-- A take whose head is the command's own, with its number of arguments, performs it. -/
theorem State.agentTake_performs {s : State} {mine : ControlReq → Bool} {perform : State → ControlReq → State}
    {c : ControlReq} {rest : List ControlReq} (ha : s.agent = .ready) (hq : s.controlQ = c :: rest) (hm : mine c = true)
    (hn : commandArgs c.code = some c.args.length) :
    s.agentTake mine perform = perform { s with controlQ := rest } c := by
  unfold State.agentTake
  rw [ha, hq]
  simp only [hm, hn, if_true]

/-- A take whose head is the command's own with another number of arguments answers BAD_ARGUMENT. -/
theorem State.agentTake_badCount {s : State} {mine : ControlReq → Bool} {perform : State → ControlReq → State}
    {c : ControlReq} {rest : List ControlReq} (ha : s.agent = .ready) (hq : s.controlQ = c :: rest) (hm : mine c = true)
    (hn : commandArgs c.code ≠ some c.args.length) :
    s.agentTake mine perform = ({ s with controlQ := rest }).refuseCmd c .badArgument := by
  unfold State.agentTake
  rw [ha, hq]
  simp only [hm, if_true, if_neg hn]

/-- No take: the agent is not READY, the queue is empty, or the head is another command's. -/
theorem State.agentTake_none {s : State} {mine : ControlReq → Bool} {perform : State → ControlReq → State}
    (h : s.agent ≠ .ready ∨ s.controlQ = [] ∨ ∃ c rest, s.controlQ = c :: rest ∧ mine c = false) :
    s.agentTake mine perform = s := by
  unfold State.agentTake
  split
  · next c rest ha hq =>
    rcases h with h | h | ⟨x, r, h, hm⟩
    · exact absurd ha h
    · rw [h] at hq; cases hq
    · rw [h] at hq; cases hq; simp only [hm]; rfl
  · rfl

/-- The take of a command as the statements speak of it. -/
theorem AgentTakes.performs {s : State} {code : BitVec 8} {count : Nat} {c : ControlReq} {rest : List ControlReq}
    (h : AgentTakes s code count c rest) (hc : commandArgs code = some count) (perform : State → ControlReq → State) :
    run (fun t => t.agentTake (ControlReq.is code) perform) s = .next (perform (s.taking rest) c) := by
  rw [run_running _ _ h.running]
  congr 1
  refine State.agentTake_performs h.ready h.queue ?_ ?_
  · rw [← h.code]; exact c.is_code
  · rw [h.code, h.count]; exact hc

/-- R178: the reply to a sender that is not FENCED. -/
theorem State.replies_queued (s : State) (c : ControlReq) (st : Status) (results : List Word)
    (h : (s.node c.sender).state ≠ .fenced) : s.replies c st results =
      { s.enqueue c.sender .agent (.controlReply c.tag st results) with agent := .replyPending } := by
  unfold State.replies State.reply
  rw [if_neg h]

/-- R178: the reply to a FENCED sender. -/
theorem State.replies_discarded (s : State) (c : ControlReq) (st : Status) (results : List Word)
    (h : (s.node c.sender).state = .fenced) : s.replies c st results = { s with agent := .ready } := by
  unfold State.replies State.reply
  rw [if_pos h]

/-- An index that names a node. -/
theorem nodeOf_val (n : NodeId) : nodeOf n.val = some n := by
  unfold nodeOf
  rw [dif_pos n.isLt]

theorem nodeOf_none {k : Nat} (h : 7 < k) : nodeOf k = none := dif_neg (by omega)

/-- An index that names a region. -/
theorem regionOf_val (r : RegionIdx) : regionOf r.val = some r := by
  unfold regionOf
  rw [dif_pos r.isLt]

theorem regionOf_none {k : Nat} (h : 15 < k) : regionOf k = none := dif_neg (by omega)

theorem slotOf_index (k : CaptureClass) : slotOf k.index.val = some k := by cases k <;> rfl

theorem slotOf_none {k : Nat} (h : 3 < k) : slotOf k = none := by
  unfold slotOf
  rw [if_neg (by omega), if_neg (by omega), if_neg (by omega), if_neg (by omega)]

theorem portOfCode_code (p : MPort) : portOfCode (portCodeOf p) = some p := by cases p <;> rfl

theorem portOfCode_none {k : Nat} (h : 1 < k) : portOfCode k = none := by
  unfold portOfCode
  rw [if_neg (by omega), if_neg (by omega)]

end Sys2Proof.Machine
end

