-- ==== Sys2Proof/Laws/Deed.lean ====
section
/-! SUPPORT. `Deed`: the updates of which every command's effect is made, the two resets and the tick of the time base apart. An invariant of the machine is proved by induction over them. -/

namespace Sys2Proof.Machine

/-- The fields on which the invariants of Safety.lean rest. -/
def State.guarded (s : State) :=
  (s.pending, s.timeBase, s.ports, s.nodes, s.regions, s.dir, s.hold, s.jobs, s.slots, s.controlQ)

/-- The updates of the commands; that of RELEASE_CAPTURE is among them when `fr` holds. -/
inductive Deed (fr : Prop) : State → State → Prop where
  | work {s t : State} : Work True s t → Deed fr s t
  | trans {s t u : State} : Deed fr s t → Deed fr t u → Deed fr s u
  | aside {s t : State} (h : t.guarded = s.guarded) : Deed fr s t
  | accept (s : State) (n : NodeId) (cls : MsgClass) (m : InMsg) (hc : (s.node n).state.counted = true)
      (hk : (s.port n).credits cls ≠ 0) : Deed fr s (s.modPort n fun p => p.accept cls m)
  | taken (s : State) (n : NodeId) (cls : MsgClass) (h : (s.port n).inbox cls ≠ []) : Deed fr s (s.modPort n fun p => p.taken cls)
  | outbound (s : State) (n : NodeId) (l : List OutMsg) : Deed fr s (s.modPort n fun p => { p with outbound := l })
  | link (s : State) (n : NodeId) (x : LinkState) : Deed fr s (s.modPort n fun p => { p with link := x })
  | record (s : State) (n : NodeId) (f : NodeRec → NodeRec) (h : ∀ r, (f r).state = r.state) : Deed fr s (s.modNode n f)
  | fence (s : State) (n : NodeId) (reason : FenceReason) : Deed fr s (s.fence n reason)
  | makeActive (s : State) (n : NodeId) (h : (s.node n).state = .offline) : Deed fr s (s.makeActive n)
  | quiesce (s : State) (n : NodeId) (h : (s.node n).state = .active) :
      Deed fr s ((s.modNode n fun r => { r with state := .quiescing }).placeJob (.quiesceNode n))
  | release (s : State) (n : NodeId) (h : (s.node n).state = .fenced) : Deed fr s (s.modNode n fun r => { r with state := .offline })
  | close (s : State) (r : RegionIdx) (u : Bool) (h : (s.region r).state ≠ .closed) :
      Deed fr s ((s.modRegion r fun x => { x with state := .closing }).placeJob (.closeRegion r u))
  | write (s : State) (r : RegionIdx) (f : Region → Region) (h : (s.region r).state = .closed) (k : ∀ x, (f x).state = x.state) :
      Deed fr s (s.modRegion r f)
  | opened (s : State) (r : RegionIdx) (x : RegionState) (h : (s.region r).state = .closed) (k : s.opensClear r = true) :
      Deed fr s (s.modRegion r fun y => { y with state := x })
  | slot (s : State) (c : CaptureClass) (f : CaptureSlot → CaptureSlot) (h : ∀ t, (f t).record = t.record) :
      Deed fr s (s.modSlot c f)
  | free (x : fr) (s : State) (c : CaptureClass) (f : CaptureSlot → CaptureSlot) : Deed fr s (s.modSlot c f)
  | control (s : State) (l : List ControlReq) (h : l.length ≤ s.controlQ.length) : Deed fr s { s with controlQ := l }
  | ask (s : State) (c : ControlReq) (h : s.controlQ.length < Config.controlCapacity) :
      Deed fr s { s with controlQ := s.controlQ ++ [c] }
  | hold (s : State) (h : HoldEntry) (k : s.hold.length < Config.holdCapacity) : Deed fr s { s with hold := s.hold ++ [h] }
  | leave (s : State) (f : Job → Bool) : Deed fr s { s with jobs := s.jobs.filter f }

namespace Deed

variable {fr : Prop}

theorem refl (s : State) : Deed fr s s := work (.refl s)

/-! ### Shared operations -/

theorem settle (s : State) : Deed fr s s.settle := work (Work.settle s)
theorem offer (s : State) (r : CaptureRecord) : Deed fr s (s.offer r) := work (Work.offer s r)
theorem enqueue (s : State) (n : NodeId) (p : Producer) (m : Msg) : Deed fr s (s.enqueue n p m) := work (Work.enqueue s n p m)
theorem flushNotices (s : State) : Deed fr s s.flushNotices := work (Work.flushNotices s)
theorem modEntry (s : State) (i : TTIdx) (f : TTEntry → TTEntry) : Deed fr s (s.modEntry i f) := aside rfl
theorem modTT (s : State) (i : TTIdx) (f : TTSlot → TTSlot) : Deed fr s (s.modTT i f) := aside rfl
theorem setWB (s : State) (w : WBIdx) (o : Option WBEntry) : Deed fr s (s.setWB w o) := aside rfl
theorem modMP (s : State) (p : MPort) (f : MemPort → MemPort) : Deed fr s (s.modMP p f) := by cases p <;> exact aside rfl
theorem removeHolder (s : State) (n : NodeId) (b : Block) : Deed fr s (s.removeHolder n b) := work (Work.removeHolder s n b)
theorem placeRead (s : State) (i : TTIdx) (mp : MPort) (a : MemAddr) (b : Bool) : Deed fr s (s.placeRead i mp a b) :=
  work (Work.placeRead s i mp a b)
theorem placeWrite (s : State) (o : OpOwner) (mp : MPort) (a : MemAddr) (d : BlockData) : Deed fr s (s.placeWrite o mp a d) :=
  modMP s mp _

theorem beginStep (s : State) : Deed fr s s.beginStep := aside rfl

theorem reply (s : State) (n : NodeId) (tag : ReqTag) (st : Status) (ws : List Word) : Deed fr s (s.reply n tag st ws) := by
  unfold State.reply
  split
  · exact aside rfl
  · exact (enqueue s n .agent (.controlReply tag st ws)).trans (aside rfl)

/-! ### The agent -/

/-- What a take of the agent can be: nothing, a refusal of the argument count, or the command performed. -/
theorem agentTake (s : State) (mine : ControlReq → Bool) (f : State → ControlReq → State)
    (h : ∀ t c, Deed fr t (f t c)) : Deed fr s (s.agentTake mine f) := by
  unfold State.agentTake
  split
  · next c rest _ e =>
    split
    · refine (control s rest (by rw [e]; exact Nat.le_succ _)).trans ?_
      dsimp only
      split
      · exact h _ _
      · exact reply _ _ _ _ _
    · exact refl s
  · exact refl s

theorem withNode (s : State) (c : ControlReq) (f : NodeId → State) (h : ∀ n, Deed fr s (f n)) : Deed fr s (s.withNode c f) := by
  unfold State.withNode
  split
  · exact reply s _ _ _ _
  · exact h _

theorem withRegion (s : State) (c : ControlReq) (f : RegionIdx → State) (h : ∀ r, Deed fr s (f r)) :
    Deed fr s (s.withRegion c f) := by
  unfold State.withRegion
  split
  · exact reply s _ _ _ _
  · exact h _

theorem withSlot (s : State) (c : ControlReq) (f : CaptureClass → State) (h : ∀ k, Deed fr s (f k)) :
    Deed fr s (s.withSlot c f) := by
  unfold State.withSlot
  split
  · exact reply s _ _ _ _
  · exact h _

theorem withMemPort (s : State) (c : ControlReq) (f : MPort → State) (h : ∀ p, Deed fr s (f p)) :
    Deed fr s (s.withMemPort c f) := by
  unfold State.withMemPort
  split
  · exact reply s _ _ _ _
  · exact h _

theorem readNode (s : State) (c : ControlReq) : Deed fr s (s.readNode c) := withNode s c _ fun _ => reply s _ _ _ _

theorem writeNode (s : State) (c : ControlReq) : Deed fr s (s.writeNode c) := by
  refine withNode s c _ fun n => ?_
  split
  · exact reply s _ _ _ _
  · next t _ =>
    exact (record s n (fun r => { r with manager := c.managerFlag, recallTimeout := t }) fun _ => rfl).trans (reply _ _ _ _ _)

theorem admitNode (s : State) (c : ControlReq) : Deed fr s (s.admitNode c) := by
  refine withNode s c _ fun n => ?_
  split
  · next h => exact (makeActive s n h.1).trans (reply _ _ _ _ _)
  · exact reply s _ _ _ _

theorem quiesceNode (s : State) (c : ControlReq) : Deed fr s (s.quiesceNode c) := by
  refine withNode s c _ fun n => ?_
  split
  · exact reply s _ _ _ _
  · next h =>
    split
    · exact reply s _ _ _ _
    · exact (quiesce s n (not_not.mp h)).trans (reply _ _ _ _ _)

theorem fenceNode (s : State) (c : ControlReq) : Deed fr s (s.fenceNode c) := by
  refine withNode s c _ fun n => ?_
  split
  · exact (fence s n _).trans (reply _ _ _ _ _)
  · exact reply s _ _ _ _

theorem releaseNode (s : State) (c : ControlReq) : Deed fr s (s.releaseNode c) := by
  refine withNode s c _ fun n => ?_
  split
  · exact reply s _ _ _ _
  · next h =>
    split
    · exact reply s _ _ _ _
    · exact ((release s n (not_not.mp h)).trans (reply _ _ _ _ _)).trans (flushNotices _)

theorem setNoticeNode (s : State) (c : ControlReq) : Deed fr s (s.setNoticeNode c) := by
  refine withNode s c _ fun n => ?_
  have h : Deed fr s { s with noticeNode := n } := aside rfl
  exact (h.trans (reply _ _ _ _ _)).trans (flushNotices _)

theorem readRegion (s : State) (c : ControlReq) : Deed fr s (s.readRegion c) := withRegion s c _ fun _ => reply s _ _ _ _

theorem writeRegion (s : State) (c : ControlReq) : Deed fr s (s.writeRegion c) := by
  refine withRegion s c _ fun r => ?_
  split
  · exact reply s _ _ _ _
  · next h =>
    split
    · exact reply s _ _ _ _
    · split
      · exact (write s r _ (not_not.mp h) (fun _ => by rfl)).trans (reply _ _ _ _ _)
      · exact reply s _ _ _ _

theorem openRegion (s : State) (c : ControlReq) : Deed fr s (s.openRegion c) := by
  unfold State.openRegion
  split
  · split
    · next h => exact (opened s _ _ h.1 h.2.2).trans (reply _ _ _ _ _)
    · exact reply s _ _ _ _
  · exact reply s _ _ _ _

theorem closeRegion (s : State) (c : ControlReq) : Deed fr s (s.closeRegion c) := by
  refine withRegion s c _ fun r => ?_
  split
  · exact reply s _ _ _ _
  · next h =>
    split
    · exact reply s _ _ _ _
    · refine (close s r _ ?_).trans (reply _ _ _ _ _)
      intro e
      rw [e] at h
      exact h rfl

theorem probeBlock (s : State) (c : ControlReq) : Deed fr s (s.probeBlock c) := by
  unfold State.probeBlock
  split <;> exact reply s _ _ _ _

theorem reclaimBlock (s : State) (c : ControlReq) : Deed fr s (s.reclaimBlock c) := by
  unfold State.reclaimBlock
  split
  · exact reply s _ _ _ _
  · split
    · exact aside rfl
    · exact reply s _ _ _ _

theorem readCapture (s : State) (c : ControlReq) : Deed fr s (s.readCapture c) := withSlot s c _ fun _ => reply s _ _ _ _

theorem releaseCapture (x : fr) (s : State) (c : ControlReq) : Deed fr s (s.releaseCapture c) :=
  withSlot s c _ fun k => (free x s k _).trans (reply _ _ _ _ _)

theorem readStatusGeneral (s : State) (c : ControlReq) : Deed fr s (s.readStatusGeneral c) := by
  unfold State.readStatusGeneral
  split <;> exact reply s _ _ _ _

theorem setMemoryTimeout (s : State) (c : ControlReq) : Deed fr s (s.setMemoryTimeout c) := by
  refine withMemPort s c _ fun p => ?_
  split
  · exact reply s _ _ _ _
  · exact (modMP s p _).trans (reply _ _ _ _ _)

theorem resetMemoryPort (s : State) (c : ControlReq) : Deed fr s (s.resetMemoryPort c) := by
  refine withMemPort s c _ fun p => ?_
  split
  · exact reply s _ _ _ _
  · exact (modMP s p _).trans (reply _ _ _ _ _)

theorem badCommand (s : State) : Deed fr s s.badCommand := by
  unfold State.badCommand
  split
  · next c rest _ e =>
    split
    · exact (control s rest (by rw [e]; exact Nat.le_succ _)).trans (reply _ _ _ _ _)
    · exact refl s
  · exact refl s

/-! ### The Pool Link ports -/

theorem refuse (s : State) (n : NodeId) (m : Msg) : Deed fr s (s.refuse n m) :=
  (enqueue s n .intake m).trans (aside rfl)

theorem arriveControl (s : State) (n : NodeId) (m : InMsg) : Deed fr s (s.arriveControl n m) := by
  unfold State.arriveControl
  split
  · split
    · next h => exact ask s _ h
    · split
      · exact offer s _
      · exact refuse s _ _
  · exact offer s _

theorem arrive (s : State) (n : NodeId) (cls : MsgClass) (m : InMsg) : Deed fr s (s.arrive n cls m) := by
  unfold State.arrive
  have counted : (s.node n).state.counted = true → Deed fr s
      (if (s.port n).credits cls = 0 then s.offer { s.stamped .creditOverrun with node := some n, block := m.block }
        else s.modPort n fun p => p.accept cls m) := by
    intro hc
    split
    · exact offer s _
    · next h => exact accept s n cls m hc h
  split
  · exact refl s
  · split
    · next h => exact counted (by rw [h]; rfl)
    · next h => exact counted (by rw [h]; rfl)
    · split
      · exact arriveControl s n m
      · exact refl s
    · exact refl s

theorem linkUp (s : State) (n : NodeId) :
    Deed fr s (if (s.port n).link = .up then s else (s.modPort n fun p => { p with link := .up }).flushNotices) := by
  split
  · exact refl s
  · exact (link s n .up).trans (flushNotices _)

theorem linkDown (s : State) (n : NodeId) : Deed fr s (s.linkDown n) := by
  unfold State.linkDown
  split
  · exact refl s
  · dsimp only
    split
    · exact (((link s n .down).trans (offer _ _)).trans (fence _ n _)).trans (settle _)
    · exact link s n .down

theorem departed (s : State) (n : NodeId) (m : OutMsg) : Deed fr s (s.departed n m) := by
  have pace : ∀ t : State, ∀ i, Deed fr t (t.clearPacing i n) := fun t i =>
    (modTT t i _).trans (work (Work.flushHeld _ i n))
  unfold State.departed
  split
  · split
    · exact (modEntry s _ _).trans (pace _ _)
    · exact pace s _
  · exact setWB s _ _
  · exact aside rfl
  · exact aside rfl
  · refine (slot s _ _ fun t => ?_).trans (work (Work.queueNotice _ _))
    unfold CaptureSlot.noticeGone
    split <;> rfl
  · unfold State.jobLeaves
    dsimp only
    split
    · exact (leave s _).trans (record _ _ _ fun _ => rfl)
    · exact leave s _
  · exact refl s

theorem depart (s : State) (n : NodeId) : Deed fr s (s.depart n) := by
  unfold State.depart
  split
  · exact refl s
  · next m rest _ =>
    have h : Deed fr s (s.emit (if (s.port n).link = .up then .deliver n m.msg.words else .lost n)) := aside rfl
    exact ((h.trans (outbound _ n rest)).trans (departed _ n m)).trans (settle _)

/-! ### The Request Intake and the Return Handler -/

theorem takeHead (s : State) (n : NodeId) (cls : MsgClass) (h : (s.port n).inbox cls ≠ []) : Deed fr s (s.takeHead n cls) :=
  (taken s n cls h).trans (aside rfl)

theorem startEntry (s : State) (i : TTIdx) (e : TTEntry) : Deed fr s (s.startEntry i e) := work (Work.startEntry s i e)

theorem intakeAct (s : State) (n : NodeId) (m : InMsg) (o : IntakeOutcome) (h : s.hasRoom o = true) :
    Deed fr s (s.intakeAct n m o) := by
  unfold State.intakeAct
  split
  · dsimp only
    split
    · exact (refuse s n _).trans (offer _ _)
    · exact refuse s n _
  · exact ask s _ (by simpa [State.hasRoom] using h)
  · exact hold s _ (by simpa [State.hasRoom] using h)
  · split
    · exact startEntry s _ _
    · exact refl s

theorem intakeTake (s : State) : Deed fr s s.intakeTake := by
  unfold State.intakeTake
  split
  · exact refl s
  · next n m e =>
    obtain ⟨k, -, hk⟩ := List.exists_of_findSome?_eq_some e
    obtain ⟨x, hx, hy⟩ := Option.map_eq_some_iff.mp hk
    cases hy
    unfold State.eligibleHead at hx
    split at hx
    · cases hx
    · next y ys hq =>
      split at hx
      · next hr =>
        cases hx
        simp only [Bool.and_eq_true] at hr
        have h1 : Deed fr s ({ s.takeHead n .request with intakePos := n }) :=
          (takeHead s n .request (by simp [Port.inbox, hq])).trans (aside rfl)
        refine (h1.trans (intakeAct _ n m _ ?_)).trans (settle _)
        have := hr.2
        cases ho : s.intakeOutcome n m with
        | refuse b r => rfl
        | control c => rw [ho] at this; exact this
        | hold q r => rw [ho] at this; exact this
        | dispatch q l => rw [ho] at this; exact this
      · cases hx

theorem makeWriteback (s : State) (w : WBIdx) (n : NodeId) (b : Block) (d : BlockData) : Deed fr s (s.makeWriteback w n b d) := by
  unfold State.makeWriteback
  split
  · exact (setWB s w _).trans (placeWrite _ _ _ _ _)
  · exact (setWB s w _).trans (enqueue _ _ _ _)

theorem strayWriteback (s : State) (w : WBIdx) (n : NodeId) (b : Block) : Deed fr s (s.strayWriteback w n b) :=
  ((setWB s w _).trans (enqueue _ _ _ _)).trans (offer _ _)

theorem absorbWriteback (s : State) (i : TTIdx) (r : Role) (n : NodeId) (d : BlockData) : Deed fr s (s.absorbWriteback i r n d) :=
  modEntry s i _

theorem markMember (s : State) (i : TTIdx) (r : Role) (n : NodeId) (x : MemberStatus) : Deed fr s (s.markMember i r n x) :=
  modEntry s i _

theorem takeWriteback (s : State) (w : WBIdx) (n : NodeId) (b : Block) (d : BlockData) : Deed fr s (s.takeWriteback w n b d) := by
  unfold State.takeWriteback
  split
  · unfold State.ownerWriteback
    dsimp only
    split
    · exact ((removeHolder s n b).trans (absorbWriteback _ _ _ _ _)).trans (makeWriteback _ _ _ _ _)
    · exact (removeHolder s n b).trans (makeWriteback _ _ _ _ _)
  · exact strayWriteback s w n b
  · exact strayWriteback s w n b
  · unfold State.repairWriteback
    split
    · exact strayWriteback s w n b
    · split
      · unfold State.lateWriteback
        dsimp only
        split
        · exact ((markMember s _ _ _ _).trans (strayWriteback _ _ _ _)).trans (offer _ _)
        · exact (markMember s _ _ _ _).trans (strayWriteback _ _ _ _)
      · split
        · exact (absorbWriteback s _ _ _ _).trans (makeWriteback _ _ _ _ _)
        · exact strayWriteback s w n b

theorem absorbEvict (s : State) (n : NodeId) (b : Block) : Deed fr s (s.absorbEvict n b) := by
  unfold State.absorbEvict
  split
  · exact markMember s _ _ _ _
  · exact refl s

theorem takeEvict (s : State) (n : NodeId) (b : Block) : Deed fr s (s.takeEvict n b) := by
  unfold State.takeEvict
  split
  · exact (removeHolder s n b).trans (absorbEvict _ n b)
  · exact (removeHolder s n b).trans (absorbEvict _ n b)
  · exact refl s
  · exact absorbEvict s n b

theorem resolveBy (s : State) (i : TTIdx) (r : Role) (n : NodeId) (x : Resolution) : Deed fr s (s.resolveBy i r n x) :=
  modEntry s i _

theorem resolveWith (s : State) (i : TTIdx) (r : Role) (n : NodeId) (x : Resolution) (d : BlockData) :
    Deed fr s (s.resolveWith i r n x d) := modEntry s i _

theorem takeAck (s : State) (n : NodeId) (b : Block) (a : AckResult) : Deed fr s (s.takeAck n b a) := by
  unfold State.takeAck
  dsimp only
  split
  · exact offer s _
  · split
    · exact offer s _
    · split
      · unfold State.ackAbsorbed
        dsimp only
        split
        · exact (resolveBy s _ _ _ _).trans (offer _ _)
        · exact resolveBy s _ _ _ _
      · split
        · unfold State.ackRepair
          split
          · split
            · exact resolveWith s _ _ _ _ _
            · exact (resolveBy s _ _ _ _).trans (offer _ _)
          · exact resolveBy s _ _ _ _
          · exact resolveBy s _ _ _ _
        · split
          · unfold State.ackOwner
            split
            · exact resolveWith s _ _ _ _ _
            · exact resolveBy s _ _ _ _
            · exact (resolveWith s _ _ _ _ _).trans (offer _ _)
          · unfold State.ackSharer
            split
            · exact (resolveBy s _ _ _ _).trans (offer _ _)
            · exact resolveBy s _ _ _ _
            · exact resolveBy s _ _ _ _

theorem returnTake (s : State) (n : NodeId) : Deed fr s (s.returnTake n) := by
  unfold State.returnTake
  split
  · exact refl s
  · next m rest e =>
    split
    · refine ((takeHead s n .ret (by simp [Port.inbox, e])).trans ?_).trans (settle _)
      unfold State.returnAct
      split
      · split
        · exact takeWriteback _ _ _ _ _
        · exact refl _
      · exact takeEvict _ _ _
      · exact takeAck _ _ _ _
      · exact offer _ _
    · exact refl s

/-! ### Expiry and the Memory Ports -/

theorem expireRecall (s : State) (i : TTIdx) (n : NodeId) : Deed fr s (s.expireRecall i n) := by
  unfold State.expireRecall
  split
  · exact refl s
  · next e _ =>
    split
    · exact refl s
    · next r _ =>
      refine Deed.trans (Deed.trans (offer s { s.stamped .recallTimeout with node := some n, block := e.blockOf r, tt := some i }) ?_)
        (settle _)
      split
      · exact fence _ n _
      · exact refl _

theorem noteOp (s : State) (o : OpOwner) (t : Option MemTag) : Deed fr s (s.noteOp o t) := by
  cases o
  · exact modEntry s _ _
  · exact setWB s _ _

theorem issue (s : State) (mp : MPort) : Deed fr s (s.issue mp) := by
  unfold State.issue
  split
  · next op rest t _ _ =>
    have h : Deed fr s (s.emit ((s.mp mp).command mp t op)) := aside rfl
    exact (h.trans (modMP _ mp _)).trans (noteOp _ _ _)
  · exact refl s

theorem unexpectedResponse (s : State) (mp : MPort) (t : MemTag) : Deed fr s (s.unexpectedResponse mp t) := offer s _
theorem wrongKind (s : State) (mp : MPort) (t : MemTag) (o : OpOwner) : Deed fr s (s.wrongKind mp t o) := offer s _

theorem donePending (s : State) (w : WBIdx) : Deed fr s (s.donePending w) := by
  unfold State.donePending
  split
  · exact refl s
  · split
    · exact setWB s w _
    · exact (setWB s w _).trans (enqueue _ _ _ _)

theorem deliverRead (s : State) (o : OpOwner) (d : BlockData) : Deed fr s (s.deliverRead o d) := by
  cases o
  · exact modEntry s _ _
  · exact refl s

theorem deliverWrite (s : State) (o : OpOwner) (b : Bool) : Deed fr s (s.deliverWrite o b) := by
  cases o
  · exact modEntry s _ _
  · exact donePending s _

theorem noteRetry (s : State) (o : OpOwner) : Deed fr s (s.noteRetry o) := by
  unfold State.noteRetry
  split
  · exact noteOp s _ _
  · exact (setWB s _ _).trans (noteOp _ _ _)

theorem failWrite (s : State) (mp : MPort) (t : MemTag) (op : MemOp) (reason : CaptureReason) (x : TagState) :
    Deed fr s (s.failWrite mp t op reason x) := by
  unfold State.failWrite
  dsimp only
  split
  · exact (modMP s mp _).trans (deliverWrite _ _ _)
  · split
    · exact ((modMP s mp _).trans (modMP _ mp _)).trans (deliverWrite _ _ _)
    · split
      · exact ((((modMP s mp _).trans (offer _ _)).trans (offer _ _)).trans (modMP _ mp _)).trans (deliverWrite _ _ _)
      · exact (((modMP s mp _).trans (offer _ _)).trans (modMP _ mp _)).trans (noteRetry _ _)

theorem endReadEarly (s : State) (mp : MPort) (t : MemTag) (op : MemOp) (got : Vector (Option Beat) 4)
    (reason : CaptureReason) (x : TagState) : Deed fr s (s.endReadEarly mp t op got reason x) :=
  ((modMP s mp _).trans (offer _ _)).trans (deliverRead _ _ _)

theorem refuseRead (s : State) (mp : MPort) (t : MemTag) (op : MemOp) : Deed fr s (s.refuseRead mp t op) := by
  unfold State.refuseRead
  split
  · exact endReadEarly s _ _ _ _ _ _
  · dsimp only
    split
    · exact (modMP s mp _).trans (placeRead _ _ _ _ _)
    · exact modMP s mp _

theorem beat (s : State) (mp : MPort) (tag : Nat) (k : Fin 4) (x : Beat) : Deed fr s (s.beat mp tag k x) := by
  unfold State.beat
  split
  · exact unexpectedResponse s _ _
  · split
    · unfold State.keepBeat
      split
      · exact offer s _
      · dsimp only
        split
        · exact (modMP s mp _).trans (deliverRead _ _ _)
        · exact modMP s mp _
    · exact wrongKind s _ _ _
  · split
    · unfold State.staleBeat
      exact modMP s mp _
    · exact unexpectedResponse s _ _

theorem ack (s : State) (mp : MPort) (tag : Nat) : Deed fr s (s.ack mp tag) := by
  unfold State.ack
  split
  · exact unexpectedResponse s _ _
  · split
    · exact (modMP s mp _).trans (deliverWrite _ _ _)
    · exact wrongKind s _ _ _
  · split
    · exact modMP s mp _
    · exact unexpectedResponse s _ _

theorem memFault (s : State) (mp : MPort) (tag : Nat) : Deed fr s (s.memFault mp tag) := by
  unfold State.memFault
  split
  · exact unexpectedResponse s _ _
  · split
    · exact endReadEarly s _ _ _ _ _ _
    · exact failWrite s _ _ _ _ _
  · exact modMP s mp _

theorem memRefuse (s : State) (mp : MPort) (tag : Nat) : Deed fr s (s.memRefuse mp tag) := by
  unfold State.memRefuse
  split
  · exact unexpectedResponse s _ _
  · split
    · exact refuseRead s _ _ _
    · exact failWrite s _ _ _ _ _
  · exact modMP s mp _

theorem memExpire (s : State) (mp : MPort) (t : MemTag) : Deed fr s (s.memExpire mp t) := by
  unfold State.memExpire
  split
  · split
    · refine Deed.trans ?_ (settle _)
      split
      · exact endReadEarly s _ _ _ _ _ _
      · exact failWrite s _ _ _ _ _
    · exact refl s
  · exact refl s

/-! ### Every command -/

theorem run {f : State → State} {s t : State} (h : Machine.run f s = .next t) (k : ∀ u, Deed fr u (f u)) : Deed fr s t := by
  unfold Machine.run at h
  injection h with h
  subst h
  split
  · exact (beginStep s).trans (k _)
  · exact beginStep s

/-- Every command but the two resets and the tick is made of these updates. -/
theorem exec (c : Instr) (s t : State) (h : Machine.exec c s = .next t) (tick : c ≠ .timeBaseAdvance) (warm : c ≠ .restart)
    (cold : ∀ x, c ≠ .coldReset x) : Deed (c = .releaseCapture) s t := by
  cases c
  case messageArrival n cls ws =>
    unfold Machine.exec execMessageArrival at h
    refine run h fun u => ?_
    split
    · exact refl u
    · exact arrive u _ _ _
  case linkUp n =>
    unfold Machine.exec execLinkUp at h
    exact run h fun u => linkUp u n
  case linkDown n =>
    unfold Machine.exec execLinkDown at h
    exact run h fun u => linkDown u n
  case departure n =>
    unfold Machine.exec execDeparture at h
    exact run h fun u => depart u n
  case intakeTake =>
    unfold Machine.exec execIntakeTake at h
    exact run h intakeTake
  case returnTake n =>
    unfold Machine.exec execReturnTake at h
    exact run h fun u => returnTake u n
  case recallDeadlineExpiry i n =>
    unfold Machine.exec execRecallDeadlineExpiry at h
    exact run h fun u => expireRecall u i n
  case memoryIssue mp =>
    unfold Machine.exec execMemoryIssue at h
    exact run h fun u => issue u mp
  case mbeat mp tag k d x =>
    unfold Machine.exec execMbeat at h
    refine run h fun u => ?_
    split
    · exact (beat u _ _ _ _).trans (settle _)
    · exact offer u _
  case mack mp tag =>
    unfold Machine.exec execMack at h
    exact run h fun u => (ack u _ _).trans (settle _)
  case mfault mp tag =>
    unfold Machine.exec execMfault at h
    exact run h fun u => (memFault u _ _).trans (settle _)
  case mrefuse mp tag =>
    unfold Machine.exec execMrefuse at h
    exact run h fun u => (memRefuse u _ _).trans (settle _)
  case memoryDeadlineExpiry mp t =>
    unfold Machine.exec execMemoryDeadlineExpiry at h
    exact run h fun u => memExpire u _ _
  case readNode =>
    unfold Machine.exec execReadNode at h
    exact run h fun u => agentTake u _ _ readNode
  case writeNode =>
    unfold Machine.exec execWriteNode at h
    exact run h fun u => agentTake u _ _ writeNode
  case admitNode =>
    unfold Machine.exec execAdmitNode at h
    exact run h fun u => agentTake u _ _ admitNode
  case quiesceNode =>
    unfold Machine.exec execQuiesceNode at h
    exact run h fun u => agentTake u _ _ fun v c => (quiesceNode v c).trans (settle _)
  case fenceNode =>
    unfold Machine.exec execFenceNode at h
    exact run h fun u => agentTake u _ _ fun v c => (fenceNode v c).trans (settle _)
  case releaseNode =>
    unfold Machine.exec execReleaseNode at h
    exact run h fun u => agentTake u _ _ releaseNode
  case setNoticeNode =>
    unfold Machine.exec execSetNoticeNode at h
    exact run h fun u => agentTake u _ _ setNoticeNode
  case readRegion =>
    unfold Machine.exec execReadRegion at h
    exact run h fun u => agentTake u _ _ readRegion
  case writeRegion =>
    unfold Machine.exec execWriteRegion at h
    exact run h fun u => agentTake u _ _ writeRegion
  case openRegion =>
    unfold Machine.exec execOpenRegion at h
    exact run h fun u => agentTake u _ _ openRegion
  case closeRegion =>
    unfold Machine.exec execCloseRegion at h
    exact run h fun u => agentTake u _ _ fun v c => (closeRegion v c).trans (settle _)
  case probeBlock =>
    unfold Machine.exec execProbeBlock at h
    exact run h fun u => agentTake u _ _ probeBlock
  case reclaimBlock =>
    unfold Machine.exec execReclaimBlock at h
    exact run h fun u => agentTake u _ _ fun v c => (reclaimBlock v c).trans (settle _)
  case readCapture =>
    unfold Machine.exec execReadCapture at h
    exact run h fun u => agentTake u _ _ readCapture
  case releaseCapture =>
    unfold Machine.exec execReleaseCapture at h
    exact run h fun u => agentTake u _ _ fun v c => releaseCapture rfl v c
  case readStatusGeneral =>
    unfold Machine.exec execReadStatusGeneral at h
    exact run h fun u => agentTake u _ _ readStatusGeneral
  case readStatusJobs =>
    unfold Machine.exec execReadStatusJobs at h
    exact run h fun u => agentTake u _ _ fun v c => reply v _ _ _ _
  case setMemoryTimeout =>
    unfold Machine.exec execSetMemoryTimeout at h
    exact run h fun u => agentTake u _ _ setMemoryTimeout
  case resetMemoryPort =>
    unfold Machine.exec execResetMemoryPort at h
    exact run h fun u => agentTake u _ _ resetMemoryPort
  case restart => exact absurd rfl warm
  case badCommandCode =>
    unfold Machine.exec execBadCommandCode at h
    exact run h badCommand
  case coldReset x => exact absurd rfl (cold x)
  case coldResetRelease x => cases x <;> (injection h with h; subst h; exact aside rfl)
  case timeBaseAdvance => exact absurd rfl tick

end Deed
end Sys2Proof.Machine
end

