-- ==== Sys2Proof/Laws/Operands.lean ====
section
/-! SUPPORT. The fields of a word as numbers, and the bytes that a merged beat selects. -/

namespace Sys2Proof.Machine

/-- A field of a word, as a number. -/
theorem field_toNat (x : Word) (lo w : Nat) : (field x lo w).toNat = x.toNat / 2 ^ lo % 2 ^ w := by
  unfold field
  rw [BitVec.extractLsb'_toNat, Nat.shiftRight_eq_div_pow]

/-- The bits of a byte of ones. -/
theorem low_byte (i : Nat) : (0xFF#128).getLsbD i = decide (i < 8) := by
  by_cases hi : i < 128
  · have h : ∀ k : Fin 128, (0xFF#128).getLsbD k.val = decide (k.val < 8) := by decide
    exact h ⟨i, hi⟩
  · rw [BitVec.getLsbD_of_ge _ _ (by omega), decide_eq_false (by omega)]

/-- R94: the bit of a beat that the flag of its byte selects. -/
theorem byteSelect_getLsbD (flags : BitVec 16) (j : Nat) (h : j < 128) :
    (byteSelect flags).getLsbD j = flags.getLsbD (j / 8) := by
  have key : ∀ (ks : List Nat) (acc : BitVec 128),
      (ks.foldl (fun acc k => if flags.getLsbD k then acc ||| (0xFF#128 <<< (8 * k)) else acc) acc).getLsbD j =
        (acc.getLsbD j || ks.any fun k => flags.getLsbD k && decide (8 * k ≤ j ∧ j < 8 * k + 8)) := by
    intro ks
    induction ks with
    | nil => intro acc; simp
    | cons k rest ih =>
      intro acc
      rw [List.foldl_cons, ih, List.any_cons, ← Bool.or_assoc]
      congr 1
      split
      · next hk =>
        rw [hk, BitVec.getLsbD_or, BitVec.getLsbD_shiftLeft]
        congr 1
        rw [low_byte]
        by_cases a : 8 * k ≤ j <;> by_cases b : j < 8 * k + 8 <;> simp [h, a, b] <;> omega
      · next hk => simp [hk]
  unfold byteSelect
  rw [key]
  have e : (List.range 16).any (fun k => flags.getLsbD k && decide (8 * k ≤ j ∧ j < 8 * k + 8)) = flags.getLsbD (j / 8) := by
    rw [Bool.eq_iff_iff, List.any_eq_true]
    constructor
    · rintro ⟨k, -, hk⟩
      rw [Bool.and_eq_true, decide_eq_true_eq] at hk
      have : j / 8 = k := by omega
      rw [this]; exact hk.1
    · intro hf
      refine ⟨j / 8, List.mem_range.mpr (by omega), ?_⟩
      rw [Bool.and_eq_true, decide_eq_true_eq]
      exact ⟨hf, by omega⟩
  rw [e]
  simp

end Sys2Proof.Machine
end

