-- ==== Sys2Proof/WellFormed.lean ====
section
/-! DEFINITION. Which commands are well formed. Every operand but one carries its range in its type. -/

namespace Sys2Proof

/-- A message is whole when it arrives and is decoded from its header (00_scope.md, R189), so an arrival
has at least its header word. Every other command is well formed: a response's tag or beat index out of
range has a meaning (R121, R134), and so has a malformed message (R2). -/
def Instr.wellFormed : Instr → Bool
  | .messageArrival _ _ words => !words.isEmpty
  | _ => true

end Sys2Proof
end

