-- ==== Sys2Proof/Laws/PerInstr.lean ====
section
/-! SUPPORT. The laws that are stated command by command. -/

/-- A command is well formed unless it is the arrival of a message without a single word. -/
def Sys2Proof.Laws.WellFormedForm.Statement (i : Sys2Proof.Instr) : Prop :=
  i.wellFormed = true ↔ ∀ port cls, i ≠ .messageArrival port cls []

namespace Sys2Proof.Laws.WellFormedForm

theorem messageArrival (port : NodeId) (cls : MsgClass) (words : List Word) : Statement (.messageArrival port cls words) := by
  cases words <;> simp [Statement, Instr.wellFormed]

theorem linkUp (port : NodeId) : Statement (.linkUp port) := by simp [Statement, Instr.wellFormed]

theorem linkDown (port : NodeId) : Statement (.linkDown port) := by simp [Statement, Instr.wellFormed]

theorem departure (port : NodeId) : Statement (.departure port) := by simp [Statement, Instr.wellFormed]

theorem intakeTake : Statement .intakeTake := by simp [Statement, Instr.wellFormed]

theorem returnTake (port : NodeId) : Statement (.returnTake port) := by simp [Statement, Instr.wellFormed]

theorem recallDeadlineExpiry (tt : TTIdx) (node : NodeId) : Statement (.recallDeadlineExpiry tt node) := by simp [Statement, Instr.wellFormed]

theorem memoryIssue (mp : MPort) : Statement (.memoryIssue mp) := by simp [Statement, Instr.wellFormed]

theorem mbeat (mp : MPort) (tag : Nat) (beat : Nat) (data : BitVec 128) (mark : Bool) : Statement (.mbeat mp tag beat data mark) := by simp [Statement, Instr.wellFormed]

theorem mack (mp : MPort) (tag : Nat) : Statement (.mack mp tag) := by simp [Statement, Instr.wellFormed]

theorem mfault (mp : MPort) (tag : Nat) : Statement (.mfault mp tag) := by simp [Statement, Instr.wellFormed]

theorem mrefuse (mp : MPort) (tag : Nat) : Statement (.mrefuse mp tag) := by simp [Statement, Instr.wellFormed]

theorem memoryDeadlineExpiry (mp : MPort) (tag : MemTag) : Statement (.memoryDeadlineExpiry mp tag) := by simp [Statement, Instr.wellFormed]

theorem readNode : Statement .readNode := by simp [Statement, Instr.wellFormed]

theorem writeNode : Statement .writeNode := by simp [Statement, Instr.wellFormed]

theorem admitNode : Statement .admitNode := by simp [Statement, Instr.wellFormed]

theorem quiesceNode : Statement .quiesceNode := by simp [Statement, Instr.wellFormed]

theorem fenceNode : Statement .fenceNode := by simp [Statement, Instr.wellFormed]

theorem releaseNode : Statement .releaseNode := by simp [Statement, Instr.wellFormed]

theorem setNoticeNode : Statement .setNoticeNode := by simp [Statement, Instr.wellFormed]

theorem readRegion : Statement .readRegion := by simp [Statement, Instr.wellFormed]

theorem writeRegion : Statement .writeRegion := by simp [Statement, Instr.wellFormed]

theorem openRegion : Statement .openRegion := by simp [Statement, Instr.wellFormed]

theorem closeRegion : Statement .closeRegion := by simp [Statement, Instr.wellFormed]

theorem probeBlock : Statement .probeBlock := by simp [Statement, Instr.wellFormed]

theorem reclaimBlock : Statement .reclaimBlock := by simp [Statement, Instr.wellFormed]

theorem readCapture : Statement .readCapture := by simp [Statement, Instr.wellFormed]

theorem releaseCapture : Statement .releaseCapture := by simp [Statement, Instr.wellFormed]

theorem readStatusGeneral : Statement .readStatusGeneral := by simp [Statement, Instr.wellFormed]

theorem readStatusJobs : Statement .readStatusJobs := by simp [Statement, Instr.wellFormed]

theorem setMemoryTimeout : Statement .setMemoryTimeout := by simp [Statement, Instr.wellFormed]

theorem resetMemoryPort : Statement .resetMemoryPort := by simp [Statement, Instr.wellFormed]

theorem restart : Statement .restart := by simp [Statement, Instr.wellFormed]

theorem badCommandCode : Statement .badCommandCode := by simp [Statement, Instr.wellFormed]

theorem coldReset (cause : ResetCause) : Statement (.coldReset cause) := by simp [Statement, Instr.wellFormed]

theorem coldResetRelease (cause : ResetCause) : Statement (.coldResetRelease cause) := by simp [Statement, Instr.wellFormed]

theorem timeBaseAdvance : Statement .timeBaseAdvance := by simp [Statement, Instr.wellFormed]

end Sys2Proof.Laws.WellFormedForm
end

