-- ==== Sys2Proof/Tests/Slice0.lean ====
section
/-! SUPPORT. The model's own tests: well-formedness, one small step for each command, and states that meet the hypotheses of the statements. -/

set_option Elab.async false

namespace Sys2Proof.Tests

open Sys2Proof Sys2Proof.Machine

/-! ### Small states -/

/-- Every node an ACTIVE manager, every link UP, region 0 COHERENT with blocks 0 to 4095 on MP0, region 1 UNTRACKED with
blocks 4096 to 8191 on MP1. -/
def calm : State := { State.reset with
  ports := Vector.replicate 8 ⟨[], [], 8, 4, [], .up⟩
  nodes := Vector.replicate 8 ⟨.active, true, 500#12, none, false⟩
  regions := ((Vector.replicate 16 Region.cold).set 0 ⟨.coherent, 0#34, 4096, .mp0, 0#34, 0x7F#8, 0x3F#8, .deliver⟩).set 1
    ⟨.untracked, 4096#34, 4096, .mp1, 64#34, 0xFF#8, 0xFF#8, .refuse⟩ }

/-- The agent READY with one request from node 0, tag 9. -/
def asked (code : BitVec 8) (args : List Word) : State := { calm with controlQ := [⟨0, 9#8, code, args⟩] }

/-- One message at the head of a Request Inbox. -/
def incoming (n : NodeId) (m : InMsg) : State :=
  calm.modPort n fun p => { p with requests := [m], requestCredits := 7 }

/-- One message at the head of a Return Inbox. -/
def returning (s : State) (n : NodeId) (m : InMsg) : State :=
  s.modPort n fun p => { p with returns := [m], returnCredits := 3 }

/-- A two-word message about a block below 2^32. -/
def short (kind : Nat) (qualifier : Nat) (tag : ReqTag) (b : Word) : InMsg :=
  ⟨tag.zeroExtend 32 ||| place 8 kind ||| place 13 qualifier, [b]⟩

/-- A WRITEBACK of a block, its beats zero and unmarked. -/
def writeback (b : Word) : InMsg := ⟨place 8 0x09, b :: List.replicate 17 0#32⟩

/-- Block 100 OWNED by node 2, in way 0 of its set. -/
def owned : State := { calm with dir := [(100, ⟨DirSet.empty.ways.set 0 (.held ⟨100#34, .owned 2, false⟩), [0]⟩)] }

/-- Block 100 SHARED by nodes 2 and 4. -/
def shared : State := { calm with dir := [(100, ⟨DirSet.empty.ways.set 0 (.held ⟨100#34, .shared 0x14#8, false⟩), [0]⟩)] }

/-- Block 100 under repair. -/
def failed : State := { calm with dir := [(100, ⟨DirSet.empty.ways.set 0 (.held ⟨100#34, .owned 2, true⟩), [0]⟩)] }

/-- A FETCH_X of node 1 for block 100, which node 2 owns, its RECALL departed with deadline 400. -/
def recallingX : TTEntry :=
  { TTEntry.fresh (.req .fetchX) .intake (some (1, 7#8)) 100#34 (some ⟨0, .mp0, 100#34⟩) none with
    phase := .recalling
    lookup := some (.held 0 ⟨100#34, .owned 2, false⟩)
    recalls := [⟨2, .invalidate, .departed, some 400#32, .awaiting, none⟩] }

/-- The owner of block 100 being recalled by TT entry 5. -/
def recalling : State := { (owned.setEntry 5 (some recallingX)) with timeBase := 400#32 }

/-- A read of TT entry 5 in flight under tag 3 of MP0, beats 0 and 1 received, its deadline 1000. -/
def reading : State :=
  { ((calm.setEntry 5 (some { recallingX with
        phase := .reading, lookup := some (.reservedNew 0), recalls := [], memOp := some ⟨.read, .primary, some 3⟩ })).modMP
      .mp0 fun p => p.setTag 3
        (.inFlight ⟨.tt 5 .primary, .read, 100#34, false⟩ 1000#32 #v[some ⟨1#128, false⟩, some ⟨2#128, true⟩, none, none]))
    with timeBase := 1000#32 }

/-- A read as above with three beats received. -/
def readingLast : State := reading.modMP .mp0 fun p => p.setTag 3
  (.inFlight ⟨.tt 5 .primary, .read, 100#34, false⟩ 1000#32
    #v[some ⟨1#128, false⟩, some ⟨2#128, true⟩, some ⟨3#128, false⟩, none])

/-- A write of the Writeback Buffer place 0, for node 2, in flight under tag 0 of MP0. -/
def writing (second superseded : Bool) : State :=
  { ((calm.setWB 0 (some ⟨2, 100#34, some ⟨.mp0, 100#34, .zero, second⟩, false, .writing⟩)).modMP .mp0 fun p =>
      { p with
        tags := p.tags.set 0 (.inFlight ⟨.wb 0, .write, 100#34, false⟩ 1000#32 (Vector.replicate 4 none))
        writes := [⟨.wb 0, 100#34, .zero, second, superseded⟩] })
    with timeBase := 1000#32 }

/-- A write of TT entry 5 in flight under tag 0 of MP0. -/
def writingTT : State :=
  { ((calm.setEntry 5 (some { recallingX with phase := .writing, recalls := [], memOp := some ⟨.write, .primary, some 0⟩ })).modMP
      .mp0 fun p => { p with
        tags := p.tags.set 0 (.inFlight ⟨.tt 5 .primary, .write, 100#34, false⟩ 1000#32 (Vector.replicate 4 none))
        writes := [⟨.tt 5 .primary, 100#34, .zero, true, false⟩] })
    with timeBase := 1000#32 }

/-- Tag 1 of MP0 STALE. -/
def staleTag (k : OpKind) (got : BitVec 4) : State :=
  calm.modMP .mp0 fun p => { p with tags := p.tags.set 1 (.stale k got) }

/-- A HOLDER_CHECK of block 100. -/
def heldCheck : CaptureRecord := ⟨.holderCheck, none, some 100#34, none, none, none, 0#32⟩

/-- The DIRECTORY slot locked, its notice PENDING. -/
def locked : State := { (calm.modSlot .directory fun t => t.offer heldCheck) with
  noticeNode := 5, jobs := [⟨.fenceNode 3, .done .completed .pending⟩] }

/-- The state after a command, where it answers one. -/
def after (i : Instr) (s : State) : State :=
  match exec i s with
  | .next t => t
  | _ => s

/-! ### Well-formedness -/

theorem test_illFormedArrival : (Instr.messageArrival 0 .request []).wellFormed = false := by decide

theorem test_wellFormedArrival : (Instr.messageArrival 0 .request [0#32]).wellFormed = true := by decide

theorem test_noTableWord : decodeTableWord 32 0 = none := by decide

/-! ### One step of each command -/

theorem test_messageArrival :
    (after (.messageArrival 3 .request [0x107#32, 100#32]) calm).port 3 =
      ⟨[⟨0x107#32, [100#32]⟩], [], 7, 4, [], .up⟩ := by decide +kernel

theorem test_messageArrival_malformedKind :
    InMsg.parse ⟨0x1F07#32, [100#32]⟩ .request = .malformed := by decide +kernel

theorem test_linkUp : ((after (.linkUp 3) State.reset).port 3).link = .up := by decide +kernel

theorem test_linkDown :
    (after (.linkDown 3) calm).node 3 = ⟨.fenced, true, 500#12, some .linkLost, true⟩ ∧
      ((after (.linkDown 3) calm).slot .node).record = some ⟨.linkLost, some 3, none, none, none, none, 0#32⟩ := by
  decide +kernel

theorem test_departure :
    (after (.departure 4) ((calm.enqueue 4 .intake (.done 7#8 100#34)))).out =
      [.deliver 4 [0x1507#32, 100#32]] := by decide +kernel

theorem test_intakeTake :
    ((after .intakeTake (incoming 1 (short 0x01 0 7#8 100#32))).entry 0).map (fun e => (e.kind, e.block, e.phase)) =
        some (.req .fetchS, 100#34, .reading) ∧
      (after .intakeTake (incoming 1 (short 0x01 0 7#8 100#32))).mp0.issueQ =
        [⟨.tt 0 .primary, .read, 100#34, false⟩] := by decide +kernel

theorem test_intakeTake_refusal :
    ((after .intakeTake (incoming 6 (short 0x02 0 7#8 100#32))).port 6).outbound =
      [⟨.fault 7#8 100#34 .notPermitted true, .intake⟩] := by decide +kernel

theorem test_returnTake_writeback :
    (after (.returnTake 2) (returning owned 2 (writeback 100#32))).dir = [] ∧
      (after (.returnTake 2) (returning owned 2 (writeback 100#32))).wbEntry 0 =
        some ⟨2, 100#34, some ⟨.mp0, 100#34, .zero, false⟩, false, .queued⟩ := by decide +kernel

theorem test_returnTake_ack :
    (((after (.returnTake 2) (returning recalling 2 (short 0x0B 1 0#8 100#32))).entry 5).map fun e => (e.phase, e.changed)) =
      some (.reading, true) := by decide +kernel

theorem test_recallDeadlineExpiry :
    (after (.recallDeadlineExpiry 5 2) recalling).node 2 = ⟨.fenced, true, 500#12, some .recallTimeout, true⟩ ∧
      ((after (.recallDeadlineExpiry 5 2) recalling).entry 5).map (fun e => (e.phase, e.buffer.beats.poisoned)) =
        some (.writing, true) := by decide +kernel

theorem test_memoryIssue :
    (after (.memoryIssue .mp0) (calm.modMP .mp0 fun p => p.queueOp ⟨.tt 5 .primary, .read, 100#34, false⟩)).out =
      [.mread .mp0 0 100#34] := by decide +kernel

theorem test_mbeat_fourth :
    ((after (.mbeat .mp0 3 3 9#128 false) readingLast).port 1).outbound =
        [⟨.grantX 7#8 100#34 #v[⟨1#128, false⟩, ⟨2#128, true⟩, ⟨3#128, false⟩, ⟨9#128, false⟩], .tt 5⟩] := by
  decide +kernel

theorem test_mbeat_duplicate :
    ((after (.mbeat .mp0 3 1 9#128 false) reading).slot .memory).record =
      some ⟨.duplicateBeat, none, some 100#34, some (.mp0, 3), some 5, some 2, 1000#32⟩ := by decide +kernel

theorem test_mack :
    ((after (.mack .mp0 0) (writing false false)).port 2).outbound = [⟨.done 0#8 100#34, .wb 0⟩] := by decide +kernel

theorem test_mfault :
    (after (.mfault .mp0 0) (writing false false)).mp0.writes = [⟨.wb 0, 100#34, .zero, true, false⟩] ∧
      ((after (.mfault .mp0 0) (writing false false)).slot .memory).record =
        some ⟨.writeFault, some 2, some 100#34, some (.mp0, 0), none, none, 1000#32⟩ := by decide +kernel

theorem test_mrefuse_read :
    (after (.mrefuse .mp0 3) reading).mp0.issueQ = [⟨.tt 5 .primary, .read, 100#34, true⟩] := by decide +kernel

theorem test_memoryDeadlineExpiry :
    (after (.memoryDeadlineExpiry .mp0 3) reading).mp0.tags[(3 : MemTag)] = .stale .read 3#4 := by decide +kernel

theorem test_readNode :
    ((after .readNode (asked 0x01#8 [3#32])).port 0).outbound =
      [⟨.controlReply 9#8 .ok [0x01F4000D#32], .agent⟩] := by decide +kernel

theorem test_writeNode :
    (after .writeNode (asked 0x02#8 [0x00640003#32])).node 3 = ⟨.active, false, 100#12, none, false⟩ := by decide +kernel

theorem test_admitNode :
    (after .admitNode ((asked 0x03#8 [3#32]).modNode 3 fun r => { r with state := .offline })).out =
      [.credits 3 .request 8, .credits 3 .ret 4] := by decide +kernel

theorem test_quiesceNode :
    (after .quiesceNode (asked 0x04#8 [3#32])).node 3 = ⟨.offline, true, 500#12, none, false⟩ := by decide +kernel

theorem test_fenceNode :
    (after .fenceNode (asked 0x05#8 [3#32])).node 3 = ⟨.fenced, true, 500#12, some .control, true⟩ := by decide +kernel

theorem test_releaseNode :
    (after .releaseNode ((asked 0x06#8 [3#32]).modNode 3 fun r => { r with state := .fenced })).node 3 =
      ⟨.offline, true, 500#12, none, false⟩ := by decide +kernel

theorem test_setNoticeNode : (after .setNoticeNode (asked 0x07#8 [6#32])).noticeNode = 6 := by decide +kernel

theorem test_readRegion :
    ((after .readRegion (asked 0x08#8 [0#32])).port 0).outbound =
      [⟨.controlReply 9#8 .ok [0x3F7F0000#32, 0#32, 0x01000000#32, 4096#32, 0#32], .agent⟩] := by decide +kernel

theorem test_writeRegion :
    (after .writeRegion (asked 0x09#8 [0x0F1F1102#32, 0x2000#32, 0x00010201#32, 8#32, 0x40#32])).region 2 =
      ⟨.closed, 0x100002000#34, 0x200000008, .mp1, 0x100000040#34, 0x1F#8, 0x0F#8, .refuse⟩ := by decide +kernel

theorem test_openRegion :
    (after .openRegion ((asked 0x0A#8 [0x202#32]).modRegion 2 fun x => { x with base := 8192#34, count := 1, memBase := 4096#34 })).region
        2 = ⟨.untracked, 8192#34, 1, .mp0, 4096#34, 0#8, 0#8, .deliver⟩ := by decide +kernel

theorem test_closeRegion : ((after .closeRegion (asked 0x0B#8 [0#32])).region 0).state = .closed := by decide +kernel

theorem test_probeBlock :
    ((after .probeBlock { owned with controlQ := [⟨0, 9#8, 0x0C#8, [100#32, 0#32]⟩] }).port 0).outbound =
      [⟨.controlReply 9#8 .ok [0x01040205#32, 100#32], .agent⟩] := by decide +kernel

theorem test_reclaimBlock :
    ((after .reclaimBlock { owned with controlQ := [⟨0, 9#8, 0x0D#8, [100#32, 0#32]⟩] }).port 2).outbound =
      [⟨.recall 100#34 .invalidate, .tt 0⟩] := by decide +kernel

theorem test_readCapture :
    ((after .readCapture { locked with controlQ := [⟨0, 9#8, 0x0E#8, [3#32]⟩] }).port 0).outbound =
      [⟨.controlReply 9#8 .ok [0x0010001D#32, 2#32, 100#32, 0#32], .agent⟩] := by decide +kernel

theorem test_releaseCapture :
    (after .releaseCapture { locked with controlQ := [⟨0, 9#8, 0x0F#8, [3#32]⟩] }).slot .directory = CaptureSlot.empty := by
  decide +kernel

theorem test_readStatusGeneral :
    ((after .readStatusGeneral (asked 0x10#8 [0#32])).port 0).outbound =
      [⟨.controlReply 9#8 .ok [0#32, 0x00FF5555#32, 0#32, 0#32, 0x03E803E8#32, 0#32], .agent⟩] := by decide +kernel

theorem test_readStatusJobs :
    ((after .readStatusJobs { locked with controlQ := [⟨0, 9#8, 0x10#8, [1#32]⟩] }).port 0).outbound =
      [⟨.controlReply 9#8 .ok [1#32, 0xCE#32, 0#32, 0#32, 0#32, 0#32], .agent⟩] := by decide +kernel

theorem test_setMemoryTimeout : (after .setMemoryTimeout (asked 0x11#8 [0x0FFF0001#32])).mp1.timeout = 4095#12 := by
  decide +kernel

theorem test_resetMemoryPort :
    (after .resetMemoryPort { staleTag .write 0#4 with controlQ := [⟨0, 9#8, 0x12#8, [0#32]⟩] }).mp0.tags =
      Vector.replicate 16 .free := by decide +kernel

theorem test_restart :
    ((after .restart (asked 0x13#8 [])).port 0).outbound =
      [⟨.disconnect, .nodeManager⟩, ⟨.controlReply 9#8 .ok [], .agent⟩] := by decide +kernel

theorem test_badCommandCode :
    ((after .badCommandCode (asked 0x14#8 [])).port 0).outbound = [⟨.controlReply 9#8 .badCommand [], .agent⟩] := by
  decide +kernel

theorem test_coldReset : (after (.coldReset .resetInput) calm) = { State.reset with resetAsserted := true } := by
  decide +kernel

theorem test_coldResetRelease :
    (after (.coldResetRelease .resetInput) { State.reset with resetAsserted := true }) = State.reset := by decide +kernel

theorem test_timeBaseAdvance :
    (after .timeBaseAdvance { calm with timeBase := 0xFFFFFFFF#32 }).timeBase = 0#32 := by decide +kernel

/-! ### States that meet the hypotheses of the statements -/

/-- The time base about to advance in a state that keeps every invariant. -/
def waiting : State := { calm with pending := [.timeBaseAdvance] }

/-- A node that is being quiesced while a fence job is at work. -/
def quiescing : State := { (waiting.modNode 3 fun r => { r with state := .quiescing }) with jobs := [⟨.quiesceNode 3, .queued⟩] }

/-- A request with three of the four words of its header's count. -/
def control (count : Nat) (args : List Word) : InMsg := ⟨7#32 ||| place 8 0x06 ||| place 16 0x13 ||| place 28 count, 0#32 :: args⟩

/-- A Hold Queue with a request of node 4 for block 100. -/
def holding : State := { calm with hold := [⟨⟨4, 1#8, .fetchS, 100#34, none⟩, false⟩] }

theorem test_hyp_step : (∃ c rest, waiting.pending = c :: rest) ∧ calm.pending = [] := ⟨⟨_, _, rfl⟩, rfl⟩

theorem test_hyp_coldReset : ({ calm with resetAsserted := true } : State).running = false ∧
    ({ calm with powerGood := false } : State).running = false ∧ (∀ x, Instr.intakeTake ≠ .coldReset x) ∧
    ∀ x, Instr.intakeTake ≠ .coldResetRelease x := by
  refine ⟨by decide +kernel, by decide +kernel, fun _ => nofun, fun _ => nofun⟩

theorem test_hyp_regionMapResets : calm.regionCheck 0 .fetchS 4095#34 = .pass ⟨0, .mp0, 4095#34⟩ ∧
    calm.regionCheck 7 .writeThru 4096#34 = .pass ⟨1, .mp1, 64#34⟩ := by decide +kernel

theorem test_hyp_timeBase : calm.running = true ∧ (∃ t, exec .restart calm = .next t) ∧ Instr.restart ≠ .timeBaseAdvance ∧
    ∀ x, Instr.restart ≠ .coldReset x := ⟨by decide +kernel, ⟨_, rfl⟩, nofun, fun _ => nofun⟩

theorem test_hyp_creditsKept : waiting.CreditsKept ∧ ∃ t, step waiting = .next t := by
  refine ⟨?_, _, rfl⟩
  unfold State.CreditsKept
  decide +kernel

theorem test_hyp_regionsApart : waiting.RegionsApart ∧ ∃ t, step waiting = .next t := by
  refine ⟨fun r q hn hr hq => ?_, _, rfl⟩
  have h : ∀ r q : RegionIdx, r ≠ q → (waiting.region r).state ≠ .closed → (waiting.region q).state ≠ .closed →
      (waiting.region r).port ≠ (waiting.region q).port ∧
        ((waiting.region r).base.toNat + (waiting.region r).count ≤ (waiting.region q).base.toNat ∨
          (waiting.region q).base.toNat + (waiting.region q).count ≤ (waiting.region r).base.toNat) := by decide +kernel
  obtain ⟨hp, hb⟩ := h r q hn hr hq
  refine ⟨fun b ⟨x, y⟩ => ?_, fun e => absurd e hp⟩
  simp only [Region.contains, Bool.and_eq_true, decide_eq_true_eq] at x y
  omega

theorem test_hyp_quiescesTrue : quiescing.QuiescesTrue ∧ ∃ t, step quiescing = .next t := by
  refine ⟨fun j hj n hk _ => ?_, _, rfl⟩
  have e : j = ⟨.quiesceNode 3, .queued⟩ := List.mem_singleton.mp hj
  subst e
  injection hk with hk
  subst hk
  decide +kernel

theorem test_hyp_queuesBounded :
    ({ waiting with hold := List.replicate 32 ⟨⟨4, 1#8, .fetchS, 100#34, none⟩, false⟩,
                    controlQ := List.replicate 4 ⟨0, 1#8, 1#8, []⟩ } : State).QueuesBounded ∧ waiting.QueuesBounded ∧
      ∃ t, step waiting = .next t := by
  refine ⟨?_, ?_, _, rfl⟩ <;> unfold State.QueuesBounded <;> decide +kernel

theorem test_hyp_directoryCanonical : ({ owned with pending := [.timeBaseAdvance] } : State).DirectoryCanonical ∧
    ∃ t, step { owned with pending := [.timeBaseAdvance] } = .next t := by
  refine ⟨?_, _, rfl⟩
  unfold State.DirectoryCanonical
  decide +kernel

theorem test_hyp_lockedRecords : Instr.timeBaseAdvance.freesRecords = false ∧
    (locked.slot .directory).record = some heldCheck ∧ ∃ t, exec .timeBaseAdvance locked = .next t :=
  ⟨rfl, by decide +kernel, _, rfl⟩

theorem test_hyp_pendingNotices : locked.reachable = true ∧ ((locked.slot .directory).owed .directory).isSome = true ∧
    (locked.slot .node).owed .node = none ∧ (locked.modPort 5 fun p => { p with link := .down }).reachable = false := by
  decide +kernel

/-- Node 3 with one credit of each class. -/
def oneCredit : State := calm.modPort 3 fun p => { p with requestCredits := 1, returnCredits := 1 }

theorem test_hyp_arrivalsWithCredit : oneCredit.running = true ∧ (oneCredit.port 3).link = .up ∧
    (oneCredit.node 3).state.counted = true ∧ 1 ≤ (oneCredit.port 3).requestCredits ∧
    1 ≤ (oneCredit.port 3).returnCredits := by decide +kernel

theorem test_hyp_arrivalsWithoutCredit :
    (calm.modPort 3 fun p => { p with returnCredits := 0 }).running = true ∧
    ((calm.modPort 3 fun p => { p with returnCredits := 0 }).port 3).link = .up ∧
    ((calm.modPort 3 fun p => { p with returnCredits := 0 }).node 3).state.counted = true ∧
    ((calm.modPort 3 fun p => { p with returnCredits := 0 }).port 3).credits .ret = 0 := by decide +kernel

/-- Node 3 an OFFLINE manager with a Control Queue of a length. -/
def offline (queued : Nat) : State := { (calm.modNode 3 fun r => { r with state := .offline }) with
  controlQ := List.replicate queued ⟨0, 1#8, 1#8, []⟩ }

theorem test_hyp_arrivalsForUncountedNodes :
    (calm.modPort 3 fun p => { p with link := .down }).running = true ∧
    ((calm.modPort 3 fun p => { p with link := .down }).port 3).link = .down ∧
    ((calm.modNode 3 fun r => { r with state := .fenced }).node 3).state = .fenced ∧
    ((offline 0).node 3).state = .offline ∧ ((offline 0).node 3).manager = true ∧ ((offline 0).port 3).link = .up ∧
    (short 0x01 0 7#8 0#32).kind ≠ some .control ∧ (control 0 []).kind = some .control ∧
    (control 0 []).wellFormed .request = true ∧ (control 1 []).wellFormed .request = false ∧
    (control 1 []).kind = some .control ∧ (offline 3).controlQ.length < 4 ∧ 4 ≤ (offline 4).controlQ.length ∧
    (offline 4).refusalMarks.has 3 = false ∧
    ({ offline 4 with refusalMarks := NodeSet.only 3 } : State).refusalMarks.has 3 = true := by decide +kernel

theorem test_hyp_links : State.reset.running = true ∧ (State.reset.port 3).link = .down ∧ (calm.port 3).link = .up ∧
    (calm.node 3).state.counted = true ∧ ((offline 0).port 3).link = .up ∧ ((offline 0).node 3).state.counted = false := by
  decide +kernel

theorem test_hyp_fence : ((calm.enqueue 3 .agent .disconnect).port 3).outbound ≠ [] ∧
    ((recalling.fence 2 .control).entry 5).isSome = true ∧ ((recalling.fence 1 .control).entry 5).isSome = true ∧
    recallingX.requestedBy 1 = true ∧ ((writing false false).wbEntry 0).isSome = true := by decide +kernel

theorem test_hyp_departure : calm.running = true ∧ (calm.port 3).outbound = [] ∧
    (calm.enqueue 3 .intake (.done 7#8 1#34)).running = true ∧
    ((calm.enqueue 3 .intake (.done 7#8 1#34)).port 3).outbound = [⟨.done 7#8 1#34, .intake⟩] ∧
    ((calm.enqueue 3 .agent .disconnect).port 3).outbound = [⟨.disconnect, .agent⟩] ∧
    ((calm.enqueue 3 (.wb 7) (.done 0#8 1#34)).port 3).outbound = [⟨.done 0#8 1#34, .wb 7⟩] ∧
    ((calm.enqueue 3 (.job (.fenceNode 2)) .disconnect).port 3).outbound = [⟨.disconnect, .job (.fenceNode 2)⟩] := by
  decide +kernel

theorem test_hyp_recallDeparture : recalling.entry 5 = some recallingX ∧ recallingX.claims 100#34 = some .primary ∧
    (∀ p ∈ recallingX.held, p.1 ≠ 2) ∧
    (calm.setEntry 5 (some { recallingX with held := [(2, .recall 100#34 .invalidate)] })).entry 5 =
      some { recallingX with held := [(2, .recall 100#34 .invalidate)] } := by decide +kernel

theorem test_hyp_intakeChecks_form :
    ((quiescing.node 3).state = .quiescing ∧ (short 0x01 0 7#8 0#32).kind ≠ some .control) ∧
    ((control 1 []).wellFormed .request = false ∧ (control 1 []).kind = some .control) ∧
    (quiescing.intakeOutcome 3 (control 1 []) = .refuse 0#34 .nodeLeaving) ∧
    ((calm.node 3).state ≠ .quiescing ∧ (writeback 0#32).wellFormed .request = false) ∧
    ((control 0 []).wellFormed .request = true ∧ (control 0 []).kind = some .control ∧ (calm.node 3).manager = true) ∧
    ((calm.modNode 3 fun r => { r with manager := false }).node 3).manager = false := by decide +kernel

/-- Region 0 CLOSING, region 1 CLOSED. -/
def closing : State := (calm.modRegion 0 fun r => { r with state := .closing }).modRegion 1 fun r => { r with state := .closed }

theorem test_hyp_intakeChecks_region :
    ((calm.node 6).state ≠ .quiescing ∧ (short 0x01 0 7#8 8192#32).wellFormed .request = true ∧
      (short 0x01 0 7#8 8192#32).kind = some (.req .fetchS) ∧ (short 0x01 0 7#8 8192#32).block = some 8192#34 ∧
      calm.mapLookup 8192#34 = .noRegion) ∧
    closing.mapLookup 8191#34 = .closedRegion 1 ∧ closing.mapLookup 4095#34 = .region ⟨0, .mp0, 4095#34⟩ .closing ∧
    calm.mapLookup 4096#34 = .region ⟨1, .mp1, 64#34⟩ .untracked ∧
    calm.mapLookup 4095#34 = .region ⟨0, .mp0, 4095#34⟩ .coherent ∧ (calm.region 0).readSet.has 7 = false ∧
    (calm.region 0).writeSet.has 6 = false ∧ (calm.region 0).readSet.has 6 = true ∧
    (calm.region 0).writeSet.has 5 = true ∧ recalling.claimed 100#34 = true ∧ recalling.claimed 101#34 = false ∧
    holding.claimed 100#34 = false ∧ (∃ h ∈ holding.hold, h.req.block = 100#34) ∧ ∀ h ∈ holding.hold, h.req.block ≠ 101#34 := by
  decide +kernel

theorem test_hyp_intakeTakes_none : calm.running = true ∧ ∀ n, calm.eligibleHead n = none := by decide +kernel

theorem test_hyp_intakeTakes : (incoming 1 (short 0x01 0 7#8 100#32)).FirstEligible 1 (short 0x01 0 7#8 100#32) ∧
    (∃ q l, (incoming 1 (short 0x01 0 7#8 100#32)).intakeOutcome 1 (short 0x01 0 7#8 100#32) = .dispatch q l) ∧
    (incoming 0 (control 0 [])).FirstEligible 0 (control 0 []) ∧
    (∃ c, (incoming 0 (control 0 [])).intakeOutcome 0 (control 0 []) = .control c) ∧
    (incoming 7 (short 0x01 0 7#8 100#32)).FirstEligible 7 (short 0x01 0 7#8 100#32) ∧
    (∃ b, (incoming 7 (short 0x01 0 7#8 100#32)).intakeOutcome 7 (short 0x01 0 7#8 100#32) = .refuse b .notPermitted) ∧
    ∃ q, ({ incoming 1 (short 0x01 0 7#8 100#32) with hold := holding.hold } : State).intakeOutcome 1 (short 0x01 0 7#8 100#32) =
      .hold q true := by
  refine ⟨⟨1, by decide +kernel⟩, ⟨_, _, rfl⟩, ⟨0, by decide +kernel⟩, ⟨_, rfl⟩, ⟨7, by decide +kernel⟩, ⟨_, rfl⟩, _, rfl⟩

theorem test_hyp_returnTakes : calm.running = true ∧ (calm.port 2).returns = [] ∧
    ((returning calm 2 (writeback 100#32)).port 2).returns = [writeback 100#32] ∧
    (writeback 100#32).parse .ret = .writeback 100#34 .zero ∧ (∃ w, (returning calm 2 (writeback 100#32)).wbEntry w = none) ∧
    (∀ w, ({ calm with wb := Vector.replicate 8 (some ⟨2, 0#34, none, false, .donePending⟩) } : State).wbEntry w ≠ none) ∧
    (short 0x01 0 7#8 0#32).wellFormed .ret = false := by decide +kernel

theorem test_hyp_writebacks : owned.dir.wf = true ∧ owned.standing 2 100#34 = .owner ∧
    owned.locate 100#34 = some ⟨0, .mp0, 100#34⟩ ∧
    (owned.dirSet (setOf 100#34)).findHeld 100#34 = some (0, ⟨100#34, .owned 2, false⟩) ∧
    owned.memberOf 2 100#34 = none ∧ (recalling.memberOf 2 100#34).isSome = true ∧
    shared.standing 2 100#34 = .sharer ∧ owned.standing 3 100#34 = .notHolder := by decide +kernel

theorem test_hyp_evictCleans : shared.standing 4 100#34 = .sharer ∧ failed.standing 2 100#34 = .underRepair ∧
    shared.standing 3 100#34 = .notHolder ∧ recalling.standing 2 100#34 = .owner ∧
    (recalling.memberOf 2 100#34).isSome = true ∧ shared.memberOf 4 100#34 = none := by decide +kernel

/-- The RECALL's member with a status. -/
def member (x : MemberStatus) : Member := ⟨2, .invalidate, .departed, some 400#32, x, none⟩

/-- TT entry 5 repairing block 100, with repair data or none. -/
def repairing (b : DataBuffer) : TTEntry := { recallingX with phase := .repairing, buffer := b }

theorem test_hyp_acknowledgements : calm.memberOf 2 100#34 = none ∧
    (∃ e m, (calm.setEntry 5 (some { recallingX with
        recalls := [{ member .awaiting with sent := .queued }] })).memberOf 2 100#34 = some (5, .primary, e, m) ∧ m.sent ≠ .departed) ∧
    recalling.memberOf 2 100#34 = some (5, .primary, recallingX, member .awaiting) ∧ recallingX.repairs .primary = false ∧
    recallingX.ownerOf .primary = some 2 ∧
    (calm.setEntry 5 (some { recallingX with recalls := [member .absorbedWb] })).memberOf 2 100#34 =
      some (5, .primary, { recallingX with recalls := [member .absorbedWb] }, member .absorbedWb) ∧
    (calm.setEntry 5 (some { recallingX with lookup := some (.held 0 ⟨100#34, .shared 4#8, false⟩) })).memberOf 2 100#34 =
      some (5, .primary, { recallingX with lookup := some (.held 0 ⟨100#34, .shared 4#8, false⟩) }, member .awaiting) ∧
    TTEntry.ownerOf { recallingX with lookup := some (.held 0 ⟨100#34, .shared 4#8, false⟩) } .primary ≠ some 2 ∧
    (calm.setEntry 5 (some (repairing .empty))).memberOf 2 100#34 =
      some (5, .primary, repairing .empty, member .awaiting) ∧
    (repairing .empty).repairs .primary = true ∧ ((repairing .empty).bufferOf .primary).source = none ∧
    (calm.setEntry 5 (some (repairing (.full .zero .node)))).memberOf 2 100#34 =
      some (5, .primary, repairing (.full .zero .node), member .awaiting) ∧
    ((repairing (.full .zero .node)).bufferOf .primary).source ≠ none := by
  refine ⟨by decide +kernel, ⟨_, _, rfl, nofun⟩, ?_⟩
  refine ⟨?_, ?_, ?_, ?_, ?_, ?_, ?_, ?_, ?_, ?_, ?_⟩ <;> decide +kernel

theorem test_hyp_recallExpiry : recalling.running = true ∧ recalling.entry 5 = some recallingX ∧
    recallingX.openMember .primary 2 = some (member .awaiting) ∧ recalling.reached 400#32 = true ∧
    (recalling.node 2).state.counted = true ∧ ({ recalling with timeBase := 399#32 } : State).reached 400#32 = false ∧
    calm.entry 5 = none := by decide +kernel

/-- MP0 with a READ waiting, and a write waiting whose write is listed. -/
def issuing : State := calm.modMP .mp0 fun p => (p.queueOp ⟨.tt 5 .primary, .read, 100#34, false⟩)

theorem test_hyp_memoryIssue : calm.running = true ∧ calm.mp0.issueQ = [] ∧
    issuing.mp0.issueQ = [⟨.tt 5 .primary, .read, 100#34, false⟩] ∧ issuing.mp0.tags[(0 : MemTag)] = .free ∧
    (∀ u : MemTag, u < 0 → issuing.mp0.tags[u] ≠ .free) ∧
    ((calm.placeWrite (.wb 0) .mp1 1#34 .zero).mp1.writeOf (.wb 0)).isSome = true ∧
    ((writing false false).mp0.tags[(1 : MemTag)] = .free ∧ ∀ u : MemTag, u < 1 → (writing false false).mp0.tags[u] ≠ .free) ∧
    ∀ t : MemTag, (calm.modMP .mp0 fun p => { p with tags := Vector.replicate 16 (.stale .write 0#4) }).mp0.tags[t] ≠ .free := by
  decide +kernel

theorem test_hyp_beats : reading.running = true ∧
    reading.mp0.tags[(3 : MemTag)] = .inFlight ⟨.tt 5 .primary, .read, 100#34, false⟩ 1000#32
      #v[some ⟨1#128, false⟩, some ⟨2#128, true⟩, none, none] ∧
    (#v[some ⟨1#128, false⟩, some ⟨2#128, true⟩, none, none] : Vector (Option Beat) 4)[(3 : Fin 4)] = none ∧
    gotCount #v[some ⟨1#128, false⟩, some ⟨2#128, true⟩, none, some ⟨9#128, true⟩] ≠ 4 ∧
    readingLast.mp0.tags[(3 : MemTag)] = .inFlight ⟨.tt 5 .primary, .read, 100#34, false⟩ 1000#32
      #v[some ⟨1#128, false⟩, some ⟨2#128, true⟩, some ⟨3#128, false⟩, none] ∧
    gotCount #v[some ⟨1#128, false⟩, some ⟨2#128, true⟩, some ⟨3#128, false⟩, some ⟨9#128, true⟩] = 4 ∧
    (#v[some ⟨1#128, false⟩, some ⟨2#128, true⟩, none, none] : Vector (Option Beat) 4)[(0 : Fin 4)] ≠ none := by
  decide +kernel

theorem test_hyp_writesInFlight : (writing false false).running = true ∧
    (writing false false).mp0.tags[(0 : MemTag)] =
      .inFlight ⟨.wb 0, .write, 100#34, false⟩ 1000#32 (Vector.replicate 4 none) ∧
    (writing false false).reached 1000#32 = true ∧
    (writing false false).wbEntry 0 = some ⟨2, 100#34, some ⟨.mp0, 100#34, .zero, false⟩, false, .writing⟩ ∧
    (((writing false false).fenceLists 2).wbEntry 0).map (·.fenced) = some true ∧
    writingTT.mp0.tags[(0 : MemTag)] =
      .inFlight ⟨.tt 5 .primary, .write, 100#34, false⟩ 1000#32 (Vector.replicate 4 none) := by decide +kernel

theorem test_hyp_failedWrites :
    (writing false true).mp0.writeOf (.wb 0) = some ⟨.wb 0, 100#34, .zero, false, true⟩ ∧
    (writing false false).mp0.writeOf (.wb 0) = some ⟨.wb 0, 100#34, .zero, false, false⟩ ∧
    (writing true false).mp0.writeOf (.wb 0) = some ⟨.wb 0, 100#34, .zero, true, false⟩ ∧
    writingTT.mp0.writeOf (.tt 5 .primary) = some ⟨.tt 5 .primary, 100#34, .zero, true, false⟩ ∧
    CaptureReason.writeFault.cls = .memory := by decide +kernel

theorem test_hyp_failedReads : reading.reached 1000#32 = true ∧ (∀ x ∈ reading.mp0.writes, x.addr ≠ 100#34) ∧
    (reading.entry 5).isSome = true ∧
    (reading.modMP .mp0 fun p => p.setTag 3 (.inFlight ⟨.tt 5 .primary, .read, 100#34, true⟩ 1000#32
      (Vector.replicate 4 none))).mp0.tags[(3 : MemTag)] =
        .inFlight ⟨.tt 5 .primary, .read, 100#34, true⟩ 1000#32 (Vector.replicate 4 none) := by decide +kernel

theorem test_hyp_responsesOutOfTurn : calm.running = true ∧ calm.mp0.tags[(15 : MemTag)] = .free ∧
    (staleTag .write 0#4).mp0.tags[(1 : MemTag)] = .stale .write 0#4 ∧
    (staleTag .read 7#4).mp0.tags[(1 : MemTag)] = .stale .read 7#4 ∧
    ((writing false false).reached 1001#32 = false) ∧
    (∀ op d got, (staleTag .write 0#4).mp0.tags[(1 : MemTag)] ≠ .inFlight op d got) := by
  refine ⟨by decide +kernel, by decide +kernel, by decide +kernel, by decide +kernel, by decide +kernel, fun op d got h => ?_⟩
  have e : (staleTag .write 0#4).mp0.tags[(1 : MemTag)] = .stale .write 0#4 := by decide +kernel
  rw [e] at h
  exact TagState.noConfusion h

theorem test_hyp_writeOrder : (((writing false false).setEntry 5 (some recallingX)).entry 5).isSome = true ∧
    ((writing false false).mp0.writesAt 100#34).getLast? = some ⟨.wb 0, 100#34, .zero, false, false⟩ ∧
    (writing false false).mp0.writesAt 101#34 = [] := by decide +kernel

/-- A set full of HELD ways: way k holds block 100 + 2048 k, way 0 least recent. -/
def full : DirSet :=
  ⟨#v[.held ⟨100#34, .shared 1#8, false⟩, .held ⟨2148#34, .shared 1#8, false⟩, .held ⟨4196#34, .shared 1#8, false⟩,
    .held ⟨6244#34, .shared 1#8, false⟩, .held ⟨8292#34, .shared 1#8, false⟩, .held ⟨10340#34, .shared 1#8, false⟩,
    .held ⟨12388#34, .shared 1#8, false⟩, .held ⟨14436#34, .shared 1#8, false⟩], [7, 6, 5, 4, 3, 2, 1, 0]⟩

/-- Every way of the set RESERVED. -/
def reserved : DirSet := ⟨Vector.replicate 8 (.reserved 5 100#34), []⟩

theorem test_hyp_lookup : (owned.dirSet (setOf 100#34)).findHeld 100#34 = some (0, ⟨100#34, .owned 2, false⟩) ∧
    ({ owned with now := ⟨[true], []⟩ } : State).now.checks.headD false = true ∧
    (owned.dirSet (setOf 2148#34)).findHeld 2148#34 = none ∧ (owned.dirSet (setOf 2148#34)).way 1 = .empty ∧
    (∀ v, v < 1 → (owned.dirSet (setOf 2148#34)).way v ≠ .empty) ∧
    full.findHeld 16484#34 = none ∧ (∀ v, full.way v ≠ .empty) ∧ full.recency = [7, 6, 5, 4, 3, 2] ++ 1 :: [0] ∧
    full.way 1 = .held ⟨2148#34, .shared 1#8, false⟩ ∧ recalling.claimed 2148#34 = false ∧
    recalling.claimed 100#34 = true ∧ full.way 0 = .held ⟨100#34, .shared 1#8, false⟩ ∧
    reserved.findHeld 16484#34 = none ∧ (∀ v, reserved.way v ≠ .empty) ∧ reserved.recency = [] := by decide +kernel

theorem test_hyp_holders : owned.dirEntry 101#34 = none ∧ failed.dirEntry 100#34 = some ⟨100#34, .owned 2, true⟩ ∧
    owned.dirEntry 100#34 = some ⟨100#34, .owned 2, false⟩ ∧ shared.dirEntry 100#34 = some ⟨100#34, .shared 0x14#8, false⟩ ∧
    shared.dir.wf = true ∧ (shared.dirSet (setOf 100#34)).findHeld 100#34 = some (0, ⟨100#34, .shared 0x14#8, false⟩) ∧
    NodeSet.has 0x14#8 4 = true ∧ NodeSet.del 0x14#8 4 ≠ NodeSet.none ∧ (0x04#8 : NodeSet) = NodeSet.only 2 ∧
    owned.claimant 100#34 = none ∧ recalling.claimant 100#34 = some (5, .primary) ∧
    (calm.setEntry 5 (some { recallingX with
      victim := some ⟨0, ⟨2148#34, .owned 2, false⟩, none, [], .empty⟩ })).claimant 2148#34 = some (5, .victim) := by decide +kernel

theorem test_hyp_updates : shared.dir.wf = true ∧
    (shared.dirSet (setOf 100#34)).findHeld 100#34 = some (0, ⟨100#34, .shared 0x14#8, false⟩) ∧
    [UStep.addSharer 3].foldl (Way.step 100#34 .empty) ((shared.dirSet 100).way 0) =
      .held ⟨100#34, .shared 0x1C#8, false⟩ ∧
    [UStep.addSharer 4].foldl (Way.step 100#34 .empty) ((shared.dirSet 100).way 0) =
      .held ⟨100#34, .shared 0x14#8, false⟩ ∧
    [UStep.downgrade, .addSharer 3].foldl (Way.step 100#34 .empty) ((owned.dirSet 100).way 0) =
      .held ⟨100#34, .shared 0x0C#8, false⟩ ∧
    reserved.findHeld 100#34 = none ∧ reserved.findReserved 5 = some 0 ∧
    [UStep.makeOwner 3].foldl (Way.step 100#34 .empty) (reserved.way 0) = .held ⟨100#34, .owned 3, false⟩ := by
  decide +kernel

theorem test_hyp_recalls : recallingX.situation = .owned 2 ∧ recallingX.requester = some (1, 7#8) ∧
    recallingX.kind = .req .fetchX ∧ ({ recallingX with lookup := none } : TTEntry).situation = .notHeld ∧
    ({ recallingX with lookup := some .setBusy } : TTEntry).situation = .setBusy ∧
    ({ recallingX with lookup := some (.held 0 ⟨100#34, .shared 0x14#8, false⟩) } : TTEntry).situation = .shared 0x14#8 ∧
    ({ recallingX with requester := some (2, 7#8) } : TTEntry).conflicts = true ∧ (recalling.entry 5).isSome = true := by
  decide +kernel

theorem test_hyp_mergedBlock : (∀ k : Fin 16, (0xFFFF#64).getLsbD (16 * (0 : Fin 4).val + k.val) = true) ∧
    (∀ k : Fin 16, (0xFFFF#64).getLsbD (16 * (3 : Fin 4).val + k.val) = false) ∧
    (∃ k : Fin 16, (0x80000000#64).getLsbD (16 * (1 : Fin 4).val + k.val) = true) ∧
    ∃ k : Fin 16, (0x80000000#64).getLsbD (16 * (1 : Fin 4).val + k.val) = false := by decide +kernel

theorem test_hyp_answers : recallingX.verdict = none ∧ recallingX.orphaned = false ∧
    ({ recallingX with verdict := some .setBusy } : TTEntry).verdict = some .setBusy ∧
    ({ recallingX with kind := .req .upgrade, requester := some (2, 7#8) } : TTEntry).grantsUp = true ∧
    ({ recallingX with kind := .req .upgrade } : TTEntry).grantsUp = false ∧ (recalling.ttSlot 5).pacing.has 1 = false ∧
    ((recalling.queueTT 5 1 .disconnect).ttSlot 5).pacing.has 1 = true := by decide +kernel

theorem test_hyp_handoff : (∀ h ∈ calm.hold, ¬(h.req.block = 100#34 ∧ h.ready = false)) ∧
    holding.hold = [] ++ ⟨⟨4, 1#8, .fetchS, 100#34, none⟩, false⟩ :: [] ∧ holding.entry 0 = none ∧ holding.sweepClaim = none ∧
    (∀ x ∈ holding.hold, x.ready = false) ∧
    ({ calm with hold := [⟨⟨4, 1#8, .fetchS, 100#34, none⟩, true⟩] } : State).hold =
      [] ++ ⟨⟨4, 1#8, .fetchS, 100#34, none⟩, true⟩ :: [] ∧
    ({ calm with jobs := [⟨.quiesceNode 3, .walking ⟨0, [], false, false, true⟩⟩] } : State).sweepClaim =
      some (.quiesceNode 3, ⟨0, [], false, false, true⟩) ∧ calm.claimed 100#34 = false ∧ calm.tracked 4095#34 = true ∧
    calm.tracked 4096#34 = false ∧
    (∀ i, ({ calm with tt := Vector.replicate 48 ⟨0#8, some recallingX⟩ } : State).entry i ≠ none) ∧
    calm.regionCheck 4 .fetchS 100#34 = .pass ⟨0, .mp0, 100#34⟩ ∧ calm.regionCheck 4 .fetchS 4096#34 = .fail .notTracked := by
  decide +kernel

theorem test_hyp_regionLookup : (calm.region 0).state ≠ .closed ∧ (calm.region 0).base.toNat ≤ (4095#34).toNat ∧
    (4095#34).toNat < (calm.region 0).base.toNat + (calm.region 0).count ∧
    (∀ q, q ≠ 0 → (calm.region q).state ≠ .closed →
      ¬((calm.region q).base.toNat ≤ (4095#34).toNat ∧ (4095#34).toNat < (calm.region q).base.toNat + (calm.region q).count)) ∧
    (closing.region 1).state = .closed ∧ (closing.region 1).base.toNat ≤ (4096#34).toNat ∧
    (∀ q, ¬((calm.region q).base.toNat ≤ (8192#34).toNat ∧ (8192#34).toNat < (calm.region q).base.toNat + (calm.region q).count)) := by
  decide +kernel

/-- A request that the agent takes. -/
theorem asked_takes (code : BitVec 8) (args : List Word) (count : Nat) (h : args.length = count) :
    AgentTakes (asked code args) code count ⟨0, 9#8, code, args⟩ [] :=
  ⟨by rfl, rfl, rfl, rfl, h⟩

theorem test_hyp_writeRegion : (0x0F1F1102#32).toNat % 256 = (2 : RegionIdx).val ∧ (calm.region 2).state = .closed ∧
    (calm.region 1).state ≠ .closed ∧ 15 < (0x10#32).toNat % 256 ∧
    1 ≤ (1 : Nat) ∧ (0x3FFFFFFFF : Nat) + 1 ≤ 2 ^ 34 ∧ 2 ^ 34 < (0x3FFFFFFFF : Nat) + 2 ∧ (0x0F1F1102#32).toNat / 256 % 16 ≤ 1 ∧
    (0x0F1F1102#32).toNat / 4096 % 16 ≤ 1 ∧ 1 < (0x200#32).toNat / 256 % 16 ∧ 1 < (0x2000#32).toNat / 4096 % 16 := by
  decide +kernel

theorem test_hyp_openRegion : (ControlReq.index ⟨0, 9#8, 0x0A#8, [0x202#32]⟩ = (2 : RegionIdx).val) ∧
    ControlReq.mode ⟨0, 9#8, 0x0A#8, [0x202#32]⟩ = 2 ∧ ControlReq.mode ⟨0, 9#8, 0x0A#8, [0x302#32]⟩ = 3 ∧
    15 < ControlReq.index ⟨0, 9#8, 0x0A#8, [0x110#32]⟩ ∧ (calm.region 2).count = 0 ∧
    (closing.region 1).state = .closed ∧ 1 ≤ (closing.region 1).count ∧ closing.opensClear 1 = true ∧
    (closing.modRegion 1 fun x => { x with base := 4095#34 }).opensClear 1 = false ∧
    (closing.modRegion 1 fun x => { x with port := .mp0 }).opensClear 1 = false := by decide +kernel

theorem test_hyp_closeRegion : (calm.region 0).state = .coherent ∧ (calm.region 1).state = .untracked ∧
    (closing.region 0).state = .closing ∧ (∀ j ∈ calm.jobs, False) ∧ (∃ j ∈ quiescing.jobs, j.kind = .quiesceNode 3) := by
  decide +kernel

theorem test_hyp_agentTakes : Instr.readNode.command = some (0x01#8, 1) ∧ calm.agent = .ready ∧ calm.controlQ = [] ∧
    ({ calm with agent := .replyPending } : State).agent ≠ .ready ∧ (asked 0x02#8 []).controlQ = [⟨0, 9#8, 0x02#8, []⟩] ∧
    ([] : List Word).length ≠ 1 ∧ (∀ i k count, Instr.command i = some (k, count) → (0x14#8 : BitVec 8) ≠ k) ∧
    (calm.node 0).state ≠ .fenced ∧ ((calm.modNode 0 fun r => { r with state := .fenced }).node 0).state = .fenced := by
  refine ⟨rfl, rfl, rfl, nofun, rfl, nofun, fun i k count h => ?_, by decide +kernel, by decide +kernel⟩
  cases i <;> simp [Instr.command] at h <;> obtain ⟨rfl, -⟩ := h <;> decide

theorem test_hyp_indices : ControlReq.index ⟨0, 9#8, 0x01#8, [7#32]⟩ = (7 : NodeId).val ∧
    7 < ControlReq.index ⟨0, 9#8, 0x01#8, [8#32]⟩ ∧ ControlReq.index ⟨0, 9#8, 0x08#8, [15#32]⟩ = (15 : RegionIdx).val ∧
    15 < ControlReq.index ⟨0, 9#8, 0x08#8, [16#32]⟩ ∧ ControlReq.index ⟨0, 9#8, 0x0E#8, [3#32]⟩ = (CaptureClass.directory).index.val ∧
    3 < ControlReq.index ⟨0, 9#8, 0x0E#8, [4#32]⟩ ∧ ControlReq.index ⟨0, 9#8, 0x10#8, [0#32]⟩ = 0 ∧
    ControlReq.index ⟨0, 9#8, 0x10#8, [1#32]⟩ = 1 ∧ 1 < ControlReq.index ⟨0, 9#8, 0x10#8, [2#32]⟩ ∧
    ControlReq.index ⟨0, 9#8, 0x12#8, [1#32]⟩ = portCodeOf .mp1 ∧
    (0x3FFFFFFFF#34 : Block).toNat = (3#32 : Word).toNat % 256 * 2 ^ 32 + (0xFFFFFFFF#32 : Word).toNat ∧
    2 ^ 34 ≤ (4#32 : Word).toNat % 256 * 2 ^ 32 + (0#32 : Word).toNat := by decide +kernel

theorem test_hyp_nodeCommands : (0x0FFF0003#32 : Word).toNat / 65536 = 4095 ∧ 4095 < (0x10000003#32 : Word).toNat / 65536 ∧
    ((offline 0).node 3).state = .offline ∧ ((offline 0).port 3).link = .up ∧ (calm.node 3).state = .active ∧
    ((calm.node 3).state.counted = true) ∧ ((offline 0).node 3).state.counted = false ∧
    ((calm.modNode 3 fun r => { r with state := .fenced }).node 3).fenceJob = false ∧
    ((calm.fence 3 .control).node 3).state = .fenced ∧ ((calm.fence 3 .control).node 3).fenceJob = true := by decide +kernel

theorem test_hyp_reclaim : calm.mapLookup 100#34 = .region ⟨0, .mp0, 100#34⟩ .coherent ∧
    closing.mapLookup 100#34 = .region ⟨0, .mp0, 100#34⟩ .closing ∧
    calm.mapLookup 4096#34 = .region ⟨1, .mp1, 64#34⟩ .untracked := by decide +kernel

theorem test_hyp_memoryPorts : (reading.mp0.tags[(3 : MemTag)].isFlight = true) ∧
    (∀ t : MemTag, (staleTag .read 7#4).mp0.tags[t].isFlight = false) := by decide +kernel

theorem test_hyp_restart : AgentTakes (asked 0x13#8 []) 0x13#8 0 ⟨0, 9#8, 0x13#8, []⟩ [] ∧
    ((asked 0x13#8 []).port 3).link = .up ∧
    (((asked 0x13#8 []).modPort 0 fun p => { p with link := .down }).port 0).link = .down ∧
    ((locked.slot .directory).warm.owed .directory).isSome = true := by
  exact ⟨asked_takes _ _ _ rfl, by decide +kernel⟩

theorem test_hyp_offers : (calm.slot .directory).record = none ∧ (locked.slot .directory).record = some heldCheck ∧
    CaptureReason.multipleData.severity = .dataLost ∧ heldCheck.reason.severity = .recovered ∧
    (locked.slot .directory).escalated = false ∧
    (CaptureSlot.offer { locked.slot .directory with overflow := 15#4 } heldCheck).overflow = 15#4 := by decide +kernel

theorem test_hyp_jobs : (quiescing.jobs = [] ++ ⟨.quiesceNode 3, .queued⟩ :: []) ∧
    (JobKind.quiesceNode 3).nonFence = true ∧ (JobKind.fenceNode 3).nonFence = false ∧
    ({ calm with jobs := [⟨.closeRegion 1 true, .draining⟩] } : State).runningJob = some ⟨.closeRegion 1 true, .draining⟩ ∧
    ({ calm with jobs := [⟨.closeRegion 1 true, .draining⟩] } : State).regionDrained 1 = true ∧
    ({ calm with jobs := [⟨.quiesceNode 3, .walking ⟨2047, [], true, false, false⟩⟩] } : State).runningJob =
      some ⟨.quiesceNode 3, .walking ⟨2047, [], true, false, false⟩⟩ := by decide +kernel

/-! ### Fences, repairs, evictions and walks -/

/-- A sound Directory, one of whose sets is not empty. -/
theorem owned_sound : owned.DirectorySound := by
  refine ⟨by decide +kernel, fun k => ?_⟩
  by_cases h : (100 : SetIdx) = k
  · subst h
    have e : ∀ w, DirSet.empty.way w = .empty := by decide
    exact (DirSet.Sound.empty 100).enter 0 ⟨100#34, .owned 2, false⟩ (fun _ h => by rw [e] at h; cases h) (by decide)
      (fun _ _ h => by rw [e] at h; cases h) ⟨2, by decide⟩
  · have e : Directory.get owned.dir k = DirSet.empty := if_neg h
    rw [e]
    exact .empty k

theorem test_hyp_directorySound : ({ owned with pending := [.timeBaseAdvance] } : State).DirectorySound ∧
    ∃ t, step { owned with pending := [.timeBaseAdvance] } = .next t := ⟨owned_sound, _, rfl⟩

/-- A locked record of a reason. -/
def record (r : CaptureReason) : CaptureRecord := ⟨r, none, none, none, none, none, 0#32⟩

/-- Node 3's Outbound Queue holds a message of every producer, three notices of the capture slots and the notice of a job
among them; TT entry 5 recalls node 3, the owner of block 100; node 5 is to get the notices. -/
def notified : State := { ((((calm.modPort 3 fun p => { p with outbound :=
    [⟨.disconnect, .intake⟩, ⟨.disconnect, .agent⟩, ⟨.disconnect, .tt 5⟩, ⟨.disconnect, .wb 7⟩, ⟨.disconnect, .nodeManager⟩,
      ⟨.disconnect, .job (.fenceNode 2)⟩, ⟨.disconnect, .capture .dataLoss false⟩, ⟨.disconnect, .capture .memory true⟩,
      ⟨.disconnect, .capture .node false⟩] }).modSlot .node fun _ =>
        ⟨some (record .linkLost), 0#4, false, none, .queued, .none, true⟩).modSlot .memory fun _ =>
        ⟨some (record .readFault), 1#4, true, some .writeFailed, .delivered, .queued, true⟩).modSlot .dataLoss fun _ =>
        ⟨some (record .writeFailed), 0#4, false, none, .queued, .none, true⟩).setEntry 5 (some { recallingX with
      lookup := some (.held 0 ⟨100#34, .owned 3, false⟩)
      recalls := [⟨3, .invalidate, .departed, some 400#32, .awaiting, none⟩] }) with
  noticeNode := 5
  jobs := [⟨.fenceNode 2, .done .completed .queued⟩] }

/-- The notices that a fence withdraws are queued again in slot order, before the loss that it captures is counted, and the
job notice behind them. -/
theorem test_fence_notices : ((notified.fence 3 .control).port 5).outbound =
    [⟨.faultNotice .linkLost .recovered 0#4, .capture .node false⟩,
      ⟨.faultNotice .writeFailed .dataLost 1#4, .capture .memory true⟩,
      ⟨.faultNotice .writeFailed .dataLost 0#4, .capture .dataLoss false⟩,
      ⟨.jobNotice (.fenceNode 2) .completed, .job (.fenceNode 2)⟩] := by decide +kernel

theorem test_hyp_fenceResolves : recalling.entry 5 = some recallingX ∧ recalling.entry 6 = none ∧
    recallingX.openMember .primary 2 = some (member .awaiting) ∧ recallingX.openMember .primary 3 = none ∧
    recallingX.repairs .primary = false ∧ recallingX.ownerOf .primary = some 2 ∧
    ({ recallingX with recalls := [member .absorbedWb] } : TTEntry).openMember .primary 2 = some (member .absorbedWb) ∧
    (repairing .empty).repairs .primary = true ∧ (repairing .empty).openMember .primary 2 = some (member .awaiting) ∧
    (repairing .empty).openMember .primary 3 = none ∧ (recalling.slot .dataLoss).record = none ∧
    (∀ i, calm.entry i = none) := by decide +kernel

theorem test_hyp_fenceReleases : .intake ∈ notified.producers 3 ∧ .agent ∈ notified.producers 3 ∧
    .tt 5 ∈ notified.producers 3 ∧ .wb 7 ∈ notified.producers 3 ∧ .tt 6 ∉ notified.producers 3 ∧
    notified.reachable = true ∧ notified.noticeNode ≠ 3 ∧ ({ notified with noticeNode := 3 } : State).noticeNode = 3 ∧
    (notified.modPort 5 fun p => { p with link := .down }).reachable = false ∧
    (notified.slot .node).record = some (record .linkLost) ∧ .capture .node false ∈ notified.producers 3 ∧
    (notified.slot .node).lockNotice = .queued ∧ (notified.slot .memory).record = some (record .readFault) ∧
    .capture .memory true ∈ notified.producers 3 ∧ (notified.slot .memory).escalationNotice = .queued ∧
    .capture .memory false ∉ notified.producers 3 ∧ (notified.slot .memory).lockNotice ≠ .pending ∧
    ⟨.fenceNode 2, .done .completed .queued⟩ ∈ notified.jobs ∧ .job (.fenceNode 2) ∈ notified.producers 3 := by decide +kernel

theorem test_hyp_fencedRecall :
    ((recalling.modNode 2 fun r => { r with state := .fenced }).node 2).state = .fenced ∧
    (recalling.modNode 2 fun r => { r with state := .fenced }).entry 5 = some recallingX := by decide +kernel

theorem test_hyp_captureDepartures :
    (CaptureSlot.owed { notified.slot .node with outstanding := false, lockNotice := .delivered } .node) = none ∧
    (notified.modPort 5 fun p => { p with link := .down }).reachable = false ∧
    (CaptureSlot.owed { notified.slot .node with
      outstanding := false, lockNotice := .delivered, escalationNotice := .pending } .node).isSome = true ∧
    (CaptureSlot.owed { notified.slot .memory with
      outstanding := false, escalationNotice := .delivered, lockNotice := .pending } .memory).isSome = true := by decide +kernel

/-- Block 100 under repair by TT entry 5, with repair data or none, and a recall set. -/
def underRepair (b : DataBuffer) (ms : List Member) : State := failed.setEntry 5 (some { repairing b with recalls := ms })

/-- The member for node 2, resolved. -/
def resolvedMember : Member := ⟨2, .invalidate, .departed, none, .awaiting, some .clean⟩

/-- A second data is captured, whether or not its node's member is resolved. -/
theorem test_lateWriteback :
    (((underRepair (.full .zero .node) [resolvedMember]).takeWriteback 0 2 100#34 .zero).slot .directory).record =
      some ⟨.multipleData, some 2, some 100#34, none, some 5, none, 0#32⟩ ∧
    (((underRepair (.full .zero .node) [member .awaiting]).takeWriteback 0 2 100#34 .zero).entry 5).map (·.recalls) =
      some [member .absorbedWb] := by decide +kernel

theorem test_hyp_repairWritebacks : (underRepair .empty [member .awaiting]).standing 2 100#34 = .underRepair ∧
    (underRepair .empty [member .awaiting]).claimant 100#34 = some (5, .primary) ∧
    (underRepair .empty [member .awaiting]).locate 100#34 = some ⟨0, .mp0, 100#34⟩ ∧
    (repairing .empty).openMember .primary 2 = some (member .awaiting) ∧ ((repairing .empty).bufferOf .primary).source = none ∧
    ((repairing (.full .zero .node)).bufferOf .primary).source ≠ none ∧
    ({ repairing .empty with recalls := [resolvedMember] } : TTEntry).openMember .primary 2 = none ∧
    (∃ m ∈ [resolvedMember], m.node = 2) ∧ (∀ m ∈ [resolvedMember], m.node ≠ 3) ∧
    (underRepair (.full .zero .node) [resolvedMember]).standing 3 100#34 = .underRepair := by decide +kernel

/-- TT entry 5 evicting block 2148 of node 2, for block 100. -/
def evicting (failed : Bool) (b : DataBuffer) (ms : List Member) : TTEntry := { recallingX with
  phase := .evicting, recalls := [], lookup := some (.victim 0 ⟨2148#34, .owned 2, failed⟩)
  victim := some ⟨0, ⟨2148#34, .owned 2, failed⟩, some ⟨0, .mp0, 2148#34⟩, ms, b⟩ }

theorem test_hyp_victimExpiry : (evicting false .empty [member .awaiting]).openMember .victim 2 = some (member .awaiting) ∧
    (evicting false .empty [member .awaiting]).openMember .primary 2 = none := by decide +kernel

theorem test_hyp_forwardedRefusal :
    ((reading.modMP .mp0 fun p => { p with writes := [⟨.wb 0, 100#34, .zero, false, false⟩] }).mp0.writesAt 100#34).getLast? =
      some ⟨.wb 0, 100#34, .zero, false, false⟩ ∧
    (reading.modMP .mp0 fun p => { p with writes := [⟨.wb 0, 100#34, .zero, false, false⟩] }).mp0.tags[(3 : MemTag)] =
      .inFlight ⟨.tt 5 .primary, .read, 100#34, false⟩ 1000#32
        #v[some ⟨1#128, false⟩, some ⟨2#128, true⟩, none, none] := by decide +kernel

theorem test_hyp_failedFencedWrite :
    (((writing true false).fenceLists 2).wbEntry 0).map (·.fenced) = some true ∧
    ((writing true false).fenceLists 2).mp0.writeOf (.wb 0) = some ⟨.wb 0, 100#34, .zero, true, false⟩ ∧
    ((writing true false).wbEntry 0).map (·.fenced) = some false := by decide +kernel

theorem test_hyp_failedChecks : ({ owned with now := ⟨[true], []⟩ } : State).dir.wf = true ∧
    ({ calm with dir := [(100, full)], now := ⟨[true], []⟩ } : State).dir.wf = true ∧
    (({ calm with dir := [(100, full)], now := ⟨[true], []⟩ } : State).lookup 5 16484#34 true).1 =
      .victim 0 ⟨100#34, .shared 1#8, true⟩ := by decide +kernel

theorem test_hyp_formRecalls : recallingX.claims 100#34 = some .primary ∧
    (evicting false .empty []).claims 2148#34 = some .victim ∧ ([2, 4] : List NodeId).Nodup ∧
    (∀ n ∈ ([2, 4] : List NodeId), (recalling.node n).state ≠ .fenced) ∧
    ((recalling.queueTT 5 4 .disconnect).ttSlot 5).pacing.has 4 = true := by decide +kernel

theorem test_hyp_entriesWait : (∃ m ∈ (repairing .empty).recalls, m.resolution = none) ∧ (repairing .empty).memOp = none ∧
    (repairing .empty).phase = .repairing ∧ (repairing .empty).opened = false ∧
    (evicting false .empty [member .awaiting]).phase = .evicting ∧
    ({ repairing .empty with memOp := some ⟨.write, .primary, none⟩ } : TTEntry).memOp = some ⟨.write, .primary, none⟩ := by
  decide +kernel

theorem test_hyp_repairEnds : failed.dir.wf = true ∧ (∀ m ∈ [resolvedMember], m.resolution ≠ none) ∧
    (repairing .empty).locOf .primary = some ⟨0, .mp0, 100#34⟩ ∧
    ((repairing (.full .zero .absorbed)).bufferOf .primary).source = some .absorbed ∧ (repairing .empty).repairNote = none ∧
    (failed.setEntry 5 (some (evicting true .empty [resolvedMember]))).entry 5 = some (evicting true .empty [resolvedMember]) ∧
    (∃ v, (evicting true .empty [resolvedMember]).victim = some v ∧ v.entry.failed = true ∧ v.entry.block = 2148#34) ∧
    (evicting true .empty [resolvedMember]).locOf .victim = some ⟨0, .mp0, 2148#34⟩ := by
  refine ⟨?_, ?_, ?_, ?_, ?_, ?_, ⟨_, rfl, ?_⟩, ?_⟩ <;> decide +kernel

/-- A repair whose owner was fenced writes the owner-lost block and captures the failure and the loss. -/
theorem test_repairEnds :
    ((failed.setEntry 5 (some { repairing .empty with recalls := [resolvedMember], repairNote := some 2 })).entryStep 5).map
      (fun t => (t.dir, (t.slot .directory).record.map (·.reason), (t.slot .dataLoss).record.map (·.reason),
        t.mp0.writes)) =
      some ([(100, ⟨DirSet.empty.ways.set 0 (.reserved 5 100#34), []⟩)], some .holderCheck, some .ownerLost,
        [⟨.tt 5 .primary, 100#34, .ownerLost, false, false⟩]) := by decide +kernel

theorem test_hyp_evictionEnds : (evicting false (.full .zero .node) [resolvedMember]).bufferOf .victim = .full .zero .node ∧
    (∀ m ∈ [resolvedMember], m.resolution ≠ none) ∧ (evicting false .empty []).situation = .notHeld ∧
    (repairing .empty).phase = .repairing ∧
    ({ recallingX with lookup := some (.held 0 ⟨100#34, .owned 2, true⟩) } : TTEntry).situation = .notHeld ∧
    calm.mp0.writesAt 100#34 = [] := by decide +kernel

/-- A WRITE_THRU entry with a byte mask. -/
def writeThru (mask : BitVec 64) : TTEntry :=
  { recallingX with kind := .req .writeThru, lookup := some .notHeld, recalls := [], write := some ⟨mask, .zero⟩ }

/-- An entry of a kind whose owner left it marked data, in the region whose policy is REFUSE. -/
def poisoned (k : TTKind) : TTEntry := { recallingX with
  kind := k, loc := some ⟨1, .mp1, 64#34⟩, recalls := [resolvedMember], buffer := .full .ownerLost .node }

/-- An UPGRADE of node 1, which its lookup recorded as a sharer of block 100. -/
def upgrading : TTEntry := { recallingX with
  kind := .req .upgrade, phase := .responding, recalls := [], lookup := some (.held 0 ⟨100#34, .shared 0x06#8, false⟩) }

theorem test_hyp_writes : calm.refusesPoison (poisoned (.req .fetchS)) = true ∧
    calm.refusesPoison (poisoned (.req .upgrade)) = true ∧ calm.refusesPoison (poisoned .reclaim) = false ∧
    calm.refusesPoison { poisoned (.req .fetchS) with loc := some ⟨0, .mp0, 100#34⟩ } = false ∧
    (poisoned (.req .fetchX)).buffer.source = some .node ∧ (∀ m ∈ [resolvedMember], m.resolution ≠ some .ownerLost) ∧
    (poisoned (.req .fetchX)).toWrite true ≠ none ∧ (poisoned (.req .fetchX)).toWrite false = none ∧
    (writeThru 1#64).write = some ⟨1#64, .zero⟩ ∧ (1#64 : BitVec 64) ≠ BitVec.allOnes 64 ∧
    (writeThru (BitVec.allOnes 64)).fullMask = true ∧ (writeThru 1#64).loc = some ⟨0, .mp0, 100#34⟩ := by decide +kernel

theorem test_hyp_dataComplete : recallingX.phase = .recalling ∧ recallingX.memOp = none ∧
    (∃ m ∈ recallingX.recalls, m.resolution = none) ∧ (∀ m ∈ (poisoned (.req .fetchX)).recalls, m.resolution ≠ none) ∧
    (poisoned (.req .fetchX)).buffer.present = 15#4 ∧ DataBuffer.empty.present ≠ 15#4 := by decide +kernel

theorem test_hyp_upgradeOvertaken : upgrading.grantsUp = true ∧ upgrading.orphaned = false ∧
    upgrading.requester = some (1, 7#8) ∧ upgrading.loc = some ⟨0, .mp0, 100#34⟩ ∧
    (owned.setEntry 5 (some upgrading)).standing 1 100#34 = .notHolder ∧
    ({ calm with dir := [(100, ⟨DirSet.empty.ways.set 0 (.held ⟨100#34, .shared 0x06#8, false⟩), [0]⟩)] } : State).standing 1
      100#34 = .sharer ∧ recallingX.grantsUp = false := by decide +kernel

/-- A RECLAIM or POISON entry whose lookup found block 100 OWNED by node 2. -/
def sweeping (k : TTKind) (failed : Bool) : TTEntry :=
  { TTEntry.fresh k .sweep none 100#34 (some ⟨0, .mp0, 100#34⟩) none with
    lookup := some (.held 0 ⟨100#34, .owned 2, failed⟩) }

/-- The agent waits for the RECLAIM of TT entry 5. -/
def reclaiming : State :=
  { (owned.setEntry 5 (some { sweeping .reclaim false with opened := true })) with agent := .reclaiming ⟨0, 9#8, 100#34⟩ 5 }

theorem test_hyp_reclaimEnds : owned.dir.wf = true ∧ (owned.setEntry 5 (some (sweeping .reclaim false))).entry 5 =
      some (sweeping .reclaim false) ∧ (sweeping .reclaim true).lookup = some (.held 0 ⟨100#34, .owned 2, true⟩) ∧
    owned.locate 100#34 = some ⟨0, .mp0, 100#34⟩ ∧ (sweeping .poison false).kind = .poison ∧
    (sweeping .reclaim false).memOp = none ∧ (sweeping .reclaim false).phase = .responding ∧
    (sweeping .reclaim false).opened = false ∧ (sweeping .reclaim false).held = [] ∧
    reclaiming.agent = .reclaiming ⟨0, 9#8, 100#34⟩ 5 ∧ (reclaiming.node 0).state ≠ .fenced ∧
    ((reclaiming.modNode 0 fun r => { r with state := .fenced }).node 0).state = .fenced ∧
    owned.agent = .ready := by decide +kernel

/-- The walk of a job in the set of block 100. -/
def walking (k : JobKind) (started : List TTIdx) : State :=
  { owned with jobs := [⟨k, .walking ⟨100, started, false, true, false⟩⟩] }

theorem test_hyp_walk : (walking (.fenceNode 2) []).runningJob = some ⟨.fenceNode 2, .walking ⟨100, [], false, true, false⟩⟩ ∧
    ({ calm with jobs := [⟨.closeRegion 0 false, .draining⟩] } : State).runningJob = some ⟨.closeRegion 0 false, .draining⟩ ∧
    ({ calm with jobs := [⟨.quiesceNode 3, .draining⟩] } : State).runningJob = some ⟨.quiesceNode 3, .draining⟩ ∧
    (walking (.fenceNode 2) []).DirectorySound ∧ (shared.dirSet 100).way 0 = .held ⟨100#34, .shared 0x14#8, false⟩ ∧
    NodeSet.has 0x14#8 4 = true ∧ shared.claimed 100#34 = false ∧ NodeSet.del 0x04#8 2 = 0#8 := by
  refine ⟨?_, ?_, ?_, owned_sound, ?_⟩ <;> decide +kernel

theorem test_hyp_walkActs : owned.WalkStarts (.fenceNode 2) 100 0 ⟨100#34, .owned 2, false⟩ ∧
    owned.WalkStarts (.quiesceNode 2) 100 0 ⟨100#34, .owned 2, false⟩ ∧
    owned.WalkStarts (.closeRegion 0 false) 100 0 ⟨100#34, .owned 2, false⟩ ∧
    (∀ v e, (owned.dirSet 99).way v ≠ .held e) ∧ owned.NextSet 99 100 ∧
    (∀ v e, ¬owned.WalkStarts (.fenceNode 3) 100 v e) := by
  refine ⟨⟨?_, ?_, ?_, ?_⟩, ⟨?_, ?_, nofun, ?_⟩, ⟨?_, ?_, nofun, ?_⟩, ?_, ⟨by decide, by decide +kernel, ?_⟩, ?_⟩
  · decide +kernel
  · exact .inr (by decide)
  · intro n hn; cases hn; rfl
  · decide +kernel
  · decide +kernel
  · exact .inr (by decide)
  · decide +kernel
  · decide +kernel
  · show (owned.region 0).contains 100#34 = true
    decide +kernel
  · decide +kernel
  · intro v e h
    have hv : ∀ v, (owned.dirSet 99).way v = .empty := by decide +kernel
    rw [hv v] at h
    cases h
  · intro j h1 h2
    have a : (99 : Nat) < j.val := h1
    have b : j.val < 100 := h2
    omega
  · intro v e h
    have ho := h.2.2.1 3 rfl
    have hv : ∀ v, (owned.dirSet 100).way v = if v = 0 then .held ⟨100#34, .owned 2, false⟩ else .empty := by decide +kernel
    have hw := h.1
    rw [hv v] at hw
    split at hw
    · injection hw with hw
      subst hw
      cases ho
    · cases hw

/-- A fence walk removes a fenced sharer and leaves the set. -/
theorem test_walk : (State.readSet { shared with jobs := [⟨.fenceNode 4, .walking (.enter 100)⟩] } (.fenceNode 4) (.enter 100)).dir =
      [(100, ⟨DirSet.empty.ways.set 0 (.held ⟨100#34, .shared 0x04#8, false⟩), [0]⟩)] ∧
    (State.readSet { shared with jobs := [⟨.fenceNode 4, .walking (.enter 100)⟩] } (.fenceNode 4) (.enter 100)).jobs =
      [⟨.fenceNode 4, .walking ⟨2047, [], true, false, false⟩⟩] := by decide +kernel

theorem test_hyp_resultWords : (calm.region 0).count ≤ 2 ^ 34 ∧
    (owned.dirSet (setOf 100#34)).findHeld 100#34 = some (0, ⟨100#34, .owned 2, false⟩) ∧
    (owned.dirSet 100).recency = [] ++ 0 :: [] ∧
    reserved.findHeld 100#34 = none ∧ reserved.way 0 = .reserved 5 100#34 ∧ DirSet.empty.findHeld 100#34 = none ∧
    calm.claimant 100#34 = none ∧ recalling.claimant 100#34 = some (5, .primary) ∧
    (calm.setEntry 5 (some (evicting false .empty []))).claimant 2148#34 = some (5, .victim) ∧
    (calm.slot .directory).record = none ∧ (locked.slot .directory).record = some heldCheck ∧
    ((reading.offer ⟨.readFault, some 7, some 100#34, some (.mp1, 15), some 47, some 3, 0#32⟩).slot .memory).record =
      some ⟨.readFault, some 7, some 100#34, some (.mp1, 15), some 47, some 3, 0#32⟩ ∧
    holding.hold.length ≤ 32 ∧ (offline 4).controlQ.length ≤ 4 ∧ issuing.mp0.issueQ.length ≤ 56 ∧
    (walking (.fenceNode 2) []).jobs.length ≤ 9 := by decide +kernel

/-! ### The bridge's own work, entries and messages -/

/-- Block 100 SHARED by nodes 2 and 4 as a lookup recorded it, for an entry of a kind of node 1. -/
def sharing (k : TTKind) : TTEntry :=
  { recallingX with kind := k, recalls := [], lookup := some (.held 0 ⟨100#34, .shared 0x14#8, false⟩) }

/-- TT entry 5 at the end of RESPONDING, with a victim of its own and a way still reserved. -/
def retiring : State := { calm with
  dir := [(100, ⟨DirSet.empty.ways.set 3 (.reserved 5 100#34), []⟩)]
  tt := calm.tt.set 5 ⟨0#8, some { evicting false .empty [] with phase := .responding, opened := true }⟩
  hold := [⟨⟨4, 1#8, .fetchS, 2148#34, none⟩, false⟩] }

theorem test_hyp_settle : calm.act.isNone = true ∧
    (State.sweepStep { calm with jobs := [⟨.fenceNode 3, .queued⟩] }).isSome = true ∧
    ({ calm with hold := [⟨⟨4, 1#8, .fetchS, 100#34, none⟩, true⟩] } : State).sweepStep.isNone = true ∧
    ({ calm with hold := [⟨⟨4, 1#8, .fetchS, 100#34, none⟩, true⟩] } : State).allocStep.isSome = true ∧
    retiring.sweepStep.isNone = true ∧ retiring.allocStep.isNone = true ∧ (retiring.entryStep 5).isSome = true ∧
    (∀ j ∈ ([0, 1, 2, 3, 4] : List TTIdx), (retiring.entryStep j).isNone = true) ∧
    (∀ i, (calm.entryStep i).isNone = true) := by decide +kernel

/-- A retiring entry gives its way back and makes the request held for its victim READY, which then starts. -/
theorem test_retirement : (retiring.entryStep 5).map (fun t => (t.dir, t.hold, (t.entry 5).isSome)) =
      some ([], [⟨⟨4, 1#8, .fetchS, 2148#34, none⟩, true⟩], false) ∧
    (retiring.settle.entry 0).map (·.block) = some 2148#34 ∧ retiring.settle.hold = [] := by decide +kernel

theorem test_hyp_retirement : retiring.dir.wf = true ∧ retiring.entry 5 =
      some { evicting false .empty [] with phase := .responding, opened := true } ∧
    (retiring.dirSet 100).way 3 = .reserved 5 100#34 ∧ (∀ v, v < 3 → (retiring.dirSet 100).way v = .empty) ∧
    (∀ v, (calm.dirSet 100).way v = .empty) ∧ recallingX.victim = none ∧ retiring.agent = .ready ∧
    reclaiming.agent = .reclaiming ⟨0, 9#8, 100#34⟩ 5 := by decide +kernel

theorem test_hyp_returnActs : (short 0x0A 0 0#8 100#32).parse .ret = .evictClean 100#34 ∧
    (short 0x0B 1 0#8 100#32).parse .ret = .recallAck 100#34 .clean ∧
    (short 0x0B 2 0#8 100#32).parse .ret = .recallAck 100#34 .absent := by decide +kernel

theorem test_hyp_entriesBegin : calm.tracked 100#34 = true ∧ calm.tracked 4096#34 = false ∧
    calm.locate 4096#34 = some ⟨1, .mp1, 64#34⟩ ∧
    ((calm.setEntry 5 (some recallingX)).lookup 5 100#34 true).1 = .reservedNew 0 ∧
    (sharing (.req .fetchS)).planned = [] ∧ (sharing (.req .fetchS)).situation = .shared 0x14#8 ∧
    (sharing (.req .fetchX)).planned = [(2, .invalidate), (4, .invalidate)] ∧
    (sharing .reclaim).planned = [(2, .invalidate), (4, .invalidate)] ∧ (sharing .reclaim).conflicts = false ∧
    upgrading.planned = [(2, .invalidate)] ∧ upgrading.grantsUp = true ∧
    ({ upgrading with lookup := some (.held 0 ⟨100#34, .shared 0x02#8, false⟩) } : TTEntry).planned = [] ∧
    recallingX.planned = [(2, .invalidate)] ∧ recallingX.conflicts = false ∧
    (writeThru (BitVec.ofNat 64 1)).planned = [] ∧ (writeThru (BitVec.ofNat 64 1)).situation = .notHeld ∧
    recallingX.loc = some ⟨0, .mp0, 100#34⟩ := by decide +kernel

theorem test_hyp_responding : recallingX.update ≠ [] ∧ ({ recallingX with recalls := [], orphaned := true } : TTEntry).update = [] ∧
    (recalling.setEntry 5 (some { recallingX with verdict := some .notPermitted })).entry 5 =
      some { recallingX with verdict := some .notPermitted } ∧ recallingX.requester = some (1, 7#8) := by decide +kernel

/-- A request that fails its re-check is answered, captured and changes no directory entry. -/
theorem test_failedRecheck :
    ((calm.startHeld 5 ⟨7, 1#8, .fetchS, 100#34, none⟩).entryStep 5).map
      (fun t => ((t.port 7).outbound, (t.slot .node).record.map (·.reason), t.dir)) =
    some ([⟨.fault 1#8 100#34 .notPermitted true, .tt 5⟩], some .notPermitted, []) := by decide +kernel

theorem test_hyp_offersAndNotices : calm.reachable = true ∧
    (((calm.slot .directory).offer heldCheck).owed .directory).isSome = true ∧
    (calm.modPort 0 fun p => { p with link := .down }).reachable = false ∧
    (((notified.slot .node).offer (record .linkLost)).owed .node) = none ∧
    (calm.jobDone (.quiesceNode 3)).reachable = true ∧
    ((calm.modPort 0 fun p => { p with link := .down }).jobDone (.quiesceNode 3)).reachable = false := by decide +kernel

/-- The words of a GRANT_S, of a FAULT and of a JOB_NOTICE. -/
theorem test_messageWords :
    (Msg.grantS 7#8 0x300000064#34 #v[⟨0x44444444333333332222222211111111#128, true⟩, ⟨0#128, false⟩, ⟨0#128, false⟩, ⟨5#128, true⟩]).words =
      [0x03001107#32, 0x64#32, 9#32, 0x11111111#32, 0x22222222#32, 0x33333333#32, 0x44444444#32, 0#32, 0#32, 0#32, 0#32,
        0#32, 0#32, 0#32, 0#32, 5#32, 0#32, 0#32, 0#32] ∧
    (Msg.fault 7#8 100#34 .poisoned true).words = [0x000A3607#32, 100#32] ∧
    (Msg.jobNotice (.closeRegion 15 true) .abandoned).words = [0x00003A00#32, 0#32, 0x1F0#32] := by decide +kernel

theorem test_hyp_messageFields : (short 0x11 0 7#8 100#32).kind = none ∧ (short 0x11 0 7#8 100#32).block = none ∧
    (short 0x01 0 7#8 100#32).kind = some (.req .fetchS) ∧ (short 0x01 0 7#8 100#32).body ≠ [] ∧
    (short 0x01 0 7#8 100#32).header.extractLsb' 26 2 = 0#2 ∧
    (⟨place 8 1 ||| place 26 1, [0#32]⟩ : InMsg).header.extractLsb' 26 2 ≠ 0#2 ∧
    (short 0x01 0 7#8 100#32).wellFormed .request = true ∧ (short 0x01 0 7#8 100#32).wellFormed .ret = false ∧
    (control 0 []).wellFormed .request = true ∧ (control 0 []).kind = some .control := by decide +kernel

theorem test_hyp_names : (evicting true .empty []).victim =
      some ⟨0, ⟨2148#34, .owned 2, true⟩, some ⟨0, .mp0, 2148#34⟩, [], .empty⟩ ∧
    calm.mapLookup 8192#34 = .noRegion ∧ closing.mapLookup 8191#34 = .closedRegion 1 ∧
    closing.mapLookup 4095#34 = .region ⟨0, .mp0, 4095#34⟩ .closing := by decide +kernel

/-! ### Conflicts, removals by an update, and jobs that wait -/

/-- The job of the UNTRACKED region 1, DRAINING while a held request names one of its blocks, or not. -/
def closingUntracked (held : Bool) : State := { calm with
  jobs := [⟨.closeRegion 1 true, .draining⟩]
  hold := if held then [⟨⟨4, 1#8, .readOnce, 4096#34, none⟩, true⟩] else [] }

theorem test_hyp_conflicts : ({ recallingX with requester := some (2, 7#8) } : TTEntry).conflicts = true ∧
    recallingX.conflicts = false ∧
    ({ recallingX with kind := .req .upgrade, requester := some (2, 7#8) } : TTEntry).conflicts = false ∧
    ({ recallingX with kind := .reclaim, requester := none } : TTEntry).conflicts = false ∧
    (sharing (.req .fetchX)).conflicts = false := by decide +kernel

/-- An update that removes the last holder takes its way out of the recency order; one on a RESERVED way that enters
nothing leaves the order as it is. -/
theorem test_hyp_removals :
    [UStep.remove 2].foldl (Way.step 100#34 (owned.vacated 100#34)) ((owned.dirSet 100).way 0) = .empty ∧
    (owned.applyUpdate 5 100#34 [.remove 2]).dir = [] ∧
    [UStep.remove 2].foldl (Way.step 100#34 .empty) (reserved.way 0) = .reserved 5 100#34 ∧
    (({ calm with dir := [(100, reserved)] } : State).applyUpdate 5 100#34 [.remove 2]).dir = [(100, reserved)] ∧
    (calm.dirSet (setOf 100#34)).findHeld 100#34 = none ∧ (calm.dirSet (setOf 100#34)).findReserved 5 = none := by
  decide +kernel

theorem test_hyp_closingUntracked :
    (∀ x, (closingUntracked x).runningJob = some ⟨.closeRegion 1 true, .draining⟩) ∧
    (closingUntracked true).regionDrained 1 = false ∧ (closingUntracked false).regionDrained 1 = true ∧
    (closingUntracked true).sweepStep.isNone = true ∧
    ((closingUntracked false).sweepStep.map fun t => (t.region 1).state) = some .closed ∧
    ({ calm with jobs := [⟨.quiesceNode 3, .done .completed .pending⟩] } : State).runningJob = none ∧
    ({ calm with jobs := [⟨.quiesceNode 3, .done .completed .pending⟩] } : State).sweepStep.isNone = true := by
  decide +kernel

theorem test_hyp_recallsInTurn : recalling.entry 5 = some recallingX ∧ (calm.node 3).state ≠ .fenced ∧ calm.entry 5 = none ∧
    ((calm.setEntry 5 (some (evicting false .empty []))).entry 5).isSome = true ∧
    (evicting false .empty []).victim.isSome = true := by decide +kernel

theorem test_hyp_commandWords : ControlReq.arg ⟨0, 9#8, 0x0A#8, [0x202#32]⟩ 0 = 0x202#32 ∧
    ControlReq.mode ⟨0, 9#8, 0x0A#8, [0x202#32]⟩ = 2 ∧ ControlReq.index ⟨0, 9#8, 0x0A#8, [0x202#32]⟩ = 2 := by decide +kernel

/-! ### The notices of a fence, held messages and absorbed writebacks -/

/-- Nodes 1 to 7 as in `calm`, node 5 the notice node, and entries 5 and 6 recalling node 3, the owner of the blocks 100 and
2148. -/
def losing : State := { (calm.setEntry 5 (some { recallingX with
      lookup := some (.held 0 ⟨100#34, .owned 3, false⟩)
      recalls := [⟨3, .invalidate, .departed, some 400#32, .awaiting, none⟩] })).setEntry 6 (some { recallingX with
      block := 2148#34
      lookup := some (.held 0 ⟨2148#34, .owned 3, false⟩)
      recalls := [⟨3, .invalidate, .departed, some 400#32, .awaiting, none⟩] }) with noticeNode := 5 }

/-- Two owners lost at one fence: the first locks the EMPTY slot and its notice is queued at the offer, with count 0; the
second is counted (R166, R167, R170). -/
theorem test_fence_twoLosses : losing.losses 3 = 2 ∧
    ((losing.fence 3 .control).port 5).outbound = [⟨.faultNotice .ownerLost .dataLost 0#4, .capture .dataLoss false⟩] ∧
    ((losing.fence 3 .control).slot .dataLoss).overflow = 1#4 ∧
    ((losing.fence 3 .control).slot .dataLoss).record = some ⟨.ownerLost, some 3, some 100#34, none, none, none, 0#32⟩ := by
  decide +kernel

theorem test_hyp_fenceNotices : losing.reachable = true ∧ losing.noticeNode ≠ 3 ∧
    (losing.withdrawnSlot 3 .dataLoss).record = none ∧ (losing.withdrawnSlot 3 .dataLoss).outstanding = false ∧
    (((losing.modSlot .dataLoss fun t => { t with outstanding := true }).withdrawnSlot 3 .dataLoss).outstanding = true) ∧
    (notified.withdrawnSlot 3 .dataLoss).record = some (record .writeFailed) ∧
    ((notified.withdrawnSlot 3 .dataLoss).owed .dataLoss).isSome = true ∧ notified.losses 3 = 1 ∧ calm.losses 3 = 0 ∧
    ({ losing with noticeNode := 3 } : State).noticeNode = 3 := by decide +kernel

/-- The fence ends the node's quiesce job ABANDONED, and its JOB_NOTICE is queued. -/
theorem test_fence_abandons : (({ quiescing with noticeNode := 5 } : State).fence 3 .control).jobs =
      [⟨.quiesceNode 3, .done .abandoned .queued⟩, ⟨.fenceNode 3, .queued⟩] ∧
    ((({ quiescing with noticeNode := 5 } : State).fence 3 .control).port 5).outbound =
      [⟨.jobNotice (.quiesceNode 3) .abandoned, .job (.quiesceNode 3)⟩] := by decide +kernel

/-- TT entry 5 with a RECALL and an answer held for node 2. -/
def withHeld : TTEntry := { recallingX with held := [(1, .disconnect), (2, .recall 100#34 .invalidate), (2, .disconnect)] }

theorem test_hyp_heldDepartures : (calm.setEntry 5 (some withHeld)).entry 5 = some withHeld ∧
    withHeld.held = [(1, .disconnect)] ++ (2, .recall 100#34 .invalidate) :: [(2, .disconnect)] ∧
    (∀ p ∈ [((1 : NodeId), Msg.disconnect)], p.1 ≠ 2) ∧ withHeld.claims 100#34 = some .primary ∧ calm.entry 5 = none ∧
    (((calm.setEntry 5 (some withHeld)).departed 2 ⟨.disconnect, .tt 5⟩).entry 5).map (·.held) =
      some [(1, .disconnect), (2, .disconnect)] := by decide +kernel

theorem test_hyp_absorbedWriteback : recalling.standing 2 100#34 = .owner ∧ recalling.dir.wf = true ∧
    recalling.memberOf 2 100#34 = some (5, .primary, recallingX, member .awaiting) := by decide +kernel

end Sys2Proof.Tests
end

section
/-! The machine's invariants: the induction over a step, and the credits of R6. -/

namespace Sys2Proof.Machine

/-! ### A property that every step keeps -/

/-- The warm reset of RESTART, with the agent's take, its reply and its notices, is a warm reset among the updates of
`Deed`. -/
theorem restart_keeps {P : State → Prop} (deed : ∀ fr s t, Deed fr s t → P s → P t) (warm : ∀ s : State, P s → P s.warmReset)
    (s : State) (h : P s) : P (s.agentTake (ControlReq.is 0x13#8) State.restart) := by
  have perform : ∀ (t : State) (c : ControlReq), P t → P (t.restart c) := fun t c ht => by
    unfold State.restart
    dsimp only
    refine deed True _ _ (Deed.flushNotices _) ?_
    split
    · exact deed True _ _ (Deed.reply _ _ _ _ _) (warm t ht)
    · exact warm t ht
  unfold State.agentTake
  split
  · next c rest _ e =>
    have taken : P { s with controlQ := rest } := deed True _ _ (Deed.control s rest (by rw [e]; exact Nat.le_succ _)) h
    split
    · dsimp only
      split
      · exact perform _ c taken
      · exact deed True _ _ (Deed.reply _ _ _ _ _) taken
    · exact h
  · exact h

/-- A property that the updates of `Deed`, the two resets and the tick of the time base keep is kept by every command. -/
theorem exec_keeps {P : State → Prop} (deed : ∀ fr s t, Deed fr s t → P s → P t) (warm : ∀ s : State, P s → P s.warmReset)
    (cold : ∀ s : State, P s.cold) (tick : ∀ (s : State) (x : Time), P s → P { s with timeBase := x })
    (c : Instr) (s t : State) (h : exec c s = .next t) (hs : P s) : P t := by
  have begun : P s.beginStep := deed True _ _ (Deed.beginStep s) hs
  have ran : ∀ f : State → State, (∀ u, P u → P (f u)) → run f s = .next t → P t := fun f hf hr => by
    unfold run at hr
    injection hr with hr
    subst hr
    split
    · exact hf _ begun
    · exact begun
  by_cases hw : c = .restart
  · subst hw
    exact ran _ (restart_keeps deed warm) h
  by_cases ht : c = .timeBaseAdvance
  · subst ht
    exact ran _ (fun u hu => tick u _ hu) h
  by_cases hc : ∃ x, c = .coldReset x
  · obtain ⟨x, rfl⟩ := hc
    injection h with h
    subst h
    cases x <;> exact deed True s.beginStep.cold _ (Deed.aside rfl) (cold _)
  · exact deed _ s t (Deed.exec c s t h ht hw fun x e => hc ⟨x, e⟩) hs

/-- A property that no update of the queue of commands touches, and that every command keeps, is an invariant of the
machine. -/
theorem step_keeps {P : State → Prop} (pending : ∀ (s : State) (q : List Instr), P s → P { s with pending := q })
    (deed : ∀ fr s t, Deed fr s t → P s → P t) (warm : ∀ s : State, P s → P s.warmReset)
    (cold : ∀ s : State, P s.cold) (tick : ∀ (s : State) (x : Time), P s → P { s with timeBase := x })
    (s t : State) (hs : P s) (h : step s = .next t) : P t := by
  unfold step at h
  split at h
  · injection h with h
    exact h ▸ hs
  · exact exec_keeps deed warm cold tick _ _ _ h (pending s _ hs)

/-! ### Credits (R6) -/

/-- R6, of one node: the inbox entries and the credits of a port agree with the state of its node. -/
def Port.Balanced (p : Port) (x : NodeState) : Prop :=
  (x.counted = true → p.requests.length + p.requestCredits = Config.requestCapacity ∧
      p.returns.length + p.returnCredits = Config.returnCapacity) ∧
    (x.counted = false → p.requests = [] ∧ p.requestCredits = 0 ∧ p.returns = [] ∧ p.returnCredits = 0)

theorem State.CreditsKept.balanced {s : State} (h : s.CreditsKept) (n : NodeId) : (s.port n).Balanced (s.node n).state := h n

/-- A port without inbox entries and credits is balanced for a node that is not counted. -/
theorem Port.balanced_silent {p : Port} {x : NodeState} (hx : x.counted = false) (h1 : p.requests = []) (h2 : p.returns = [])
    (h3 : p.requestCredits = 0) (h4 : p.returnCredits = 0) : p.Balanced x :=
  ⟨fun (h : x.counted = true) => absurd (hx.symm.trans h) Bool.false_ne_true, fun _ => ⟨h1, h3, h2, h4⟩⟩

/-- The balance reads of a port its inboxes and its credits, and of a node whether it is counted. -/
theorem Port.Balanced.congr {p q : Port} {x y : NodeState} (h : p.Balanced x) (hx : y.counted = x.counted)
    (h1 : q.requests = p.requests) (h2 : q.returns = p.returns) (h3 : q.requestCredits = p.requestCredits)
    (h4 : q.returnCredits = p.returnCredits) : q.Balanced y := by
  unfold Port.Balanced
  rw [hx, h1, h2, h3, h4]
  exact h

/-- R3: a message accepted against a credit keeps the balance of a counted node. -/
theorem Port.Balanced.accept {p : Port} {x : NodeState} (h : p.Balanced x) (hx : x.counted = true) (cls : MsgClass) (m : InMsg)
    (hc : p.credits cls ≠ 0) : (p.accept cls m).Balanced x := by
  obtain ⟨hq, hr⟩ := h.1 hx
  refine ⟨fun _ => ?_, fun n => absurd (n.symm.trans hx) Bool.false_ne_true⟩
  cases cls with
  | request =>
    have : p.requestCredits ≠ 0 := hc
    refine ⟨?_, hr⟩
    simp only [Port.accept, List.length_append, List.length_singleton]
    omega
  | ret =>
    have : p.returnCredits ≠ 0 := hc
    refine ⟨hq, ?_⟩
    simp only [Port.accept, List.length_append, List.length_singleton]
    omega

/-- R5: a head taken returns its credit, and keeps the balance; an inbox that holds a head is a counted node's. -/
theorem Port.Balanced.taken {p : Port} {x : NodeState} (h : p.Balanced x) (cls : MsgClass) (hi : p.inbox cls ≠ []) :
    (p.taken cls).Balanced x := by
  have hx : x.counted = true := by
    cases hx : x.counted with
    | true => rfl
    | false =>
      obtain ⟨h1, -, h2, -⟩ := h.2 hx
      cases cls
      · exact absurd h1 hi
      · exact absurd h2 hi
  obtain ⟨hq, hr⟩ := h.1 hx
  refine ⟨fun _ => ?_, fun n => absurd (n.symm.trans hx) Bool.false_ne_true⟩
  have pos := List.length_pos_iff.mpr hi
  cases cls with
  | request =>
    have pos : 0 < p.requests.length := pos
    refine ⟨?_, hr⟩
    simp only [Port.taken, List.length_tail]
    omega
  | ret =>
    have pos : 0 < p.returns.length := pos
    refine ⟨hq, ?_⟩
    simp only [Port.taken, List.length_tail]
    omega

/-- What the bridge's own work does to a port and its node keeps the balance. -/
theorem Port.Balanced.inbox {p q : Port} {x y : NodeState} (h : p.Balanced x) (i : Calm.Inbox p q x y) : q.Balanced y := by
  rcases i with ⟨rfl, h1, h2, h3, h4⟩ | ⟨rfl, h1, h2, h3, h4⟩
  · exact h.congr rfl h1 h2 h3 h4
  · exact Port.balanced_silent rfl h1 h2 h3 h4

/-- The credits rest on the ports and the node records alone. -/
theorem State.CreditsKept.congr {s t : State} (h : s.CreditsKept) (hp : t.ports = s.ports) (hn : t.nodes = s.nodes) :
    t.CreditsKept := fun n => by
  rw [State.port_congr hp n, State.node_congr hn n]
  exact h n

/-- One port changed. -/
theorem State.CreditsKept.modPort {s : State} (h : s.CreditsKept) (n : NodeId) (f : Port → Port)
    (k : (s.port n).Balanced (s.node n).state → (f (s.port n)).Balanced (s.node n).state) : (s.modPort n f).CreditsKept := fun m => by
  rw [State.modPort_port]
  split
  · next e => subst e; exact k (h m)
  · exact h m

/-- One node record changed, which stays counted or not as it was. -/
theorem State.CreditsKept.modNode {s : State} (h : s.CreditsKept) (n : NodeId) (f : NodeRec → NodeRec)
    (k : (f (s.node n)).state.counted = (s.node n).state.counted) : (s.modNode n f).CreditsKept := fun m => by
  rw [State.modNode_node]
  split
  · next e => subst e; exact (h.balanced m).congr k rfl rfl rfl rfl
  · exact h m

/-- R138: the admission of a node gives its port full credits. -/
theorem State.CreditsKept.makeActive {s : State} (h : s.CreditsKept) (n : NodeId) : (s.makeActive n).CreditsKept := fun m => by
  have port : (s.makeActive n).port m = if m = n then (s.port n).admitted else s.port m := State.modPort_port _ n m _
  have node : (s.makeActive n).node m = if m = n then { s.node n with state := .active, fenceReason := none } else s.node m :=
    State.modNode_node s n m fun r => { r with state := .active, fenceReason := none }
  rw [port, node]
  split
  · exact ⟨fun _ => ⟨rfl, rfl⟩, nofun⟩
  · exact h m

/-- R142: a fence empties the inboxes of its node and takes its credits. -/
theorem State.CreditsKept.fence {s : State} (h : s.CreditsKept) (n : NodeId) (why : FenceReason) : (s.fence n why).CreditsKept := fun m => by
  have f := s.fence_fenced n why
  by_cases e : m = n
  · subst e
    rw [f.node, f.port]
    exact Port.balanced_silent rfl rfl rfl rfl rfl
  · obtain ⟨h1, h2, h3, h4, -⟩ := f.inbox m e
    exact (h.balanced m).congr (by rw [f.others m e]) h1 h2 h3 h4

/-- Every update of the commands keeps the credits. -/
theorem Deed.creditsKept {fr : Prop} {s t : State} (d : Deed fr s t) : s.CreditsKept → t.CreditsKept := by
  induction d with
  | work w => exact fun h n => (h.balanced n).inbox ((Calm.of_work w).inbox n)
  | trans _ _ h k => exact fun x => k (h x)
  | aside e =>
    simp only [State.guarded, Prod.mk.injEq] at e
    obtain ⟨-, -, hp, hn, -⟩ := e
    exact fun h => h.congr hp hn
  | accept s n cls m hc hk => exact fun h => h.modPort n _ fun b => b.accept hc cls m hk
  | taken s n cls hi => exact fun h => h.modPort n _ fun b => b.taken cls hi
  | outbound s n l => exact fun h => h.modPort n _ fun b => b.congr rfl rfl rfl rfl rfl
  | link s n x => exact fun h => h.modPort n _ fun b => b.congr rfl rfl rfl rfl rfl
  | record s n f hf => exact fun h => h.modNode n f (by rw [hf])
  | fence s n why => exact fun h => h.fence n why
  | makeActive s n _ => exact fun h => h.makeActive n
  | quiesce s n ha => exact fun h => (h.modNode n (fun r => { r with state := .quiescing }) (by rw [ha]; rfl)).congr rfl rfl
  | release s n hf => exact fun h => h.modNode n _ (by rw [hf]; rfl)
  | close | write | opened | slot | free | control | ask | hold | leave => exact fun h => h.congr rfl rfl

/-- R149: a warm reset leaves every node OFFLINE, its port without inbox entries and credits. -/
theorem State.creditsKept_warmReset (s : State) : s.warmReset.CreditsKept := fun n => by
  have node : s.warmReset.node n = (s.node n).warm := by simp [State.warmReset, State.node]
  have port : s.warmReset.port n = (s.port n).warm := by simp [State.warmReset, State.port]
  rw [node, port]
  exact Port.balanced_silent rfl rfl rfl rfl rfl

/-- R21, R150: a cold reset leaves every node OFFLINE, its port without inbox entries and credits. -/
theorem State.creditsKept_reset : State.reset.CreditsKept := fun n => by
  have port : State.reset.port n = Port.cold := by simp [State.reset, State.port]
  have node : (State.reset.node n).state = .offline := by revert n; decide
  rw [node, port]
  exact Port.balanced_silent rfl rfl rfl rfl rfl

/-- Settles O7: by induction over the updates of which a command is made; each keeps the balance of every port. -/
theorem creditsAreKept : Obligations.CreditsAreKept := fun s t hs h =>
  step_keeps (P := State.CreditsKept) (fun _ _ k => k.congr rfl rfl) (fun _ _ _ d => d.creditsKept)
    (fun s _ => s.creditsKept_warmReset) (fun _ => State.creditsKept_reset.congr rfl rfl) (fun _ _ k => k.congr rfl rfl) s t hs h

end Sys2Proof.Machine
end

section
/-! The rules of the state's operations that the statements about the ports use: the start of a step, the notices (R169 to
R171), the offers of records (R165 to R168) and the replies (R178). -/

namespace Sys2Proof.Machine

/-! ### The start of a step -/

section
variable (s : State)

@[simp] theorem State.beginStep_port (n : NodeId) : s.beginStep.port n = s.port n := rfl
@[simp] theorem State.beginStep_node (n : NodeId) : s.beginStep.node n = s.node n := rfl
@[simp] theorem State.beginStep_region (r : RegionIdx) : s.beginStep.region r = s.region r := rfl
@[simp] theorem State.beginStep_slot (c : CaptureClass) : s.beginStep.slot c = s.slot c := rfl
@[simp] theorem State.beginStep_ttSlot (i : TTIdx) : s.beginStep.ttSlot i = s.ttSlot i := rfl
@[simp] theorem State.beginStep_wbEntry (w : WBIdx) : s.beginStep.wbEntry w = s.wbEntry w := rfl
@[simp] theorem State.beginStep_mp (p : MPort) : s.beginStep.mp p = s.mp p := by cases p <;> rfl
@[simp] theorem State.beginStep_out : s.beginStep.out = [] := rfl

end

/-! ### Records that a setter of another kind leaves as they were -/

section
variable (s : State)

@[simp] theorem State.modPort_node (n : NodeId) (f : Port → Port) (m : NodeId) : (s.modPort n f).node m = s.node m := rfl
@[simp] theorem State.modPort_slot (n : NodeId) (f : Port → Port) (k : CaptureClass) : (s.modPort n f).slot k = s.slot k := rfl
@[simp] theorem State.modPort_ttSlot (n : NodeId) (f : Port → Port) (j : TTIdx) : (s.modPort n f).ttSlot j = s.ttSlot j := rfl
@[simp] theorem State.modPort_wbEntry (n : NodeId) (f : Port → Port) (v : WBIdx) : (s.modPort n f).wbEntry v = s.wbEntry v := rfl
@[simp] theorem State.modNode_port (n : NodeId) (f : NodeRec → NodeRec) (m : NodeId) : (s.modNode n f).port m = s.port m := rfl
@[simp] theorem State.modNode_slot (n : NodeId) (f : NodeRec → NodeRec) (k : CaptureClass) : (s.modNode n f).slot k = s.slot k := rfl
@[simp] theorem State.modNode_ttSlot (n : NodeId) (f : NodeRec → NodeRec) (j : TTIdx) : (s.modNode n f).ttSlot j = s.ttSlot j := rfl
@[simp] theorem State.modNode_wbEntry (n : NodeId) (f : NodeRec → NodeRec) (v : WBIdx) : (s.modNode n f).wbEntry v = s.wbEntry v := rfl
@[simp] theorem State.modSlot_port (c : CaptureClass) (f : CaptureSlot → CaptureSlot) (m : NodeId) : (s.modSlot c f).port m = s.port m := rfl
@[simp] theorem State.modSlot_node (c : CaptureClass) (f : CaptureSlot → CaptureSlot) (m : NodeId) : (s.modSlot c f).node m = s.node m := rfl
@[simp] theorem State.modSlot_ttSlot (c : CaptureClass) (f : CaptureSlot → CaptureSlot) (j : TTIdx) : (s.modSlot c f).ttSlot j = s.ttSlot j := rfl
@[simp] theorem State.modSlot_wbEntry (c : CaptureClass) (f : CaptureSlot → CaptureSlot) (v : WBIdx) : (s.modSlot c f).wbEntry v = s.wbEntry v := rfl
@[simp] theorem State.modTT_port (i : TTIdx) (f : TTSlot → TTSlot) (m : NodeId) : (s.modTT i f).port m = s.port m := rfl
@[simp] theorem State.modTT_node (i : TTIdx) (f : TTSlot → TTSlot) (m : NodeId) : (s.modTT i f).node m = s.node m := rfl
@[simp] theorem State.modTT_slot (i : TTIdx) (f : TTSlot → TTSlot) (k : CaptureClass) : (s.modTT i f).slot k = s.slot k := rfl
@[simp] theorem State.modTT_wbEntry (i : TTIdx) (f : TTSlot → TTSlot) (v : WBIdx) : (s.modTT i f).wbEntry v = s.wbEntry v := rfl
@[simp] theorem State.setWB_port (w : WBIdx) (o : Option WBEntry) (m : NodeId) : (s.setWB w o).port m = s.port m := rfl
@[simp] theorem State.setWB_node (w : WBIdx) (o : Option WBEntry) (m : NodeId) : (s.setWB w o).node m = s.node m := rfl
@[simp] theorem State.setWB_slot (w : WBIdx) (o : Option WBEntry) (k : CaptureClass) : (s.setWB w o).slot k = s.slot k := rfl
@[simp] theorem State.setWB_ttSlot (w : WBIdx) (o : Option WBEntry) (j : TTIdx) : (s.setWB w o).ttSlot j = s.ttSlot j := rfl
@[simp] theorem State.modEntry_port (i : TTIdx) (f : TTEntry → TTEntry) (m : NodeId) : (s.modEntry i f).port m = s.port m := rfl
@[simp] theorem State.modEntry_node (i : TTIdx) (f : TTEntry → TTEntry) (m : NodeId) : (s.modEntry i f).node m = s.node m := rfl
@[simp] theorem State.modEntry_slot (i : TTIdx) (f : TTEntry → TTEntry) (k : CaptureClass) : (s.modEntry i f).slot k = s.slot k := rfl
@[simp] theorem State.modEntry_wbEntry (i : TTIdx) (f : TTEntry → TTEntry) (v : WBIdx) : (s.modEntry i f).wbEntry v = s.wbEntry v := rfl
@[simp] theorem State.enqueue_node (n : NodeId) (p : Producer) (y : Msg) (m : NodeId) : (s.enqueue n p y).node m = s.node m := rfl
@[simp] theorem State.enqueue_slot (n : NodeId) (p : Producer) (y : Msg) (k : CaptureClass) : (s.enqueue n p y).slot k = s.slot k := rfl
@[simp] theorem State.enqueue_ttSlot (n : NodeId) (p : Producer) (y : Msg) (j : TTIdx) : (s.enqueue n p y).ttSlot j = s.ttSlot j := rfl
@[simp] theorem State.enqueue_wbEntry (n : NodeId) (p : Producer) (y : Msg) (v : WBIdx) : (s.enqueue n p y).wbEntry v = s.wbEntry v := rfl
@[simp] theorem State.emit_port (e : OutEvent) (m : NodeId) : (s.emit e).port m = s.port m := rfl
@[simp] theorem State.emit_node (e : OutEvent) (m : NodeId) : (s.emit e).node m = s.node m := rfl
@[simp] theorem State.emit_slot (e : OutEvent) (k : CaptureClass) : (s.emit e).slot k = s.slot k := rfl
@[simp] theorem State.emit_ttSlot (e : OutEvent) (j : TTIdx) : (s.emit e).ttSlot j = s.ttSlot j := rfl
@[simp] theorem State.emit_wbEntry (e : OutEvent) (v : WBIdx) : (s.emit e).wbEntry v = s.wbEntry v := rfl
@[simp] theorem State.emit_out (e : OutEvent) : (s.emit e).out = s.out ++ [e] := rfl

end

/-! ### A slot's notice (R169, R170) -/

/-- R186: the fields beside the slots, the ports, the jobs and the Transaction Table, one by one. -/
structure SameBeside (s t : State) : Prop where
  pending : t.pending = s.pending
  inputs : t.inputs = s.inputs
  now : t.now = s.now
  out : t.out = s.out
  resetAsserted : t.resetAsserted = s.resetAsserted
  powerGood : t.powerGood = s.powerGood
  timeBase : t.timeBase = s.timeBase
  noticeNode : t.noticeNode = s.noticeNode
  intakePos : t.intakePos = s.intakePos
  refusalMarks : t.refusalMarks = s.refusalMarks
  nodes : t.nodes = s.nodes
  regions : t.regions = s.regions
  dir : t.dir = s.dir
  hold : t.hold = s.hold
  wb : t.wb = s.wb
  mp0 : t.mp0 = s.mp0
  mp1 : t.mp1 = s.mp1
  agent : t.agent = s.agent
  controlQ : t.controlQ = s.controlQ

theorem SameBeside.of_eq {s t : State} (h : t.besideNotices = s.besideNotices) : SameBeside s t := by
  simp only [State.besideNotices, Prod.mk.injEq] at h
  obtain ⟨h1, h2, h3, h4, h5, h6, h7, h8, h9, h10, h11, h12, h13, h14, h15, h16, h17, h18, h19⟩ := h
  exact ⟨h1, h2, h3, h4, h5, h6, h7, h8, h9, h10, h11, h12, h13, h14, h15, h16, h17, h18, h19⟩

theorem SameBeside.node {s t : State} (h : SameBeside s t) (n : NodeId) : t.node n = s.node n := State.node_congr h.nodes n

theorem SameBeside.mp {s t : State} (h : SameBeside s t) : ∀ p, t.mp p = s.mp p
  | .mp0 => h.mp0
  | .mp1 => h.mp1

/-- R147: whether the notice node is reachable rests on its link and its state. -/
theorem State.reachable_congr {s t : State} (h1 : t.noticeNode = s.noticeNode) (h2 : t.node s.noticeNode = s.node s.noticeNode)
    (h3 : (t.port s.noticeNode).link = (s.port s.noticeNode).link) : t.reachable = s.reachable := by
  unfold State.reachable
  rw [h1, h2, h3]

theorem State.reachable_iff (s : State) :
    s.reachable = true ↔ (s.port s.noticeNode).link = .up ∧ (s.node s.noticeNode).state ≠ .fenced := by
  simp [State.reachable]

/-- A port with messages behind those of its Outbound Queue. -/
def Port.send (p : Port) (ms : List OutMsg) : Port := { p with outbound := p.outbound ++ ms }

@[simp] theorem Port.send_nil (p : Port) : p.send [] = p := by simp [Port.send]
@[simp] theorem Port.send_send (p : Port) (a b : List OutMsg) : (p.send a).send b = p.send (a ++ b) := by simp [Port.send]
@[simp] theorem Port.send_link (p : Port) (ms : List OutMsg) : (p.send ms).link = p.link := rfl
@[simp] theorem Port.send_outbound (p : Port) (ms : List OutMsg) : (p.send ms).outbound = p.outbound ++ ms := rfl

/-- R170: while the notice node is not reachable no notice of a slot is queued. -/
theorem State.queueNotice_unreachable (s : State) (c : CaptureClass) (h : s.reachable = false) : s.queueNotice c = s := by
  unfold State.queueNotice
  simp [h]

/-- R170: a slot that owes no notice queues none. -/
theorem State.queueNotice_none (s : State) (c : CaptureClass) (h : (s.slot c).owed c = none) : s.queueNotice c = s := by
  unfold CaptureSlot.owed at h
  unfold State.queueNotice
  dsimp only
  split
  · next hr =>
    simp only [Bool.and_eq_true, Bool.not_eq_true'] at hr
    split
    · rfl
    · next r e =>
      simp only [e, hr.2] at h
      split
      · next l => simp [l] at h
      · next l =>
        split
        · next x => simp [l, x] at h
        · rfl
  · rfl

/-- R170: a slot that owes a notice holds a record, has no notice outstanding, and has the notice PENDING, the lock notice
before the escalation notice. -/
theorem CaptureSlot.owed_some {t : CaptureSlot} {k : CaptureClass} {o : OutMsg} (h : t.owed k = some o) :
    ∃ r, t.record = some r ∧ t.outstanding = false ∧
      (t.lockNotice = .pending ∧ o = ⟨.faultNotice r.reason r.reason.severity t.overflow, .capture k false⟩ ∨
        t.lockNotice ≠ .pending ∧ t.escalationNotice = .pending ∧
          o = ⟨.faultNotice (t.escalationReason.getD r.reason) .dataLost t.overflow, .capture k true⟩) := by
  unfold CaptureSlot.owed at h
  split at h
  · cases h
  · next r e =>
    split at h
    · cases h
    · next ho =>
      refine ⟨r, e, by simpa using ho, ?_⟩
      split at h
      · next l => cases h; exact .inl ⟨l, rfl⟩
      · next l =>
        split at h
        · next x => cases h; exact .inr ⟨l, x, rfl⟩
        · cases h

theorem CaptureSlot.told_none {t : CaptureSlot} {k : CaptureClass} (h : t.owed k = none) : t.told k = t := by
  unfold CaptureSlot.told
  rw [h]

theorem CaptureSlot.told_some {t : CaptureSlot} {k : CaptureClass} {o : OutMsg} (h : t.owed k = some o) :
    t.told k = { t with
      outstanding := true
      lockNotice := if o.producer = .capture k false then .queued else t.lockNotice
      escalationNotice := if o.producer = .capture k true then .queued else t.escalationNotice } := by
  unfold CaptureSlot.told
  rw [h]

theorem State.modSlot_congr {s : State} {c : CaptureClass} {f g : CaptureSlot → CaptureSlot} (h : f (s.slot c) = g (s.slot c)) :
    s.modSlot c f = s.modSlot c g := by
  unfold State.modSlot
  rw [h]

/-- R170: the notice that a slot owes is queued to a reachable notice node. -/
theorem State.queueNotice_some (s : State) (c : CaptureClass) (o : OutMsg) (hr : s.reachable = true)
    (h : (s.slot c).owed c = some o) :
    s.queueNotice c = (s.modSlot c fun t => t.told c).modPort s.noticeNode fun q => q.send [o] := by
  rw [State.modSlot_congr (f := fun t => t.told c) (g := fun t => { t with
      outstanding := true
      lockNotice := if o.producer = .capture c false then .queued else t.lockNotice
      escalationNotice := if o.producer = .capture c true then .queued else t.escalationNotice }) (CaptureSlot.told_some h)]
  obtain ⟨r, e, ho, ⟨l, rfl⟩ | ⟨l, x, rfl⟩⟩ := CaptureSlot.owed_some h
  · unfold State.queueNotice
    simp only [hr, ho, e, l, Bool.not_false, Bool.and_self, if_true, Producer.capture.injEq, true_and, Bool.false_eq_true, if_false]
    rfl
  · unfold State.queueNotice
    simp only [hr, ho, e, l, x, Bool.not_false, Bool.and_self, if_true, Producer.capture.injEq, true_and, Bool.true_eq_false, if_false]
    rfl

/-- R170: a slot once its notice has been queued, and the others. -/
theorem State.queueNotice_slot (s : State) (c d : CaptureClass) :
    (s.queueNotice c).slot d = if d = c ∧ s.reachable = true then (s.slot c).told c else s.slot d := by
  cases hr : s.reachable with
  | false => rw [s.queueNotice_unreachable c hr]; simp
  | true =>
    cases ho : (s.slot c).owed c with
    | none =>
      rw [s.queueNotice_none c ho]
      rw [CaptureSlot.told_none ho]
      split
      · next e => rw [e.1]
      · rfl
    | some o =>
      rw [s.queueNotice_some c o hr ho, State.slot_congr (State.modPort_slots _ _ _), State.modSlot_slot]
      simp

/-- R170: the port of the notice node, behind whose messages a slot's notice is queued, and the others. -/
theorem State.queueNotice_port (s : State) (c : CaptureClass) (n : NodeId) :
    (s.queueNotice c).port n =
      if n = s.noticeNode ∧ s.reachable = true then (s.port n).send ((s.slot c).owed c).toList else s.port n := by
  cases hr : s.reachable with
  | false => rw [s.queueNotice_unreachable c hr]; simp
  | true =>
    cases ho : (s.slot c).owed c with
    | none => rw [s.queueNotice_none c ho]; simp
    | some o =>
      rw [s.queueNotice_some c o hr ho, State.modPort_port]
      simp only [and_true]
      split
      · next e => subst e; rfl
      · rfl

theorem State.queueNotice_same (s : State) (c : CaptureClass) : SameBeside s (s.queueNotice c) :=
  .of_eq (s.queueNotice_beside c)

@[simp] theorem State.queueNotice_reachable (s : State) (c : CaptureClass) : (s.queueNotice c).reachable = s.reachable := by
  have b := s.queueNotice_same c
  refine State.reachable_congr b.noticeNode (b.node _) ?_
  rw [State.queueNotice_port]
  split <;> rfl

@[simp] theorem State.queueNotice_noticeNode (s : State) (c : CaptureClass) : (s.queueNotice c).noticeNode = s.noticeNode :=
  (s.queueNotice_same c).noticeNode

theorem State.queueNotice_jobs (s : State) (c : CaptureClass) : (s.queueNotice c).jobs = s.jobs := by
  unfold State.queueNotice
  dsimp only
  repeat' split
  all_goals rfl

theorem State.queueNotice_tt (s : State) (c : CaptureClass) : (s.queueNotice c).tt = s.tt := by
  unfold State.queueNotice
  dsimp only
  repeat' split
  all_goals rfl

/-! ### The job notices (R161) -/

theorem State.queueJobNotices_same (s : State) : SameBeside s s.queueJobNotices := .of_eq s.queueJobNotices_beside

/-- R161: the port of the notice node once the job notices have been queued, and the others. -/
theorem State.queueJobNotices_port (s : State) (n : NodeId) :
    s.queueJobNotices.port n =
      if n = s.noticeNode ∧ s.reachable = true then (s.port n).send (s.jobs.filterMap Job.owed) else s.port n := by
  unfold State.queueJobNotices
  split
  · next h =>
    refine (State.modPort_port s s.noticeNode n fun q => q.send (s.jobs.filterMap Job.owed)).trans ?_
    simp only [h, and_true]
    split
    · next e => rw [e]
    · rfl
  · next h => simp [h]

theorem State.queueJobNotices_jobs (s : State) :
    s.queueJobNotices.jobs = if s.reachable = true then s.jobs.map Job.noticeQueued else s.jobs := by
  unfold State.queueJobNotices
  split <;> rfl

theorem State.queueJobNotices_slots (s : State) : s.queueJobNotices.slots = s.slots := by
  unfold State.queueJobNotices
  split <;> rfl

theorem State.queueJobNotices_tt (s : State) : s.queueJobNotices.tt = s.tt := by
  unfold State.queueJobNotices
  split <;> rfl

/-! ### All notices (R147) -/

/-- R147: the port of the notice node once all notices owed have been queued, and the others. -/
theorem State.flushNotices_port (s : State) (n : NodeId) :
    s.flushNotices.port n = if n = s.noticeNode ∧ s.reachable = true then
      (s.port n).send ((allClasses.filterMap fun k => (s.slot k).owed k) ++ s.jobs.filterMap Job.owed) else s.port n := by
  unfold State.flushNotices
  simp only [State.queueJobNotices_port, State.queueNotice_port, State.queueNotice_slot, State.queueNotice_reachable,
    State.queueNotice_noticeNode, State.queueNotice_jobs]
  split
  · simp only [reduceCtorEq, false_and, if_false, Port.send_send]
    congr 2
    simp only [allClasses, List.filterMap_cons, List.filterMap_nil]
    cases (s.slot .node).owed .node <;> cases (s.slot .memory).owed .memory <;> cases (s.slot .dataLoss).owed .dataLoss <;>
      cases (s.slot .directory).owed .directory <;> rfl
  · rfl

/-- R147: a slot once all notices owed have been queued. -/
theorem State.flushNotices_slot (s : State) (k : CaptureClass) :
    s.flushNotices.slot k = if s.reachable = true then (s.slot k).told k else s.slot k := by
  unfold State.flushNotices
  rw [State.slot_congr (State.queueJobNotices_slots _)]
  simp only [State.queueNotice_slot, State.queueNotice_reachable]
  cases k <;> simp

theorem State.flushNotices_same (s : State) : SameBeside s s.flushNotices := by
  refine .of_eq ?_
  unfold State.flushNotices
  simp only [State.queueJobNotices_beside, State.queueNotice_beside]

theorem State.flushNotices_tt (s : State) : s.flushNotices.tt = s.tt := by
  unfold State.flushNotices
  simp only [State.queueJobNotices_tt, State.queueNotice_tt]

theorem State.flushNotices_jobs (s : State) :
    s.flushNotices.jobs = if s.reachable = true then s.jobs.map Job.noticeQueued else s.jobs := by
  unfold State.flushNotices
  simp only [State.queueJobNotices_jobs, State.queueNotice_jobs, State.queueNotice_reachable]

/-! ### The offer of a record (R165 to R168) -/

theorem State.offer_same (s : State) (r : CaptureRecord) : SameBeside s (s.offer r) := .of_eq (s.offer_beside r)

theorem State.offer_quiet (s : State) (r : CaptureRecord) : Quiet s (s.offer r) := (Work.offer s r).quiet

/-- R170: a slot told of its notice keeps its record and its counts. -/
theorem CaptureSlot.told_record (t : CaptureSlot) (k : CaptureClass) :
    (t.told k).record = t.record ∧ (t.told k).overflow = t.overflow ∧ (t.told k).escalated = t.escalated ∧
      (t.told k).escalationReason = t.escalationReason := by
  unfold CaptureSlot.told
  split <;> exact ⟨rfl, rfl, rfl, rfl⟩

/-- R165: the slots after the offer of a record, the one of its class told of its notice when the notice node is reachable. -/
theorem State.offer_slot (s : State) (r : CaptureRecord) (k : CaptureClass) :
    (s.offer r).slot k = if k = r.reason.cls then
      (if s.reachable = true then ((s.slot k).offer r).told k else (s.slot k).offer r) else s.slot k := by
  have reach : (s.capture r).reachable = s.reachable := rfl
  unfold State.offer
  rw [State.queueNotice_slot, reach]
  by_cases e : k = r.reason.cls
  · subst e
    simp [State.capture_slot]
  · simp [State.capture_slot, e]

/-- R165: the ports after the offer of a record. -/
theorem State.offer_port (s : State) (r : CaptureRecord) (n : NodeId) :
    (s.offer r).port n = if n = s.noticeNode ∧ s.reachable = true then
      (s.port n).send (((s.slot r.reason.cls).offer r).owed r.reason.cls).toList else s.port n := by
  have reach : (s.capture r).reachable = s.reachable := rfl
  have port : (s.capture r).port n = s.port n := rfl
  unfold State.offer
  rw [State.queueNotice_port, reach, port, State.capture_slot, if_pos rfl]
  rfl

/-- R166, R167: an offer locks an EMPTY slot, and leaves the record of a LOCKED one. -/
theorem State.offer_holds (s : State) (r : CaptureRecord) : s.HoldsRecord (s.offer r) r := by
  have record : ((s.offer r).slot r.reason.cls).record = ((s.slot r.reason.cls).offer r).record := by
    rw [State.offer_slot, if_pos rfl]
    split
    · exact (CaptureSlot.told_record _ _).1
    · rfl
  unfold State.HoldsRecord
  rw [record]
  split
  · next e => unfold CaptureSlot.offer; rw [e]
  · next x e => exact Work.offer_record _ r x e

/-- A record held stays held while locked records stay. -/
theorem State.HoldsRecord.mono {s t u : State} {r : CaptureRecord} (h : s.HoldsRecord t r)
    (k : ∀ c x, (t.slot c).record = some x → (u.slot c).record = some x) : s.HoldsRecord u r := by
  unfold State.HoldsRecord at h ⊢
  split at h <;> exact k _ _ h

/-- A record held is held of every state with the same slot before. -/
theorem State.HoldsRecord.before {s s' t : State} {r : CaptureRecord} (h : s.HoldsRecord t r)
    (e : (s'.slot r.reason.cls).record = (s.slot r.reason.cls).record) : s'.HoldsRecord t r := by
  unfold State.HoldsRecord at h ⊢
  rw [e]
  exact h

end Sys2Proof.Machine
end

section
/-! The cold-reset values, and the arrivals and link events of the Pool Link ports (chapter 1, sections 1.2 and 1.3). -/

namespace Sys2Proof.Machine

/-! ### Cold reset -/

theorem State.reset_port (n : NodeId) : State.reset.port n = Port.cold := by simp [State.reset, State.port]

theorem State.reset_node (n : NodeId) : State.reset.node n = NodeRec.cold (n == 0) := by revert n; decide

theorem State.reset_region (r : RegionIdx) : State.reset.region r = Region.cold := by simp [State.reset, State.region]

theorem State.reset_ttSlot (i : TTIdx) : State.reset.ttSlot i = TTSlot.cold := by simp [State.reset, State.ttSlot]

theorem State.reset_wbEntry (w : WBIdx) : State.reset.wbEntry w = none := by simp [State.reset, State.wbEntry]

theorem State.reset_slot (c : CaptureClass) : State.reset.slot c = CaptureSlot.empty := by simp [State.reset, State.slot]

theorem State.reset_mp (p : MPort) : State.reset.mp p = MemPort.cold := by cases p <;> rfl

theorem State.reset_dirSet (k : SetIdx) : State.reset.dirSet k = DirSet.empty := rfl

theorem DirSet.way_empty (w : WayIdx) : DirSet.empty.way w = .empty := by simp [DirSet.way, DirSet.empty]

/-- Settles O4: record by record, the cold values of the reset tables. -/
theorem coldResetValues : Obligations.ColdResetValues := by
  refine ⟨State.reset_port, State.reset_node, State.reset_region, fun k w => ?_, fun k => ?_, State.reset_ttSlot, rfl,
    State.reset_wbEntry, fun p => ?_, rfl, State.reset_slot, rfl, rfl, rfl, rfl, rfl, rfl, rfl⟩
  · rw [State.reset_dirSet, DirSet.way_empty]
  · rw [State.reset_dirSet]; rfl
  · rw [State.reset_mp]
    exact ⟨rfl, fun t => by simp [MemPort.cold], rfl, rfl⟩

/-- Settles O13: at reset every node is OFFLINE with a silent port, every region CLOSED, and every list empty. -/
theorem invariantsHoldAtReset : Obligations.InvariantsHoldAtReset := by
  refine ⟨State.creditsKept_reset, fun r q _ hr => ?_, fun j hj => ?_, ⟨Nat.zero_le _, Nat.zero_le _⟩, rfl, rfl, fun k => ?_⟩
  · rw [State.reset_region] at hr
    exact absurd rfl hr
  · exact absurd hj List.not_mem_nil
  · exact DirSet.Sound.empty k

/-! ### Arrivals (R3, R4, R7) -/

theorem NodeState.counted_iff (x : NodeState) : x.counted = true ↔ x = .active ∨ x = .quiescing := by cases x <;> decide

theorem exec_messageArrival {s : State} (hr : s.running = true) (n : NodeId) (cls : MsgClass) (h : Word) (body : List Word) :
    exec (.messageArrival n cls (h :: body)) s = .next (s.beginStep.arrive n cls ⟨h, body⟩) :=
  run_running (fun s => s.arrive n cls ⟨h, body⟩) s hr

/-- R3: nothing arrives while the link is DOWN. -/
theorem State.arrive_down {s : State} {n : NodeId} (hl : (s.port n).link = .down) (cls : MsgClass) (m : InMsg) :
    s.arrive n cls m = s := by
  unfold State.arrive
  rw [if_pos hl]

/-- R3: a credit takes the message into the inbox of its class. -/
theorem State.arrive_accepted {s : State} {n : NodeId} {cls : MsgClass} (hl : (s.port n).link = .up)
    (hc : (s.node n).state.counted = true) (hk : (s.port n).credits cls ≠ 0) (m : InMsg) :
    s.arrive n cls m = s.modPort n fun p => p.accept cls m := by
  unfold State.arrive
  rcases (NodeState.counted_iff _).mp hc with e | e <;> simp [hl, e, hk]

/-- R4: without a credit the message is captured CREDIT_OVERRUN. -/
theorem State.arrive_overrun {s : State} {n : NodeId} {cls : MsgClass} (hl : (s.port n).link = .up)
    (hc : (s.node n).state.counted = true) (hk : (s.port n).credits cls = 0) (m : InMsg) :
    s.arrive n cls m = s.offer ⟨.creditOverrun, some n, m.block, none, none, none, s.timeBase⟩ := by
  unfold State.arrive
  rcases (NodeState.counted_iff _).mp hc with e | e <;> simp [hl, e, hk, State.stamped]

/-- R7: what arrives for a FENCED node is discarded. -/
theorem State.arrive_fenced {s : State} {n : NodeId} (hf : (s.node n).state = .fenced) (cls : MsgClass) (m : InMsg) :
    s.arrive n cls m = s := by
  unfold State.arrive
  simp [hf]

/-- R7: what arrives for an OFFLINE node is discarded, unless it is a CONTROL request of a manager. -/
theorem State.arrive_offline {s : State} {n : NodeId} {cls : MsgClass} {m : InMsg} (ho : (s.node n).state = .offline)
    (hm : ¬((s.node n).manager = true ∧ cls = .request ∧ m.kind = some .control)) : s.arrive n cls m = s := by
  unfold State.arrive
  simp only [ho, if_neg hm, ite_self]

/-- R7: a CONTROL request of an OFFLINE manager. -/
theorem State.arrive_control {s : State} {n : NodeId} {m : InMsg} (hl : (s.port n).link = .up)
    (ho : (s.node n).state = .offline) (hm : (s.node n).manager = true) (hk : m.kind = some .control) :
    s.arrive n .request m = s.arriveControl n m := by
  unfold State.arrive
  simp [hl, ho, hm, hk]

/-- R2: a well-formed CONTROL, read. -/
theorem InMsg.parse_control {m : InMsg} {cls : MsgClass} (hw : m.wellFormed cls = true) (hk : m.kind = some .control) :
    m.parse cls = .control m.detail (m.body.drop 1) := by
  unfold InMsg.parse
  simp only [hw, if_true, hk]

theorem InMsg.parse_malformed {m : InMsg} {cls : MsgClass} (hw : m.wellFormed cls = false) : m.parse cls = .malformed := by
  unfold InMsg.parse
  simp [hw]

/-- R7: a CONTROL with room in the Control Queue. -/
theorem State.arriveControl_room {s : State} {n : NodeId} {m : InMsg} (hw : m.wellFormed .request = true)
    (hk : m.kind = some .control) (hq : s.controlQ.length < Config.controlCapacity) :
    s.arriveControl n m = { s with controlQ := s.controlQ ++ [⟨n, m.tag, m.detail, m.body.drop 1⟩] } := by
  unfold State.arriveControl
  rw [InMsg.parse_control hw hk]
  exact if_pos hq

/-- R7: a CONTROL that finds the Control Queue full is answered BUSY. -/
theorem State.arriveControl_busy {s : State} {n : NodeId} {m : InMsg} (hw : m.wellFormed .request = true)
    (hk : m.kind = some .control) (hq : Config.controlCapacity ≤ s.controlQ.length) (hn : s.refusalMarks.has n = false) :
    s.arriveControl n m = s.refuse n (.controlReply m.tag .busy []) := by
  unfold State.arriveControl
  rw [InMsg.parse_control hw hk]
  simp [Nat.not_lt.mpr hq, hn]

/-- R7: while a refusal to the node has not gone, the next one counts as an overrun. -/
theorem State.arriveControl_overrun {s : State} {n : NodeId} {m : InMsg} (hw : m.wellFormed .request = true)
    (hk : m.kind = some .control) (hq : Config.controlCapacity ≤ s.controlQ.length) (hn : s.refusalMarks.has n = true) :
    s.arriveControl n m = s.offer { s.stamped .creditOverrun with node := some n } := by
  unfold State.arriveControl
  rw [InMsg.parse_control hw hk]
  simp [Nat.not_lt.mpr hq, hn]

/-- R7: a malformed CONTROL is captured. -/
theorem State.arriveControl_malformed {s : State} {n : NodeId} {m : InMsg} (hw : m.wellFormed .request = false) :
    s.arriveControl n m = s.offer { s.stamped .malformed with node := some n } := by
  unfold State.arriveControl
  rw [InMsg.parse_malformed hw]

/-- Settles O16: with a credit the message is accepted; without one it is offered as a CREDIT_OVERRUN, which leaves the
inboxes, the credits and the nodes alone. -/
theorem arrivalsForCountedNodes : Obligations.ArrivalsForCountedNodes := by
  intro s n h body hr hl hc
  refine ⟨fun hk => ?_, fun hk => ?_, fun cls hk => ?_⟩
  · rw [exec_messageArrival hr, State.arrive_accepted (s := s.beginStep) hl hc (cls := .request) (Nat.one_le_iff_ne_zero.mp hk)]
    rfl
  · rw [exec_messageArrival hr, State.arrive_accepted (s := s.beginStep) hl hc (cls := .ret) (Nat.one_le_iff_ne_zero.mp hk)]
    rfl
  · rw [exec_messageArrival hr, State.arrive_overrun (s := s.beginStep) hl hc hk]
    refine ⟨_, rfl, s.beginStep.offer_holds _, ?_⟩
    generalize (⟨.creditOverrun, some n, InMsg.block ⟨h, body⟩, none, none, none, s.beginStep.timeBase⟩ : CaptureRecord) = r
    have same := s.beginStep.offer_same r
    have quiet := s.beginStep.offer_quiet r
    refine ⟨fun k => ?_, same.controlQ, same.refusalMarks⟩
    obtain ⟨ms, hp⟩ := quiet.port k
    rw [hp]
    exact ⟨same.node k, rfl, rfl, rfl, rfl⟩

/-- Settles O17: case by case; a CONTROL of an OFFLINE manager goes by the room of the Control Queue and the refusal mark. -/
theorem arrivalsForUncountedNodes : Obligations.ArrivalsForUncountedNodes := by
  refine ⟨fun s n cls h body hr hd => ?_, fun s n h body hr hl ho hm hk => ?_⟩
  · rw [exec_messageArrival hr]
    rcases hd with hl | hf | ⟨ho, hm⟩
    · rw [State.arrive_down (s := s.beginStep) hl]
    · rw [State.arrive_fenced (s := s.beginStep) hf]
    · rw [State.arrive_offline (s := s.beginStep) ho hm]
  · rw [exec_messageArrival hr, State.arrive_control (s := s.beginStep) hl ho hm hk]
    refine ⟨fun hw hq => ?_, fun hw hq hn => ?_, fun hw hq hn => ?_, fun hw => ?_⟩
    · rw [State.arriveControl_room (s := s.beginStep) hw hk hq]
      rfl
    · rw [State.arriveControl_busy (s := s.beginStep) hw hk hq hn]
      rfl
    · rw [State.arriveControl_overrun (s := s.beginStep) hw hk hq hn]
      rfl
    · rw [State.arriveControl_malformed hw]
      rfl

/-! ### Link events (R8, R9) -/

theorem exec_linkUp {s : State} (hr : s.running = true) (n : NodeId) : exec (.linkUp n) s = .next
    (if (s.port n).link = .up then s.beginStep else (s.beginStep.modPort n fun p => { p with link := .up }).flushNotices) :=
  run_running (fun s => if (s.port n).link = .up then s else (s.modPort n fun p => { p with link := .up }).flushNotices) s hr

theorem exec_linkDown {s : State} (hr : s.running = true) (n : NodeId) :
    exec (.linkDown n) s = .next (s.beginStep.linkDown n) := run_running (fun s => s.linkDown n) s hr

/-- R9: a link already DOWN. -/
theorem State.linkDown_down {s : State} {n : NodeId} (hl : (s.port n).link = .down) : s.linkDown n = s := by
  unfold State.linkDown
  rw [if_pos hl]

/-- R9: the link of an OFFLINE or FENCED node. -/
theorem State.linkDown_uncounted {s : State} {n : NodeId} (hl : (s.port n).link = .up) (hc : (s.node n).state.counted = false) :
    s.linkDown n = s.modPort n fun p => { p with link := .down } := by
  have e : (s.modPort n fun p => { p with link := .down }).node n = s.node n := rfl
  unfold State.linkDown
  simp [hl, e, hc]

/-- R9, R142: the link of an ACTIVE or QUIESCING node. -/
theorem State.linkDown_counted {s : State} {n : NodeId} (hl : (s.port n).link = .up) (hc : (s.node n).state.counted = true) :
    s.linkDown n = (((s.modPort n fun p => { p with link := .down }).offer
      ⟨.linkLost, some n, none, none, none, none, s.timeBase⟩).fence n .linkLost).settle := by
  have e : (s.modPort n fun p => { p with link := .down }).node n = s.node n := rfl
  unfold State.linkDown
  simp [hl, e, hc, State.stamped]

/-- R142: a node just fenced keeps its record through the bridge's own work, and its port stays silent: its quiesce job has
ended with the fence. -/
theorem Fenced.settle {s t : State} {n : NodeId} {why : FenceReason} (h : Fenced n why s t) :
    t.settle.node n = (s.node n).fence why ∧ (t.settle.port n).requests = [] ∧ (t.settle.port n).returns = [] ∧
      (t.settle.port n).requestCredits = 0 ∧ (t.settle.port n).returnCredits = 0 ∧
      (t.settle.port n).link = (s.port n).link := by
  have calm := Calm.settle t
  have node : t.settle.node n = t.node n := ((Work.settle t).noQuiesce n h.noQuiesce).2
  have link : (t.settle.port n).link = (s.port n).link := by rw [calm.link, h.port]
  refine ⟨node.trans h.node, ?_⟩
  rcases calm.inbox n with ⟨-, h1, h2, h3, h4⟩ | ⟨-, h1, h2, h3, h4⟩
  · rw [h1, h2, h3, h4, h.port]
    exact ⟨rfl, rfl, rfl, rfl, link⟩
  · exact ⟨h1, h2, h3, h4, link⟩

/-- Settles O18: the notices that a link up queues only lengthen Outbound Queues; the fence of a link down is
`Fenced`, and the bridge's own work behind it leaves the fenced node as it is. -/
theorem linkUpAndDown : Obligations.LinkUpAndDown := by
  refine ⟨fun s n hr => ⟨fun hl => ?_, fun hl => ?_⟩, fun s n hr => ⟨fun hl => ?_, fun hl hc => ?_, fun hl hc => ?_⟩⟩
  · rw [exec_linkUp hr, if_pos hl]
  · have ne : (s.port n).link ≠ .up := by rw [hl]; exact nofun
    rw [exec_linkUp hr, if_neg ne]
    refine ⟨rfl, fun t ht k => ?_⟩
    injection ht with ht
    subst ht
    have quiet : Quiet (s.beginStep.modPort n fun p => { p with link := .up }) _ := (Work.flushNotices _).quiet
    obtain ⟨ms, hp⟩ := quiet.port k
    rw [hp, State.node_congr quiet.nodes k, State.modPort_port]
    by_cases e : k = n
    · subst e; simp
    · simp [e]
  · rw [exec_linkDown hr, State.linkDown_down (s := s.beginStep) hl]
  · rw [exec_linkDown hr, State.linkDown_uncounted (s := s.beginStep) hl hc]
  · rw [exec_linkDown hr, State.linkDown_counted (s := s.beginStep) hl hc]
    have record := (s.beginStep.modPort n fun p => { p with link := .down }).offer_holds
      ⟨.linkLost, some n, none, none, none, none, s.timeBase⟩
    have quiet := (s.beginStep.modPort n fun p => { p with link := .down }).offer_quiet
      ⟨.linkLost, some n, none, none, none, none, s.timeBase⟩
    refine ⟨_, rfl, rfl, ?_⟩
    simp only [show s.beginStep.timeBase = s.timeBase from rfl]
    generalize (s.beginStep.modPort n fun p => { p with link := .down }).offer _ = u at record quiet
    have fenced := u.fence_fenced n .linkLost
    obtain ⟨h1, h2, h3, h4, h5, h6⟩ := fenced.settle
    obtain ⟨ms, hp⟩ := quiet.port n
    refine ⟨?_, ?_, h2, h3, h4, h5, ?_⟩
    · rw [h1, State.node_congr quiet.nodes n]; rfl
    · rw [h6, hp]; simp
    · exact ((record.mono fenced.record).mono (Calm.settle _).record).before rfl

end Sys2Proof.Machine
end

section
/-! The names by which the statements read the state (SPEC: the records by number, the sets of nodes, the claims, the
allocator's claimants, the checks of a request in the Region Map). -/

namespace Sys2Proof.Machine

/-! ### Searches in ascending order -/

/-- The first index of an ascending list at which a search answers. -/
theorem findSome?_ascending {n : Nat} {α : Type} {l : List (Fin n)} (hl : l.Pairwise (· < ·)) (f : Fin n → Option α) (x : α) :
    l.findSome? f = some x ↔ ∃ i ∈ l, f i = some x ∧ ∀ j ∈ l, j < i → f j = none := by
  rw [List.findSome?_eq_some_iff]
  constructor
  · rintro ⟨front, i, back, rfl, hi, hf⟩
    obtain ⟨-, hb, hlt⟩ := List.pairwise_append.mp hl
    refine ⟨i, by simp, hi, fun j hj lt => ?_⟩
    rcases List.mem_append.mp hj with h | h
    · exact hf j h
    · rcases List.mem_cons.mp h with rfl | h
      · exact absurd lt (lt_irrefl _)
      · exact absurd lt (lt_asymm ((List.pairwise_cons.mp hb).1 j h))
  · rintro ⟨i, hi, hx, hn⟩
    obtain ⟨front, back, rfl⟩ := List.append_of_mem hi
    obtain ⟨-, -, hlt⟩ := List.pairwise_append.mp hl
    exact ⟨front, i, back, rfl, hx, fun j hj => hn j (List.mem_append_left _ hj) (hlt j hj i (by simp))⟩

/-- The first index of an ascending list that passes a test. -/
theorem find?_ascending {n : Nat} {l : List (Fin n)} (hl : l.Pairwise (· < ·)) (p : Fin n → Bool) (i : Fin n) :
    l.find? p = some i ↔ i ∈ l ∧ p i = true ∧ ∀ j ∈ l, j < i → p j = false := by
  rw [← List.findSome?_guard, findSome?_ascending hl]
  simp only [Option.guard_eq_some_iff, Option.guard_eq_none_iff]
  constructor
  · rintro ⟨j, hj, ⟨rfl, hp⟩, hn⟩
    exact ⟨hj, hp, fun k hk lt => by simpa using hn k hk lt⟩
  · rintro ⟨hi, hp, hn⟩
    exact ⟨i, hi, ⟨rfl, hp⟩, fun k hk lt => by simpa using hn k hk lt⟩

theorem allTT_ascending : allTT.Pairwise (· < ·) := by decide
theorem allNodes_ascending : allNodes.Pairwise (· < ·) := by decide
theorem allWays_ascending : allWays.Pairwise (· < ·) := by decide

theorem mem_allTT (i : TTIdx) : i ∈ allTT := by revert i; decide
theorem mem_allNodes (n : NodeId) : n ∈ allNodes := by revert n; decide

/-! ### Sets of nodes -/

theorem NodeSet.has_only_iff (n m : NodeId) : (NodeSet.only n).has m = true ↔ m = n := by revert n m; decide

theorem NodeSet.has_add_iff (hs : NodeSet) (n m : NodeId) : (NodeSet.add hs n).has m = true ↔ NodeSet.has hs m = true ∨ m = n := by
  rw [← NodeSet.has_only_iff n m]
  simp [NodeSet.has, NodeSet.add]

theorem NodeSet.has_del_iff (hs : NodeSet) (n m : NodeId) : (NodeSet.del hs n).has m = true ↔ NodeSet.has hs m = true ∧ m ≠ n := by
  rw [Ne, ← NodeSet.has_only_iff n m]
  simp [NodeSet.has, NodeSet.del]

/-! ### The Directory -/

theorem DirSet.findHeld_iff (ds : DirSet) (b : Block) (w : WayIdx) (e : DirEntry) : ds.findHeld b = some (w, e) ↔
    ds.way w = .held e ∧ e.block = b ∧ ∀ v, v < w → ∀ f, ds.way v = .held f → f.block ≠ b := by
  have here : ∀ v x, ((ds.way v).entry?.bind fun e => if e.block = b then some (v, e) else none) = some x ↔
      x.1 = v ∧ ds.way v = .held x.2 ∧ x.2.block = b := fun v x => by
    obtain ⟨u, f⟩ := x
    cases hv : ds.way v <;> simp [Way.entry?]
    next g =>
      constructor
      · rintro ⟨h, rfl, rfl⟩; exact ⟨rfl, rfl, h⟩
      · rintro ⟨rfl, rfl, h⟩; exact ⟨h, rfl, rfl⟩
  have absent : ∀ v, ((ds.way v).entry?.bind fun e => if e.block = b then some (v, e) else none) = none ↔
      ∀ f, ds.way v = .held f → f.block ≠ b := fun v => by
    cases hv : ds.way v <;> simp [Way.entry?]
  unfold DirSet.findHeld
  simp only [findSome?_ascending allWays_ascending, here, absent, mem_allWays, true_and, true_implies]
  constructor
  · rintro ⟨_, ⟨rfl, hw, hb⟩, hn⟩
    exact ⟨hw, hb, hn⟩
  · rintro ⟨hw, hb, hn⟩
    exact ⟨w, ⟨rfl, hw, hb⟩, hn⟩

theorem DirSet.findReserved_iff (ds : DirSet) (i : TTIdx) (w : WayIdx) : ds.findReserved i = some w ↔
    (∃ c, ds.way w = .reserved i c) ∧ ∀ v, v < w → ∀ c, ds.way v ≠ .reserved i c := by
  have here : ∀ v, (match ds.way v with | .reserved j _ => j == i | _ => false) = true ↔ ∃ c, ds.way v = .reserved i c := fun v => by
    cases hv : ds.way v <;> simp
  have absent : ∀ v, (match ds.way v with | .reserved j _ => j == i | _ => false) = false ↔ ∀ c, ds.way v ≠ .reserved i c := fun v => by
    rw [← Bool.not_eq_true, here v, not_exists]
  unfold DirSet.findReserved
  rw [find?_ascending allWays_ascending]
  simp only [mem_allWays, true_and, true_implies]
  exact and_congr (here w) (forall_congr' fun v => imp_congr_right fun _ => absent v)

theorem State.dirEntry_iff (s : State) (b : Block) (e : DirEntry) :
    s.dirEntry b = some e ↔ ∃ w, (s.dirSet (setOf b)).findHeld b = some (w, e) := by
  unfold State.dirEntry
  cases (s.dirSet (setOf b)).findHeld b with
  | none => simp
  | some p => obtain ⟨w, f⟩ := p; simp

/-! ### Beats received -/

/-- The four places of a vector, as a list. -/
theorem toList_four {α : Type} (v : Vector α 4) : v.toList = [v[0], v[1], v[2], v[3]] := by
  refine List.ext_getElem (by simp) fun k hk _ => ?_
  have hk : k < 4 := by simpa using hk
  rw [Vector.getElem_toList]
  interval_cases k <;> rfl

theorem gotSet_getLsbD (got : Vector (Option Beat) 4) (k : Fin 4) : (gotSet got).getLsbD k.val = (got[k]).isSome := by
  have bits : ∀ (a b c d : Bool) (k : Fin 4),
      (BitVec.ofNat 4 (a.toNat + 2 * b.toNat + 4 * c.toNat + 8 * d.toNat)).getLsbD k.val = [a, b, c, d][k] := by decide
  unfold gotSet
  rw [bits]
  fin_cases k <;> rfl

theorem gotCount_eq (got : Vector (Option Beat) 4) :
    gotCount got = ([0, 1, 2, 3] : List (Fin 4)).countP fun k => (got[k]).isSome := by
  unfold gotCount
  rw [toList_four]
  rfl

/-! ### Claims (R59) and recall sets (R58) -/

theorem TTEntry.requestedBy_iff (e : TTEntry) (n : NodeId) : e.requestedBy n = true ↔ ∃ tag, e.requester = some (n, tag) := by
  unfold TTEntry.requestedBy
  cases e.requester <;> simp [Prod.ext_iff]

theorem Member.resolved_iff (m : Member) : m.resolved = true ↔ m.resolution ≠ none := Option.isSome_iff_ne_none

theorem Member.resolved_false (m : Member) : m.resolved = false ↔ m.resolution = none := by
  unfold Member.resolved
  cases m.resolution <;> simp

theorem TTEntry.blockOf_victim (e : TTEntry) (b : Block) :
    e.blockOf .victim = some b ↔ ∃ v, e.victim = some v ∧ v.entry.block = b := Option.map_eq_some_iff

theorem TTEntry.claims_primary (e : TTEntry) (b : Block) : e.claims b = some .primary ↔ e.block = b := by
  unfold TTEntry.claims
  by_cases h : e.block = b
  · simp [TTEntry.blockOf, h]
  · by_cases hv : e.blockOf .victim = some b <;> simp_all [TTEntry.blockOf]

theorem TTEntry.claims_victim (e : TTEntry) (b : Block) :
    e.claims b = some .victim ↔ e.block ≠ b ∧ ∃ v, e.victim = some v ∧ v.entry.block = b := by
  rw [← TTEntry.blockOf_victim]
  unfold TTEntry.claims
  by_cases h : e.block = b
  · simp [TTEntry.blockOf, h]
  · by_cases hv : e.blockOf .victim = some b <;> simp_all [TTEntry.blockOf]

theorem State.claimant_iff (s : State) (b : Block) (i : TTIdx) (r : Role) : s.claimant b = some (i, r) ↔
    (∃ e, s.entry i = some e ∧ e.claims b = some r) ∧ ∀ j, j < i → ∀ e, s.entry j = some e → e.claims b = none := by
  unfold State.claimant
  simp only [findSome?_ascending allTT_ascending, mem_allTT, true_and, true_implies, Option.bind_eq_some_iff,
    Option.bind_eq_none_iff, Option.map_eq_some_iff, Option.map_eq_none_iff, Prod.mk.injEq]
  constructor
  · rintro ⟨j, ⟨e, he, x, hx, rfl, rfl⟩, hn⟩
    exact ⟨⟨e, he, hx⟩, hn⟩
  · rintro ⟨⟨e, he, hx⟩, hn⟩
    exact ⟨i, ⟨e, he, r, hx, rfl, rfl⟩, hn⟩

theorem State.claimed_iff (s : State) (b : Block) : s.claimed b = true ↔ ∃ i e r, s.entry i = some e ∧ e.claims b = some r := by
  unfold State.claimed State.claimant
  rw [List.findSome?_isSome_iff]
  simp only [mem_allTT, true_and, Option.isSome_iff_exists, Option.bind_eq_some_iff, Option.map_eq_some_iff]
  constructor
  · rintro ⟨i, -, e, he, r, hr, -⟩
    exact ⟨i, e, r, he, hr⟩
  · rintro ⟨i, e, r, he, hr⟩
    exact ⟨i, _, e, he, r, hr, rfl⟩

theorem TTEntry.openMember_iff (e : TTEntry) (r : Role) (n : NodeId) (m : Member) : e.openMember r n = some m ↔
    ∃ front back, e.recallsOf r = front ++ m :: back ∧ m.node = n ∧ m.resolution = none ∧
      ∀ x ∈ front, ¬(x.node = n ∧ x.resolution = none) := by
  have test : ∀ x : Member, (x.node == n && !x.resolved) = true ↔ x.node = n ∧ x.resolution = none := fun x => by
    rw [← Member.resolved_false]
    simp
  have other : ∀ x : Member, (!(x.node == n && !x.resolved)) = true ↔ ¬(x.node = n ∧ x.resolution = none) := fun x => by
    rw [← test x, Bool.not_eq_true', Bool.not_eq_true]
  unfold TTEntry.openMember
  simp only [List.find?_eq_some_iff_append, test, other]
  constructor
  · rintro ⟨⟨hn, hr⟩, front, back, h, hf⟩
    exact ⟨front, back, h, hn, hr, hf⟩
  · rintro ⟨front, back, h, hn, hr, hf⟩
    exact ⟨⟨hn, hr⟩, front, back, h, hf⟩

theorem State.memberOf_iff (s : State) (n : NodeId) (b : Block) (i : TTIdx) (r : Role) (e : TTEntry) (m : Member) :
    s.memberOf n b = some (i, r, e, m) ↔ s.claimant b = some (i, r) ∧ s.entry i = some e ∧ e.openMember r n = some m := by
  unfold State.memberOf
  cases s.claimant b with
  | none => simp
  | some p =>
    obtain ⟨j, x⟩ := p
    simp only [Option.bind_eq_some_iff, Option.map_eq_some_iff, Option.some.injEq, Prod.mk.injEq]
    constructor
    · rintro ⟨f, hf, y, hy, rfl, rfl, rfl, rfl⟩
      exact ⟨⟨rfl, rfl⟩, hf, hy⟩
    · rintro ⟨⟨rfl, rfl⟩, hf, hy⟩
      exact ⟨e, hf, m, hy, rfl, rfl, rfl, rfl⟩

/-! ### Free entries, and the claimants of the allocator (R60) -/

theorem State.freeTT_iff (s : State) (i : TTIdx) : s.freeTT = some i ↔ s.entry i = none ∧ ∀ j, j < i → s.entry j ≠ none := by
  unfold State.freeTT
  rw [find?_ascending allTT_ascending]
  simp [mem_allTT, Option.isSome_iff_ne_none]

theorem State.freeTT_isSome (s : State) : s.freeTT.isSome = true ↔ ∃ i, s.entry i = none := by
  unfold State.freeTT
  simp [mem_allTT]

theorem State.freeWB_iff (s : State) (w : WBIdx) : s.freeWB = some w ↔ s.wbEntry w = none ∧ ∀ v, v < w → s.wbEntry v ≠ none := by
  unfold State.freeWB
  rw [find?_ascending allNodes_ascending]
  simp [mem_allNodes, Option.isSome_iff_ne_none]

theorem State.freeWB_isSome (s : State) : s.freeWB.isSome = true ↔ ∃ w, s.wbEntry w = none := by
  unfold State.freeWB
  simp [mem_allNodes]

theorem Job.running_iff (j : Job) : j.running = true ↔ j.phase = .draining ∨ ∃ w, j.phase = .walking w := by
  unfold Job.running
  cases j.phase <;> simp

theorem State.runningJob_iff (s : State) (j : Job) : s.runningJob = some j ↔
    ∃ front back, s.jobs = front ++ j :: back ∧ (j.phase = .draining ∨ ∃ w, j.phase = .walking w) ∧
      ∀ x ∈ front, x.phase ≠ .draining ∧ ∀ w, x.phase ≠ .walking w := by
  have idle : ∀ x : Job, (!x.running) = true ↔ x.phase ≠ .draining ∧ ∀ w, x.phase ≠ .walking w := fun x => by
    rw [Bool.not_eq_true', ← Bool.not_eq_true, Job.running_iff]
    simp
  unfold State.runningJob
  simp only [List.find?_eq_some_iff_append, Job.running_iff, idle]
  constructor
  · rintro ⟨hj, front, back, h, hf⟩
    exact ⟨front, back, h, hj, hf⟩
  · rintro ⟨front, back, h, hj, hf⟩
    exact ⟨hj, front, back, h, hf⟩

theorem State.sweepClaim_iff (s : State) (k : JobKind) (w : Walk) :
    s.sweepClaim = some (k, w) ↔ s.runningJob = some ⟨k, .walking w⟩ ∧ w.wants = true := by
  unfold State.sweepClaim
  cases s.runningJob with
  | none => simp
  | some j =>
    obtain ⟨x, p⟩ := j
    cases p <;> simp
    next v =>
      constructor
      · rintro ⟨h, rfl, rfl⟩; exact ⟨⟨rfl, rfl⟩, h⟩
      · rintro ⟨⟨rfl, rfl⟩, h⟩; exact ⟨h, rfl, rfl⟩

theorem State.agentClaim_iff (s : State) (c : ReclaimCmd) : s.agentClaim = some c ↔ s.agent = .waiting c ∧ s.claimed c.block = false := by
  unfold State.agentClaim
  cases s.agent <;> simp
  next x =>
    constructor
    · rintro ⟨h, rfl⟩; exact ⟨rfl, h⟩
    · rintro ⟨rfl, h⟩; exact ⟨h, rfl⟩

/-! ### The checks of a request in the Region Map (R17) -/

theorem State.regionCheck_noRegion {s : State} {b : Block} (n : NodeId) (k : ReqKind) (h : s.mapLookup b = .noRegion) :
    s.regionCheck n k b = .fail .noRegion := by
  unfold State.regionCheck
  rw [h]

theorem State.regionCheck_closedRegion {s : State} {b : Block} {r : RegionIdx} (n : NodeId) (k : ReqKind)
    (h : s.mapLookup b = .closedRegion r) : s.regionCheck n k b = .fail .regionClosed := by
  unfold State.regionCheck
  rw [h]

theorem State.regionCheck_closing {s : State} {b : Block} {l : Loc} (n : NodeId) (k : ReqKind)
    (h : s.mapLookup b = .region l .closing) : s.regionCheck n k b = .fail .regionClosed := by
  unfold State.regionCheck
  rw [h]

/-- R17: an UNTRACKED region refuses the coherent kinds. -/
theorem State.regionCheck_notTracked {s : State} {b : Block} {l : Loc} (n : NodeId) {k : ReqKind}
    (h : s.mapLookup b = .region l .untracked) (hk : k = .fetchS ∨ k = .fetchX ∨ k = .upgrade) :
    s.regionCheck n k b = .fail .notTracked := by
  unfold State.regionCheck
  rw [h]
  rcases hk with rfl | rfl | rfl <;> rfl

/-- R17: the sets of a region that admits the kind decide. -/
theorem State.regionCheck_sets {s : State} {b : Block} {l : Loc} {st : RegionState} (n : NodeId) {k : ReqKind}
    (h : s.mapLookup b = .region l st) (hk : st = .coherent ∨ st = .untracked ∧ (k = .readOnce ∨ k = .writeThru)) :
    s.regionCheck n k b = if NodeSet.has (if k = .fetchS ∨ k = .readOnce then (s.region l.region).readSet
      else (s.region l.region).writeSet) n = true then .pass l else .fail .notPermitted := by
  unfold State.regionCheck
  rw [h]
  rcases hk with rfl | ⟨rfl, rfl | rfl⟩
  · cases k <;> rfl
  · rfl
  · rfl

/-! ### The statement -/

theorem ControlReq.arg_of_getElem? {c : ControlReq} {k : Nat} {w : Word} (h : c.args[k]? = some w) : c.arg k = w := by
  simp [ControlReq.arg, h]

theorem ControlReq.index_eq (c : ControlReq) : c.index = (c.arg 0).toNat % 256 := by
  simp [ControlReq.index, field_toNat]

theorem ControlReq.mode_eq (c : ControlReq) : c.mode = (c.arg 0).toNat / 256 % 16 := field_toNat _ _ _

theorem TTEntry.ownerOf_primary (e : TTEntry) (o : NodeId) :
    e.ownerOf .primary = some o ↔ ∃ w d, e.lookup = some (.held w d) ∧ d.rights = .owned o := by
  unfold TTEntry.ownerOf TTEntry.recorded
  cases e.lookup with
  | none => simp
  | some x =>
    cases x <;> simp
    next w d => cases d.rights <;> simp [Rights.owner]

theorem Rights.owner_iff (r : Rights) (o : NodeId) : r.owner = some o ↔ r = .owned o := by cases r <;> simp [Rights.owner]

theorem MemPort.writeOf_iff (p : MemPort) (o : OpOwner) (w : WriteRec) : p.writeOf o = some w ↔
    ∃ front back, p.writes = front ++ w :: back ∧ w.owner = o ∧ ∀ x ∈ front, x.owner ≠ o := by
  unfold MemPort.writeOf
  simp only [List.find?_eq_some_iff_append, beq_iff_eq, Bool.not_eq_true', beq_eq_false_iff_ne]
  constructor
  · rintro ⟨hw, front, back, h, hf⟩
    exact ⟨front, back, h, hw, hf⟩
  · rintro ⟨front, back, h, hw, hf⟩
    exact ⟨hw, front, back, h, hf⟩

/-- Settles O48: name by name. -/
theorem namesOfTheState : Obligations.NamesOfTheState := by
  refine ⟨fun c => ⟨fun k w => ControlReq.arg_of_getElem?, c.index_eq, c.mode_eq⟩, ⟨rfl, rfl⟩,
    fun s n r i w => ⟨rfl, rfl, rfl, rfl, rfl, rfl, rfl, rfl, rfl, rfl, rfl⟩, NodeState.counted_iff,
    fun s => by simp [State.running],
    fun hs n m => ⟨rfl, NodeSet.has_add_iff hs n m, NodeSet.has_del_iff hs n m, NodeSet.has_only_iff n m⟩,
    ⟨rfl, fun o hs => ⟨rfl, rfl, rfl, rfl⟩⟩, fun x b => by simp [Region.contains],
    fun ds b i w e => ⟨rfl, rfl, ds.findHeld_iff b w e, ds.findReserved_iff i w⟩, State.dirEntry_iff,
    fun p a o => ⟨rfl, rfl, p.writeOf_iff o⟩, fun got => ⟨gotSet_getLsbD got, gotCount_eq got⟩, fun i r g => ⟨rfl, rfl⟩,
    fun e n m => ⟨e.requestedBy_iff n, m.resolved_iff⟩, fun e b => ⟨e.claims_primary b, e.claims_victim b⟩,
    State.claimant_iff, State.claimed_iff, fun e v => ⟨rfl, rfl, rfl, rfl, beq_iff_eq, e.ownerOf_primary, fun h => ?_⟩,
    TTEntry.openMember_iff, State.memberOf_iff, State.freeTT_iff, State.freeWB_iff, State.sweepClaim_iff, State.agentClaim_iff,
    State.runningJob_iff, State.reachable_iff, fun s d => decide_eq_true_iff, fun s i r g => ⟨rfl, rfl, rfl, rfl⟩,
    fun s n k b => ⟨State.regionCheck_noRegion n k, fun r => State.regionCheck_closedRegion n k,
      fun l => State.regionCheck_closing n k, fun l => State.regionCheck_notTracked n, fun l st => State.regionCheck_sets n⟩⟩
  simp only [TTEntry.recallsOf, TTEntry.bufferOf, TTEntry.locOf, TTEntry.blockOf, TTEntry.repairs, TTEntry.ownerOf,
    TTEntry.recorded, h, Option.map_some, Option.getD_some, Option.bind_some, true_and]
  exact fun o => Rights.owner_iff _ o

end Sys2Proof.Machine
end

section
/-! What goes on inside a step: the order of the bridge's own actions, and what they leave standing (file 95). -/

namespace Sys2Proof.Machine

/-! ### The order of the actions -/

theorem settleWith_of_none {s : State} (h : s.act = none) (n : Nat) : settleWith (n + 1) s = s := by
  unfold settleWith
  rw [h]

theorem settleWith_of_some {s t : State} (h : s.act = some t) (n : Nat) : settleWith (n + 1) s = settleWith n t := by
  rw [settleWith, h]

theorem State.settle_of_none {s : State} (h : s.act = none) : s.settle = s := settleWith_of_none h 262143

theorem State.act_of_sweep {s t : State} (h : s.sweepStep = some t) : s.act = some t := by
  unfold State.act
  rw [h]
  rfl

theorem State.act_of_alloc {s t : State} (h1 : s.sweepStep = none) (h2 : s.allocStep = some t) : s.act = some t := by
  unfold State.act
  rw [h1, h2]
  rfl

theorem State.act_of_idle {s : State} (h1 : s.sweepStep = none) (h2 : s.allocStep = none) : s.act = s.entryAct := by
  unfold State.act
  rw [h1, h2]
  rfl

/-- The first entry of the step's order that can act. -/
theorem State.entryAct_first {s t : State} {front back : List TTIdx} {i : TTIdx} (ho : s.now.order ++ allTT = front ++ i :: back)
    (hf : ∀ j ∈ front, s.entryStep j = none) (hi : s.entryStep i = some t) : s.entryAct = some t :=
  List.findSome?_eq_some_iff.mpr ⟨front, i, back, ho, hi, hf⟩

theorem State.entryAct_none {s : State} (h : ∀ i, s.entryStep i = none) : s.entryAct = none :=
  List.findSome?_eq_none_iff.mpr fun i _ => h i

/-! ### What the bridge's own work leaves standing -/

/-- A node and the inboxes and credits of its port, after the bridge's own work: as they were, or those of a completed
quiesce (R140). -/
theorem Calm.node_inbox {s t : State} (h : Calm s t) (n : NodeId) :
    t.node n = s.node n ∧ (t.port n).requests = (s.port n).requests ∧ (t.port n).returns = (s.port n).returns ∧
        (t.port n).requestCredits = (s.port n).requestCredits ∧ (t.port n).returnCredits = (s.port n).returnCredits ∨
      t.node n = { s.node n with state := .offline } ∧ (t.port n).requests = [] ∧ (t.port n).returns = [] ∧
        (t.port n).requestCredits = 0 ∧ (t.port n).returnCredits = 0 := by
  have rest := h.node n
  rcases h.inbox n with ⟨e, k⟩ | ⟨e, k⟩
  · exact .inl ⟨by rw [← rest, ← e], k⟩
  · exact .inr ⟨by rw [← rest, ← e], k⟩

/-- The inboxes and credits of a node that has stayed as it was, ACTIVE or QUIESCING. -/
theorem Calm.inbox_counted {s t : State} (h : Calm s t) {n : NodeId} (hc : (t.node n).state.counted = true) :
    (t.port n).requests = (s.port n).requests ∧ (t.port n).returns = (s.port n).returns ∧
      (t.port n).requestCredits = (s.port n).requestCredits ∧ (t.port n).returnCredits = (s.port n).returnCredits := by
  rcases h.inbox n with ⟨-, k⟩ | ⟨e, -⟩
  · exact k
  · rw [e] at hc
    cases hc

/-- Settles O14: the order of the actions by the three cases of `State.act`, and what they leave standing from `Calm`. -/
theorem settleActsAndLeaves : Obligations.SettleActsAndLeaves := by
  refine ⟨fun s => ⟨rfl, State.settle_of_none, rfl, fun n => ⟨fun h => settleWith_of_none h n, fun _ h => settleWith_of_some h n⟩⟩,
    fun s => ⟨fun t => State.act_of_sweep, fun t => State.act_of_alloc, fun front i back t h1 h2 ho hf hi => ?_, fun h1 h2 hn => ?_⟩,
    ⟨mem_allTT, allTT_ascending⟩, fun s => ?_⟩
  · rw [State.act_of_idle h1 h2, State.entryAct_first ho hf hi]
  · rw [State.act_of_idle h1 h2, State.entryAct_none hn]
  · have c := Calm.settle s
    exact ⟨⟨c.pending, c.inputs, c.out⟩,
      ⟨c.timeBase, c.noticeNode, c.intakePos, c.refusalMarks, c.controlQ, c.wb⟩, ⟨c.resetAsserted, c.powerGood⟩,
      fun n => ⟨c.link n, c.outbound n⟩, c.node_inbox, c.region, c.record, fun p => ⟨c.tags p, c.timeout p, c.issueQ p⟩,
      c.hold, c.jobKinds, c.agent⟩

/-! ### Effects that only lengthen the Outbound Queues -/

/-- An effect that drives nothing on the links, of each port only lengthens the Outbound Queue, and keeps the locked
records, the time base and the intake's position. -/
structure Gentle (s t : State) : Prop where
  out : t.out = s.out
  intakePos : t.intakePos = s.intakePos
  timeBase : t.timeBase = s.timeBase
  port : ∀ n, ∃ ms, t.port n = (s.port n).send ms
  record : ∀ c r, (s.slot c).record = some r → (t.slot c).record = some r

namespace Gentle

theorem refl (s : State) : Gentle s s := ⟨rfl, rfl, rfl, fun _ => ⟨[], (Port.send_nil _).symm⟩, fun _ _ h => h⟩

theorem trans {s t u : State} (h : Gentle s t) (k : Gentle t u) : Gentle s u := by
  refine ⟨k.out.trans h.out, k.intakePos.trans h.intakePos, k.timeBase.trans h.timeBase, fun n => ?_,
    fun c r x => k.record c r (h.record c r x)⟩
  obtain ⟨a, ha⟩ := h.port n
  obtain ⟨b, hb⟩ := k.port n
  exact ⟨a ++ b, by rw [hb, ha, Port.send_send]⟩

/-- The bridge's own work, the Sweep Engine's jobs apart. -/
theorem work {s t : State} (h : Work False s t) : Gentle s t :=
  have c := Calm.of_work h
  ⟨c.out, c.intakePos, c.timeBase, h.quiet.port, c.record⟩

/-- An effect on other fields. -/
theorem aside {s t : State} (h1 : t.out = s.out) (h2 : t.intakePos = s.intakePos) (h3 : t.timeBase = s.timeBase)
    (h4 : t.ports = s.ports) (h5 : t.slots = s.slots) : Gentle s t :=
  ⟨h1, h2, h3, fun n => ⟨[], by rw [State.port_congr h4 n, Port.send_nil]⟩, fun c r h => by rw [State.slot_congr h5]; exact h⟩

theorem offer (s : State) (r : CaptureRecord) : Gentle s (s.offer r) := work (.offer s r)
theorem enqueue (s : State) (n : NodeId) (p : Producer) (m : Msg) : Gentle s (s.enqueue n p m) := work (.enqueue s n p m)
theorem modEntry (s : State) (i : TTIdx) (f : TTEntry → TTEntry) : Gentle s (s.modEntry i f) := work (.modEntry s i f)
theorem removeHolder (s : State) (n : NodeId) (b : Block) : Gentle s (s.removeHolder n b) := work (.removeHolder s n b)
theorem setWB (s : State) (w : WBIdx) (o : Option WBEntry) : Gentle s (s.setWB w o) := aside rfl rfl rfl rfl rfl

theorem modMP (s : State) (p : MPort) (f : MemPort → MemPort) : Gentle s (s.modMP p f) := by
  cases p <;> exact aside rfl rfl rfl rfl rfl

theorem refuse (s : State) (n : NodeId) (m : Msg) : Gentle s (s.refuse n m) :=
  (enqueue s n .intake m).trans (aside rfl rfl rfl rfl rfl)

end Gentle

end Sys2Proof.Machine
end

section
/-! The Request Intake: the form of a message, the checks, and the take (chapter 1, sections 1.1 and 1.5). -/

namespace Sys2Proof.Machine

/-! ### Malformed messages (R2, R189) -/

/-- The two high bits of the block field are clear. -/
theorem field_26_2 (h : Word) : field h 26 2 = 0#2 ↔ h.getLsbD 26 = false ∧ h.getLsbD 27 = false := by
  constructor
  · intro e
    have bit : ∀ k : Nat, (field h 26 2).getLsbD k = false := fun k => by rw [e]; simp
    have b0 := bit 0
    have b1 := bit 1
    simp only [field, BitVec.getLsbD_extractLsb'] at b0 b1
    exact ⟨by simpa using b0, by simpa using b1⟩
  · rintro ⟨h0, h1⟩
    refine BitVec.eq_of_getLsbD_eq fun k hk => ?_
    simp only [field, BitVec.getLsbD_extractLsb']
    interval_cases k
    · simpa using h0
    · simpa using h1

/-- A word above a word is zero when both are. -/
theorem append_words_eq_zero (x y : Word) : x ++ y = 0#64 ↔ y = 0#32 ∧ x = 0#32 := by
  constructor
  · intro e
    have bit : ∀ k, (x ++ y).getLsbD k = false := fun k => by rw [e]; simp
    refine ⟨BitVec.eq_of_getLsbD_eq fun k hk => ?_, BitVec.eq_of_getLsbD_eq fun k hk => ?_⟩
    · have := bit k
      rw [BitVec.getLsbD_append, if_pos hk] at this
      simpa using this
    · have := bit (32 + k)
      rw [BitVec.getLsbD_append, if_neg (by omega), Nat.add_sub_cancel_left] at this
      simpa using this
  · rintro ⟨rfl, rfl⟩
    rfl

/-- The length that each kind's message has (12 section 12.1). -/
theorem InMsg.wellFormed_iff {m : InMsg} {k : InKind} (hk : m.kind = some k) (cls : MsgClass) : m.wellFormed cls = true ↔
    k.cls = cls ∧ (k ≠ .control → m.header.getLsbD 26 = false ∧ m.header.getLsbD 27 = false) ∧
      m.length = m.expectedLength k ∧ (k = .req .writeThru → ¬(m.word 2 = 0#32 ∧ m.word 3 = 0#32)) ∧
      (k = .control → m.count ≤ 6) ∧ (k = .recallAck → m.qualifier ≤ 2) := by
  have block : (!k.hasBlock) = true ↔ k = .control := by cases k <;> simp [InKind.hasBlock]
  unfold InMsg.wellFormed
  rw [hk]
  simp only [Bool.and_eq_true, Bool.or_eq_true, beq_iff_eq, bne_iff_ne, decide_eq_true_eq, block, field_26_2, InMsg.mask,
    append_words_eq_zero, Ne, and_assoc, imp_iff_not_or, not_not]

theorem InMsg.not_wellFormed_of_kind_none {m : InMsg} (hk : m.kind = none) (cls : MsgClass) : m.wellFormed cls = false := by
  unfold InMsg.wellFormed
  rw [hk]

/-- Settles O22: kind by kind, the negation of `InMsg.wellFormed_iff`. -/
theorem malformedExactlyWhen : Obligations.MalformedExactlyWhen := by
  refine ⟨fun k => ?_, fun m cls => ?_⟩
  · cases k <;> simp [InKind.cls]
  · cases hk : m.kind with
    | none => simp [InMsg.not_wellFormed_of_kind_none hk]
    | some k =>
      rw [← Bool.not_eq_true, InMsg.wellFormed_iff hk cls]
      by_cases hc : k.cls = cls
      · cases k with
        | req x => cases x <;> simp [hc, InMsg.expectedLength, imp_iff_not_or]
        | control => simp [hc, InMsg.expectedLength, imp_iff_not_or]; tauto
        | writeback => simp [hc, InMsg.expectedLength, imp_iff_not_or]
        | evictClean => simp [hc, InMsg.expectedLength, imp_iff_not_or]
        | recallAck =>
          by_cases hq : m.qualifier = 0
          · simp [hc, InMsg.expectedLength, imp_iff_not_or, hq]
          · simp [hc, InMsg.expectedLength, imp_iff_not_or, hq]; tauto
      · simp [hc]


/-! ### Eligible heads (R13, R60) -/

theorem State.claimantPresent_false (s : State) : s.claimantPresent = false ↔
    (∀ h ∈ s.hold, h.ready = false) ∧ s.sweepClaim = none ∧ s.agentClaim = none := by
  simp [State.claimantPresent, and_assoc]

/-- R13: when an outcome has somewhere to go. -/
theorem State.hasRoom_iff (s : State) (o : IntakeOutcome) : s.hasRoom o = true ↔
    (∃ b r, o = .refuse b r) ∨ (∃ c, o = .control c ∧ s.controlQ.length < 4) ∨
      (∃ q x, o = .hold q x ∧ s.hold.length < 32) ∨
      (∃ q l, o = .dispatch q l ∧ (∃ i, s.entry i = none) ∧ (∀ h ∈ s.hold, h.ready = false) ∧
        s.sweepClaim = none ∧ s.agentClaim = none) := by
  cases o with
  | refuse b r => simp [State.hasRoom]
  | control c =>
    have room : s.hasRoom (.control c) = true ↔ s.controlQ.length < 4 := decide_eq_true_iff
    simp [room]
  | hold q x =>
    have room : s.hasRoom (.hold q x) = true ↔ s.hold.length < 32 := decide_eq_true_iff
    simp [room]
  | dispatch q l =>
    have room : s.hasRoom (.dispatch q l) = true ↔ s.freeTT.isSome = true ∧ s.claimantPresent = false := by
      simp [State.hasRoom]
    rw [room, State.freeTT_isSome, State.claimantPresent_false]
    simp

/-- R13: the head of an eligible port. -/
theorem State.eligibleHead_iff (s : State) (n : NodeId) (m : InMsg) : s.eligibleHead n = some m ↔
    ∃ rest, (s.port n).requests = m :: rest ∧ s.refusalMarks.has n = false ∧ s.hasRoom (s.intakeOutcome n m) = true := by
  unfold State.eligibleHead
  cases (s.port n).requests with
  | nil => simp
  | cons x rest =>
    simp only [Option.ite_none_right_eq_some, Bool.and_eq_true, Bool.not_eq_true', Option.some.injEq, List.cons.injEq]
    constructor
    · rintro ⟨⟨hm, hr⟩, rfl⟩
      exact ⟨rest, ⟨rfl, rfl⟩, hm, hr⟩
    · rintro ⟨_, ⟨rfl, -⟩, hm, hr⟩
      exact ⟨⟨hm, hr⟩, rfl⟩

/-- Settles O24: the head of the inbox, the refusal mark, and the room for the outcome. -/
theorem eligibleHeads : Obligations.EligibleHeads := fun s n m => by
  rw [State.eligibleHead_iff]
  simp only [State.hasRoom_iff]

/-! ### The checks (R14 to R18) -/

/-- A well-formed request, read. -/
theorem InMsg.parse_req {m : InMsg} {cls : MsgClass} {k : ReqKind} (hw : m.wellFormed cls = true) (hk : m.kind = some (.req k)) :
    m.parse cls = .req k (m.block.getD 0#34) (if k = .writeThru then some ⟨m.mask, m.beatsAt 4⟩ else none) := by
  unfold InMsg.parse
  cases k <;> simp [hw, hk]

/-- What a well-formed message of the Request class is. -/
theorem InMsg.request_kind {m : InMsg} (hw : m.wellFormed .request = true) : m.kind = some .control ∨ ∃ k, m.kind = some (.req k) := by
  cases hk : m.kind with
  | none => rw [InMsg.not_wellFormed_of_kind_none hk] at hw; cases hw
  | some k =>
    obtain ⟨hc, -⟩ := (InMsg.wellFormed_iff hk .request).mp hw
    cases k <;> simp_all [InKind.cls]

/-- R14: a malformed head. -/
theorem State.intakeOutcome_malformed {s : State} {n : NodeId} {m : InMsg} (hw : m.wellFormed .request = false) :
    s.intakeOutcome n m = .refuse (m.block.getD 0#34) (if (s.node n).state = .quiescing then .nodeLeaving else .malformed) := by
  unfold State.intakeOutcome
  rw [InMsg.parse_malformed hw]

/-- R16: a CONTROL. -/
theorem State.intakeOutcome_control {s : State} {n : NodeId} {m : InMsg} (hw : m.wellFormed .request = true)
    (hk : m.kind = some .control) : s.intakeOutcome n m =
      if (s.node n).manager = true then .control ⟨n, m.tag, m.detail, m.body.drop 1⟩ else .refuse 0#34 .notManager := by
  unfold State.intakeOutcome
  rw [InMsg.parse_control hw hk]

/-- R15: a request of a QUIESCING node. -/
theorem State.intakeOutcome_leaving {s : State} {n : NodeId} {m : InMsg} {k : ReqKind} (hq : (s.node n).state = .quiescing)
    (hw : m.wellFormed .request = true) (hk : m.kind = some (.req k)) :
    s.intakeOutcome n m = .refuse (m.block.getD 0#34) .nodeLeaving := by
  unfold State.intakeOutcome
  rw [InMsg.parse_req hw hk]
  exact if_pos hq

/-- R17, R18: a request goes by the checks of its region, and then by the state of its block. -/
theorem State.intakeOutcome_request {s : State} {n : NodeId} {m : InMsg} {k : ReqKind} {b : Block}
    (hq : (s.node n).state ≠ .quiescing) (hw : m.wellFormed .request = true) (hk : m.kind = some (.req k)) (hb : m.block = some b) :
    s.intakeOutcome n m = match s.regionCheck n k b with
      | .fail r => .refuse b r
      | .pass l => s.dispatchOutcome ⟨n, m.tag, k, b, if k = .writeThru then some ⟨m.mask, m.beatsAt 4⟩ else none⟩ l := by
  unfold State.intakeOutcome
  rw [InMsg.parse_req hw hk, hb, Option.getD_some]
  refine (if_neg hq).trans ?_
  cases s.regionCheck n k b <;> rfl

theorem State.dispatchOutcome_claimed {s : State} {q : Request} (l : Loc) (h : s.claimed q.block = true) :
    s.dispatchOutcome q l = .hold q false := by
  unfold State.dispatchOutcome
  rw [if_pos h]

theorem State.dispatchOutcome_held {s : State} {q : Request} (l : Loc) (h : s.claimed q.block = false)
    (hh : ∃ x ∈ s.hold, x.req.block = q.block) : s.dispatchOutcome q l = .hold q true := by
  unfold State.dispatchOutcome
  simp [h, hh]

theorem State.dispatchOutcome_free {s : State} {q : Request} (l : Loc) (h : s.claimed q.block = false)
    (hh : ∀ x ∈ s.hold, x.req.block ≠ q.block) : s.dispatchOutcome q l = .dispatch q l := by
  unfold State.dispatchOutcome
  rw [h, if_neg Bool.false_ne_true, if_neg]
  simpa using hh

/-- R17: the set of a region that governs a kind. -/
theorem ReqKind.governs (k : ReqKind) (readSet writeSet : NodeSet) (n : NodeId) (x : Bool) :
    ((k = .fetchS ∨ k = .readOnce) ∧ readSet.has n = x ∨ (k = .fetchX ∨ k = .upgrade ∨ k = .writeThru) ∧ writeSet.has n = x) ↔
      NodeSet.has (if k = .fetchS ∨ k = .readOnce then readSet else writeSet) n = x := by
  cases k <;> simp

/-- Settles O25: check by check, from the equations of the outcome. -/
theorem intakeChecks : Obligations.IntakeChecks := by
  intro s n m
  refine ⟨fun hq hn => ?_, fun hq hw => ?_, fun hw hk hm => ?_, fun hw hk hm => ?_, fun k b hq hw hk hb => ?_⟩
  · cases hw : m.wellFormed .request with
    | false => rw [State.intakeOutcome_malformed hw, if_pos hq]
    | true =>
      obtain ⟨k, hk⟩ := (InMsg.request_kind hw).resolve_left fun hk => hn ⟨hw, hk⟩
      exact State.intakeOutcome_leaving hq hw hk
  · rw [State.intakeOutcome_malformed hw, if_neg hq]
  · rw [State.intakeOutcome_control hw hk, if_pos hm]
  · rw [State.intakeOutcome_control hw hk, hm, if_neg Bool.false_ne_true]
  · have request := State.intakeOutcome_request hq hw hk hb
    refine ⟨fun h => ?_, fun r h => ?_, fun l h => ?_, fun l h hc => ?_, fun l st h ha => ?_⟩
    · rw [request, State.regionCheck_noRegion n k h]
    · rw [request, State.regionCheck_closedRegion n k h]
    · rw [request, State.regionCheck_closing n k h]
    · rw [request, State.regionCheck_notTracked n h hc]
    · have sets := State.regionCheck_sets n h ha
      rw [ReqKind.governs, ReqKind.governs]
      refine ⟨fun hs => ?_, fun hs => ?_⟩
      · rw [request, sets, hs, if_neg Bool.false_ne_true]
      · rw [request, sets, if_pos hs]
        rintro q rfl
        exact ⟨fun hc => State.dispatchOutcome_claimed l hc, fun hc hh => State.dispatchOutcome_held l hc hh,
          fun hc hh => State.dispatchOutcome_free l hc hh⟩

end Sys2Proof.Machine
end

section
/-! The takes of the Request Intake and of the Return Handler (chapter 1, section 1.5; chapter 6, section 6.1). -/

namespace Sys2Proof.Machine

/-! ### A head taken (R5) -/

theorem State.takeHead_port (s : State) (n k : NodeId) (cls : MsgClass) :
    (s.takeHead n cls).port k = if k = n then (s.port n).taken cls else s.port k := State.modPort_port s n k fun p => p.taken cls

theorem Port.taken_outbound (p : Port) (cls : MsgClass) : (p.taken cls).outbound = p.outbound := by cases cls <;> rfl

/-- A head taken keeps every Outbound Queue. -/
theorem State.takeHead_outbound (s : State) (n k : NodeId) (cls : MsgClass) :
    ((s.takeHead n cls).port k).outbound = (s.port k).outbound := by
  rw [State.takeHead_port]
  split
  · next e => rw [e, Port.taken_outbound]
  · rfl

/-! ### Messages queued, as the statements speak of them -/

/-- A message queued stays queued as the Outbound Queue grows. -/
theorem State.Queued.mono {s t u : State} {n : NodeId} {m : OutMsg} (h : s.Queued t n m)
    (k : ∃ ms, (u.port n).outbound = (t.port n).outbound ++ ms) : s.Queued u n m := by
  obtain ⟨a, ha⟩ := h
  obtain ⟨b, hb⟩ := k
  exact ⟨a ++ b, by rw [hb, ha]; simp⟩

theorem State.Queued.before {s s' t : State} {n : NodeId} {m : OutMsg} (h : s.Queued t n m)
    (e : (s'.port n).outbound = (s.port n).outbound) : s'.Queued t n m := by
  obtain ⟨a, ha⟩ := h
  exact ⟨a, by rw [ha, e]⟩

theorem State.enqueue_queued (s : State) (n : NodeId) (p : Producer) (m : Msg) : s.Queued (s.enqueue n p m) n ⟨m, p⟩ :=
  ⟨[], by rw [State.enqueue_port, if_pos rfl]⟩

theorem Gentle.outbound {s t : State} (h : Gentle s t) (n : NodeId) : ∃ ms, (t.port n).outbound = (s.port n).outbound ++ ms := by
  obtain ⟨ms, hp⟩ := h.port n
  exact ⟨ms, by rw [hp]; rfl⟩

/-! ### The intake's round (R13) -/

/-- A search through the first numbers, up to the first that answers. -/
theorem findSome?_range {α : Type} {f : Nat → Option α} {n k : Nat} {x : α} (hk : k < n) (hx : f k = some x)
    (hn : ∀ j, j < k → f j = none) : (List.range n).findSome? f = some x := by
  induction n with
  | zero => omega
  | succ n ih =>
    rw [List.range_succ, List.findSome?_append]
    by_cases e : k = n
    · subst e
      rw [List.findSome?_eq_none_iff.mpr fun j hj => hn j (List.mem_range.mp hj)]
      simp [hx]
    · rw [ih (by omega)]
      rfl

theorem State.FirstEligible.eligible {s : State} {n : NodeId} {m : InMsg} (h : s.FirstEligible n m) : s.eligibleHead n = some m := by
  obtain ⟨k, -, -, he, -⟩ := h
  exact he

/-- R13: the take of the first eligible head. -/
theorem State.intakeTake_first {s : State} {n : NodeId} {m : InMsg} (h : s.FirstEligible n m) : s.intakeTake =
    (({ s.takeHead n .request with intakePos := n } : State).intakeAct n m (s.intakeOutcome n m)).settle := by
  obtain ⟨k, hk, rfl, he, hn⟩ := h
  have first : (roundRobin s.intakePos).findSome? (fun n => (s.eligibleHead n).map fun m => (n, m)) =
      some (Fin.ofNat 8 (s.intakePos.val + 1 + k), m) := by
    unfold roundRobin
    rw [List.findSome?_map]
    refine findSome?_range hk ?_ fun j hj => ?_
    · simp only [Function.comp, he, Option.map_some]
    · simp only [Function.comp, hn j hj, Option.map_none]
  unfold State.intakeTake
  rw [first]

/-- R13: no head is eligible. -/
theorem State.intakeTake_none {s : State} (h : ∀ n, s.eligibleHead n = none) : s.intakeTake = s := by
  have none : (roundRobin s.intakePos).findSome? (fun n => (s.eligibleHead n).map fun m => (n, m)) = none :=
    List.findSome?_eq_none_iff.mpr fun n _ => by rw [h]; rfl
  unfold State.intakeTake
  rw [none]

/-! ### What becomes of a head taken by the intake (R16 to R19) -/

theorem Gentle.intakeAct (s : State) (n : NodeId) (m : InMsg) (o : IntakeOutcome) : Gentle s (s.intakeAct n m o) := by
  unfold State.intakeAct
  split
  · dsimp only
    split
    · exact (refuse s n _).trans (offer _ _)
    · exact refuse s n _
  · exact aside rfl rfl rfl rfl rfl
  · exact aside rfl rfl rfl rfl rfl
  · split
    · exact work (.startEntry s _ _)
    · exact refl s

/-- R15 to R17, R19: a refusal sets the mark, is queued, and is captured where its reason has a capture. -/
theorem State.intakeAct_refuse (s : State) (n : NodeId) (m : InMsg) (b : Block) (r : FaultReason) :
    (s.intakeAct n m (.refuse b r)).refusalMarks = s.refusalMarks.add n ∧
      (s.intakeAct n m (.refuse b r)).controlQ = s.controlQ ∧
      s.Queued (s.intakeAct n m (.refuse b r)) n ⟨.fault m.tag b r true, .intake⟩ ∧
      ∀ x, s.refusalRecord n m b r = some x → s.HoldsRecord (s.intakeAct n m (.refuse b r)) x := by
  have queued : s.Queued (s.refuse n (.fault m.tag b r true)) n ⟨.fault m.tag b r true, .intake⟩ :=
    s.enqueue_queued n .intake (.fault m.tag b r true)
  unfold State.intakeAct
  dsimp only
  cases hx : s.refusalRecord n m b r with
  | none => exact ⟨rfl, rfl, queued, nofun⟩
  | some x =>
    have same := (s.refuse n (.fault m.tag b r true)).offer_same x
    refine ⟨same.refusalMarks, same.controlQ, queued.mono ((Gentle.offer _ x).outbound n), ?_⟩
    rintro _ ⟨⟩
    exact ((s.refuse n (.fault m.tag b r true)).offer_holds x).before rfl

/-- R13: an outcome that goes to the Transaction Table has a free entry. -/
theorem State.freeTT_of_dispatch {s : State} {n : NodeId} {m : InMsg} {q : Request} {l : Loc} (he : s.eligibleHead n = some m)
    (ho : s.intakeOutcome n m = .dispatch q l) : ∃ i, s.freeTT = some i := by
  obtain ⟨-, -, -, room⟩ := (s.eligibleHead_iff n m).mp he
  rw [ho] at room
  simp only [State.hasRoom, Bool.and_eq_true] at room
  exact Option.isSome_iff_exists.mp room.1

theorem exec_intakeTake {s : State} (hr : s.running = true) : exec .intakeTake s = .next s.beginStep.intakeTake :=
  run_running State.intakeTake s hr

/-- The inboxes and credits of a node that stays as it was, once a head has been taken, its effect has come about and the
bridge's own work is done. -/
theorem Gentle.inbox_counted {s t : State} (h : Gentle s t) {k : NodeId} (hc : (t.settle.node k).state.counted = true) :
    (t.settle.port k).requests = (s.port k).requests ∧ (t.settle.port k).returns = (s.port k).returns ∧
      (t.settle.port k).requestCredits = (s.port k).requestCredits ∧
      (t.settle.port k).returnCredits = (s.port k).returnCredits := by
  obtain ⟨h1, h2, h3, h4⟩ := (Calm.settle t).inbox_counted hc
  obtain ⟨ms, hp⟩ := h.port k
  rw [h1, h2, h3, h4, hp]
  exact ⟨rfl, rfl, rfl, rfl⟩

/-- The state the intake acts on: the step begun, the head taken, and its position at the head's node (R13). -/
def State.intakeHead (s : State) (n : NodeId) : State := { s.beginStep.takeHead n .request with intakePos := n }

theorem State.intakeHead_out (s : State) (n : NodeId) : (s.intakeHead n).out = [.credits n .request 1] := rfl

theorem State.intakeHead_port (s : State) (n k : NodeId) :
    (s.intakeHead n).port k = if k = n then (s.port n).taken .request else s.port k :=
  s.beginStep.takeHead_port n k .request

theorem State.intakeHead_outbound (s : State) (n k : NodeId) : ((s.intakeHead n).port k).outbound = (s.port k).outbound :=
  s.beginStep.takeHead_outbound n k .request

/-- R13: the intake's take, as a command. -/
theorem State.exec_intakeTake_first {s : State} {n : NodeId} {m : InMsg} (hr : s.running = true) (h : s.FirstEligible n m) :
    exec .intakeTake s = .next ((s.intakeHead n).intakeAct n m (s.intakeOutcome n m)).settle := by
  rw [exec_intakeTake hr, State.intakeTake_first (s := s.beginStep) h]
  rfl

/-- Settles O26: the take of the first eligible head, the effect of its outcome, and the bridge's own work behind it. -/
theorem intakeTakesTheFirstEligibleHead : Obligations.IntakeTakesTheFirstEligibleHead := by
  refine ⟨fun s hr hn => ?_, fun s n m hr hf => ?_⟩
  · rw [exec_intakeTake hr, State.intakeTake_none (s := s.beginStep) hn]
  have gentle := Gentle.intakeAct (s.intakeHead n) n m (s.intakeOutcome n m)
  have calm := Calm.settle ((s.intakeHead n).intakeAct n m (s.intakeOutcome n m))
  refine ⟨_, State.exec_intakeTake_first hr hf, calm.intakePos.trans gentle.intakePos,
    calm.out.trans (gentle.out.trans (s.intakeHead_out n)), fun k hk hc => ?_, fun b r ho => ?_, fun c ho => ?_,
    fun q x ho => ?_, fun q l ho => ?_⟩
  · obtain ⟨h1, h2, h3, h4⟩ := gentle.inbox_counted (k := k) (by rw [hk]; exact hc)
    rw [h1, h2, h3, h4, s.intakeHead_port]
    by_cases e : k = n
    · subst e
      simp only [if_pos]
      exact ⟨rfl, rfl, rfl, rfl⟩
    · simp only [if_neg e]
      exact ⟨trivial, trivial, trivial, trivial⟩
  · rw [ho] at calm ⊢
    obtain ⟨marks, control, queued, held⟩ := (s.intakeHead n).intakeAct_refuse n m b r
    have captured : ∀ x, (s.intakeHead n).refusalRecord n m b r = some x →
        s.HoldsRecord ((s.intakeHead n).intakeAct n m (.refuse b r)).settle x :=
      fun x hx => ((held x hx).mono calm.record).before rfl
    refine ⟨calm.refusalMarks.trans marks, calm.controlQ.trans control,
      (queued.mono (calm.outbound n)).before (s.intakeHead_outbound n n).symm, ?_, ?_, ?_⟩
    all_goals
      rintro rfl
      exact captured _ rfl
  · rw [ho] at calm ⊢
    exact ⟨calm.controlQ, calm.refusalMarks⟩
  · rw [ho]
    rfl
  · obtain ⟨i, hi⟩ := State.freeTT_of_dispatch hf.eligible ho
    refine ⟨i, hi, ?_⟩
    rw [ho]
    have free : (s.intakeHead n).freeTT = some i := hi
    unfold State.intakeAct
    rw [free]
    rfl

end Sys2Proof.Machine
end

section
/-! The Return Handler's take (chapter 6, section 6.1). -/

namespace Sys2Proof.Machine

/-! ### What becomes of a return, as `Gentle` effects -/

namespace Gentle

theorem placeWrite (s : State) (o : OpOwner) (p : MPort) (a : MemAddr) (d : BlockData) : Gentle s (s.placeWrite o p a d) :=
  modMP s p _

theorem then_offer {s t : State} (h : Gentle s t) (r : CaptureRecord) : Gentle s (t.offer r) := h.trans (offer t r)

theorem makeWriteback (s : State) (w : WBIdx) (n : NodeId) (b : Block) (d : BlockData) : Gentle s (s.makeWriteback w n b d) := by
  unfold State.makeWriteback
  split
  · exact (setWB s w _).trans (placeWrite _ _ _ _ _)
  · exact (setWB s w _).trans (enqueue _ _ _ _)

theorem strayWriteback (s : State) (w : WBIdx) (n : NodeId) (b : Block) : Gentle s (s.strayWriteback w n b) :=
  ((setWB s w _).trans (enqueue _ _ _ _)).then_offer _

theorem ownerWriteback (s : State) (w : WBIdx) (n : NodeId) (b : Block) (d : BlockData) : Gentle s (s.ownerWriteback w n b d) := by
  have absorbed : Gentle s (match s.memberOf n b with
      | some (i, r, _, _) => (s.removeHolder n b).absorbWriteback i r n d
      | none => s.removeHolder n b) := by
    split
    · exact (removeHolder s n b).trans (modEntry _ _ _)
    · exact removeHolder s n b
  exact absorbed.trans (makeWriteback _ w n b d)

theorem lateWriteback (s : State) (w : WBIdx) (n : NodeId) (b : Block) (i : TTIdx) (r : Role) (e : TTEntry) :
    Gentle s (s.lateWriteback w n b i r e) := by
  have stray : Gentle s ((s.markMember i r n .absorbedWb).strayWriteback w n b) := (modEntry s i _).trans (strayWriteback _ w n b)
  unfold State.lateWriteback
  dsimp only
  split
  · exact stray.then_offer _
  · exact stray

theorem repairWriteback (s : State) (w : WBIdx) (n : NodeId) (b : Block) (d : BlockData) : Gentle s (s.repairWriteback w n b d) := by
  unfold State.repairWriteback
  split
  · exact strayWriteback s w n b
  · split_ifs
    · exact lateWriteback s w n b _ _ _
    · exact (modEntry s _ _).trans (makeWriteback _ w n b d)
    · exact strayWriteback s w n b

theorem takeWriteback (s : State) (w : WBIdx) (n : NodeId) (b : Block) (d : BlockData) : Gentle s (s.takeWriteback w n b d) := by
  unfold State.takeWriteback
  cases s.standing n b with
  | owner => exact ownerWriteback s w n b d
  | sharer => exact strayWriteback s w n b
  | notHolder => exact strayWriteback s w n b
  | underRepair => exact repairWriteback s w n b d

theorem absorbEvict (s : State) (n : NodeId) (b : Block) : Gentle s (s.absorbEvict n b) := by
  unfold State.absorbEvict
  split
  · exact modEntry s _ _
  · exact refl s

theorem takeEvict (s : State) (n : NodeId) (b : Block) : Gentle s (s.takeEvict n b) := by
  unfold State.takeEvict
  cases s.standing n b with
  | owner => exact (removeHolder s n b).trans (absorbEvict _ n b)
  | sharer => exact (removeHolder s n b).trans (absorbEvict _ n b)
  | notHolder => exact refl s
  | underRepair => exact absorbEvict s n b

theorem ackAbsorbed (s : State) (i : TTIdx) (r : Role) (n : NodeId) (b : Block) (a : AckResult) :
    Gentle s (s.ackAbsorbed i r n b a) := by
  cases a with
  | data d => exact (modEntry s i _).then_offer _
  | clean => exact modEntry s i _
  | absent => exact modEntry s i _

theorem ackOwner (s : State) (i : TTIdx) (r : Role) (n : NodeId) (b : Block) (a : AckResult) : Gentle s (s.ackOwner i r n b a) := by
  cases a with
  | data d => exact modEntry s i _
  | clean => exact modEntry s i _
  | absent => exact (modEntry s i _).then_offer _

theorem ackSharer (s : State) (i : TTIdx) (r : Role) (n : NodeId) (b : Block) (a : AckResult) : Gentle s (s.ackSharer i r n b a) := by
  cases a with
  | data d => exact (modEntry s i _).then_offer _
  | clean => exact modEntry s i _
  | absent => exact modEntry s i _

theorem ackRepair (s : State) (i : TTIdx) (r : Role) (e : TTEntry) (n : NodeId) (b : Block) (a : AckResult) :
    Gentle s (s.ackRepair i r e n b a) := by
  cases a with
  | data d =>
    unfold State.ackRepair
    dsimp only
    split
    · exact modEntry s i _
    · exact (modEntry s i _).then_offer _
  | clean => exact modEntry s i _
  | absent => exact modEntry s i _

theorem takeAck (s : State) (n : NodeId) (b : Block) (a : AckResult) : Gentle s (s.takeAck n b a) := by
  unfold State.takeAck
  dsimp only
  split
  · exact offer s _
  · split_ifs
    · exact offer s _
    · exact ackAbsorbed s _ _ n b a
    · exact ackRepair s _ _ _ n b a
    · exact ackOwner s _ _ n b a
    · exact ackSharer s _ _ n b a

theorem returnAct (s : State) (n : NodeId) (m : InMsg) (w : Option WBIdx) : Gentle s (s.returnAct n m w) := by
  unfold State.returnAct
  split
  · cases w with
    | none => exact refl s
    | some w => exact takeWriteback s w n _ _
  · exact takeEvict s n _
  · exact takeAck s n _ _
  · exact offer s _

end Gentle

/-! ### The take (R102) -/

/-- R102: when the head of a Return Inbox is taken. -/
theorem State.takesReturn_iff (s : State) (m : InMsg) :
    s.takesReturn m = true ↔ (∀ b d, m.parse .ret ≠ .writeback b d) ∨ ∃ w, s.wbEntry w = none := by
  unfold State.takesReturn
  split
  · next b d h =>
    rw [State.freeWB_isSome]
    exact ⟨.inr, fun k => k.resolve_left fun k => k b d h⟩
  · next h => exact iff_of_true rfl (.inl h)

theorem State.returnTake_nil {s : State} {n : NodeId} (h : (s.port n).returns = []) : s.returnTake n = s := by
  unfold State.returnTake
  rw [h]

theorem State.returnTake_cons {s : State} {n : NodeId} {m : InMsg} {rest : List InMsg} (h : (s.port n).returns = m :: rest) :
    s.returnTake n = if s.takesReturn m then ((s.takeHead n .ret).returnAct n m s.freeWB).settle else s := by
  unfold State.returnTake
  rw [h]

theorem exec_returnTake {s : State} (hr : s.running = true) (n : NodeId) :
    exec (.returnTake n) s = .next (s.beginStep.returnTake n) :=
  run_running (fun s => s.returnTake n) s hr

theorem State.returnAct_malformed {s : State} {n : NodeId} {m : InMsg} (w : Option WBIdx) (h : m.wellFormed .ret = false) :
    s.returnAct n m w = s.offer ⟨.malformed, some n, m.block, none, none, none, s.timeBase⟩ := by
  unfold State.returnAct
  rw [InMsg.parse_malformed h]
  rfl

/-- Settles O27: the three cases of the take, and what becomes of the head by its kind. -/
theorem returnTakesTheHead : Obligations.ReturnTakesTheHead := by
  refine ⟨fun s n hr hn => ?_, fun s n m rest b d hr hm hp hw => ?_, fun s n m rest hr hm hw => ?_, fun s n m w => ?_,
    fun s n => ⟨rfl, rfl⟩⟩
  · rw [exec_returnTake hr, State.returnTake_nil (s := s.beginStep) hn]
  · have full : s.beginStep.takesReturn m ≠ true := fun h =>
      ((s.takesReturn_iff m).mp h).elim (fun k => k b d hp) fun ⟨w, k⟩ => hw w k
    rw [exec_returnTake hr, State.returnTake_cons (s := s.beginStep) hm, if_neg full]
  · have gentle := Gentle.returnAct (s.beginStep.takeHead n .ret) n m s.freeWB
    have port : (s.beginStep.takeHead n .ret).port n = (s.port n).taken .ret :=
      (s.beginStep.takeHead_port n n .ret).trans (if_pos rfl)
    have takes : s.beginStep.takesReturn m = true := (s.takesReturn_iff m).mpr hw
    refine ⟨_, ?_, ?_, rfl, fun hn hc => ?_, fun hf => ?_⟩
    · rw [exec_returnTake hr, State.returnTake_cons (s := s.beginStep) hm, if_pos takes]
      rfl
    · exact (Calm.settle _).out.trans gentle.out
    · obtain ⟨h1, h2, h3, h4⟩ := gentle.inbox_counted (k := n) (by rw [hn]; exact hc)
      rw [h1, h2, h3, h4, port]
      exact ⟨congrArg List.tail hm, rfl, rfl, rfl⟩
    · rw [State.returnAct_malformed _ hf]
      exact ((State.offer_holds (s.beginStep.takeHead n .ret) _).mono (Calm.settle _).record).before rfl
  · refine ⟨fun b d g hp hw => ?_, fun b hp => ?_, fun b a hp => ?_⟩
    · unfold State.returnAct
      rw [hp, hw]
    · unfold State.returnAct
      rw [hp]
    · unfold State.returnAct
      rw [hp]

end Sys2Proof.Machine
end

section
/-! The node commands (chapter 8, section 8.3; chapter 11). -/

namespace Sys2Proof.Machine

/-! ### The arguments -/

theorem State.withNode_val (s : State) {c : ControlReq} {n : NodeId} (f : NodeId → State) (h : c.index = n.val) :
    s.withNode c f = f n := by
  unfold State.withNode
  rw [h, nodeOf_val]

theorem State.withNode_none (s : State) {c : ControlReq} (f : NodeId → State) (h : 7 < c.index) :
    s.withNode c f = s.replies c .badArgument [] := by
  unfold State.withNode
  rw [nodeOf_none h]
  rfl

/-- The timeout field of an argument word, as a number. -/
theorem ControlReq.timeoutField (c : ControlReq) : (field (c.arg 0) 16 16).toNat = (c.arg 0).toNat / 65536 := by
  have bound := (c.arg 0).isLt
  rw [field_toNat]
  omega

/-- R146: a recall timeout of 0 or above 4095 is none. -/
theorem ControlReq.timeout_none {c : ControlReq} (h : (c.arg 0).toNat / 65536 = 0 ∨ 4095 < (c.arg 0).toNat / 65536) :
    c.timeout = none := by
  rw [← c.timeoutField] at h
  unfold ControlReq.timeout
  exact if_neg (by omega)

theorem ControlReq.timeout_some {c : ControlReq} (h1 : 1 ≤ (c.arg 0).toNat / 65536) (h2 : (c.arg 0).toNat / 65536 ≤ 4095) :
    c.timeout = some (BitVec.ofNat 12 ((c.arg 0).toNat / 65536)) := by
  rw [← c.timeoutField] at h1 h2 ⊢
  unfold ControlReq.timeout
  exact if_pos ⟨h1, h2⟩

/-! ### Jobs that are listed (R34, R139) -/

theorem JobKind.nonFence_iff (k : JobKind) : k.nonFence = true ↔ ∀ n, k ≠ .fenceNode n := by
  cases k <;> simp [JobKind.nonFence]

theorem State.nonFenceListed_iff (s : State) : s.nonFenceListed = true ↔ ∃ j ∈ s.jobs, ∀ n, j.kind ≠ .fenceNode n := by
  simp only [State.nonFenceListed, List.any_eq_true, JobKind.nonFence_iff]

/-! ### The reply (R178) -/

/-- A reply, queued or discarded, concerns the agent and one Outbound Queue. -/
theorem State.replies_quiet (s : State) (c : ControlReq) (st : Status) (ws : List Word) : Quiet s (s.replies c st ws) := by
  by_cases h : (s.node c.sender).state = .fenced
  · rw [s.replies_discarded c st ws h]
    exact .of_eq rfl rfl rfl rfl
  · rw [s.replies_queued c st ws h]
    have queued := (Work.enqueue (sw := False) s c.sender .agent (.controlReply c.tag st ws)).quiet
    exact ⟨queued.nodes, queued.regions, queued.jobs, queued.port⟩

theorem State.replies_jobs (s : State) (c : ControlReq) (st : Status) (ws : List Word) : (s.replies c st ws).jobs = s.jobs := by
  unfold State.replies State.reply
  split <;> rfl

/-- A node without a live quiesce, and the inboxes and credits of its port, once a command is answered and the bridge's own
work is done. -/
theorem State.settle_replies {s : State} {n : NodeId} (h : s.noQuiesce n) (c : ControlReq) (st : Status) (ws : List Word) :
    (s.replies c st ws).settle.node n = s.node n ∧
      (((s.replies c st ws).settle.port n).requests = (s.port n).requests ∧
          ((s.replies c st ws).settle.port n).returns = (s.port n).returns ∧
          ((s.replies c st ws).settle.port n).requestCredits = (s.port n).requestCredits ∧
          ((s.replies c st ws).settle.port n).returnCredits = (s.port n).returnCredits ∨
        ((s.replies c st ws).settle.port n).requests = [] ∧ ((s.replies c st ws).settle.port n).returns = [] ∧
          ((s.replies c st ws).settle.port n).requestCredits = 0 ∧ ((s.replies c st ws).settle.port n).returnCredits = 0) := by
  have quiet := s.replies_quiet c st ws
  have none : (s.replies c st ws).noQuiesce n := by
    unfold State.noQuiesce
    rw [State.replies_jobs]
    exact h
  obtain ⟨ms, port⟩ := quiet.port n
  refine ⟨((Work.settle _).noQuiesce n none).2.trans (State.node_congr quiet.nodes n), ?_⟩
  rcases (Calm.settle (s.replies c st ws)).inbox n with ⟨-, h1, h2, h3, h4⟩ | ⟨-, silent⟩
  · rw [h1, h2, h3, h4, port]
    exact .inl ⟨rfl, rfl, rfl, rfl⟩
  · exact .inr silent

/-! ### The commands (R138, R139, R141, R144, R146, R147) -/

/-- R146: WRITE_NODE. -/
theorem writeNode_outcomes {s : State} {c : ControlReq} {rest : List ControlReq} (h : AgentTakes s 0x02#8 1 c rest) {t : Nat}
    (ht : t = (c.arg 0).toNat / 65536) :
    (7 < c.index ∨ t = 0 ∨ 4095 < t → exec .writeNode s = .next ((s.taking rest).replies c .badArgument [])) ∧
    (∀ n : NodeId, c.index = n.val → 1 ≤ t → t ≤ 4095 →
      exec .writeNode s = .next (((s.taking rest).modNode n fun r =>
        { r with manager := (c.arg 0).getLsbD 8, recallTimeout := BitVec.ofNat 12 t }).replies c .ok [])) := by
  have performed : exec .writeNode s = .next ((s.taking rest).writeNode c) := h.performs rfl State.writeNode
  subst ht
  rw [performed]
  refine ⟨fun hb => congrArg _ ?_, fun n hn h1 h2 => congrArg _ ?_⟩
  · rcases hb with hb | hb
    · exact State.withNode_none _ _ hb
    · unfold State.writeNode State.withNode
      rw [ControlReq.timeout_none hb]
      cases nodeOf c.index <;> rfl
  · unfold State.writeNode
    rw [State.withNode_val _ _ hn, ControlReq.timeout_some h1 h2]
    rfl

/-- R6, R138: ADMIT_NODE. -/
theorem admitNode_outcomes {s : State} {c : ControlReq} {rest : List ControlReq} (h : AgentTakes s 0x03#8 1 c rest) :
    (7 < c.index → exec .admitNode s = .next ((s.taking rest).replies c .badArgument [])) ∧
    (∀ n : NodeId, c.index = n.val →
      ((s.node n).state ≠ .offline ∨ (s.port n).link = .down →
        exec .admitNode s = .next ((s.taking rest).replies c .badState [])) ∧
      ((s.node n).state = .offline → (s.port n).link = .up →
        exec .admitNode s = .next (State.replies
          { ((s.taking rest).modNode n (fun r => { r with state := .active, fenceReason := none })).modPort n
              (fun p => { p with requests := [], returns := [], requestCredits := 8, returnCredits := 4 }) with
            out := [.credits n .request 8, .credits n .ret 4] } c .ok []))) := by
  have performed : exec .admitNode s = .next ((s.taking rest).admitNode c) := h.performs rfl State.admitNode
  rw [performed]
  refine ⟨fun hb => congrArg _ (State.withNode_none _ _ hb), fun n hn => ⟨fun hs => congrArg _ ?_, fun ho hu => congrArg _ ?_⟩⟩
  · have refused : ¬((s.node n).state = .offline ∧ (s.port n).link = .up) := by
      rintro ⟨ho, hu⟩
      rcases hs with hs | hs
      · exact hs ho
      · rw [hs] at hu
        cases hu
    exact (State.withNode_val _ _ hn).trans (if_neg refused)
  · exact (State.withNode_val _ _ hn).trans (if_pos ⟨ho, hu⟩)

/-- R144: RELEASE_NODE. -/
theorem releaseNode_outcomes {s : State} {c : ControlReq} {rest : List ControlReq} (h : AgentTakes s 0x06#8 1 c rest) :
    (7 < c.index → exec .releaseNode s = .next ((s.taking rest).replies c .badArgument [])) ∧
    (∀ n : NodeId, c.index = n.val →
      ((s.node n).state ≠ .fenced → exec .releaseNode s = .next ((s.taking rest).replies c .badState [])) ∧
      ((s.node n).state = .fenced → (s.node n).fenceJob = true →
        exec .releaseNode s = .next ((s.taking rest).replies c .busy [])) ∧
      ((s.node n).state = .fenced → (s.node n).fenceJob = false →
        exec .releaseNode s = .next
          (((s.taking rest).modNode n fun r => { r with state := .offline }).replies c .ok []).flushNotices)) := by
  have performed : exec .releaseNode s = .next ((s.taking rest).releaseNode c) := h.performs rfl State.releaseNode
  rw [performed]
  refine ⟨fun hb => congrArg _ (State.withNode_none _ _ hb), fun n hn => ⟨fun hs => congrArg _ ?_,
    fun hs hj => congrArg _ ?_, fun hs hj => congrArg _ ?_⟩⟩
  · exact (State.withNode_val _ _ hn).trans (if_pos hs)
  · exact (State.withNode_val _ _ hn).trans ((if_neg (not_not_intro hs)).trans (if_pos hj))
  · have idle : ¬ ((s.taking rest).node n).fenceJob = true := by
      rw [Bool.not_eq_true]
      exact hj
    exact (State.withNode_val _ _ hn).trans ((if_neg (not_not_intro hs)).trans (if_neg idle))

/-- R139: QUIESCE_NODE. -/
theorem quiesceNode_outcomes {s : State} {c : ControlReq} {rest : List ControlReq} (h : AgentTakes s 0x04#8 1 c rest) :
    (7 < c.index → exec .quiesceNode s = .next ((s.taking rest).replies c .badArgument []).settle) ∧
    (∀ n : NodeId, c.index = n.val →
      ((s.node n).state ≠ .active →
        exec .quiesceNode s = .next ((s.taking rest).replies c .badState []).settle) ∧
      ((s.node n).state = .active → (∃ j ∈ s.jobs, ∀ k, j.kind ≠ .fenceNode k) →
        exec .quiesceNode s = .next ((s.taking rest).replies c .busy []).settle) ∧
      ((s.node n).state = .active → (∀ j ∈ s.jobs, ∃ k, j.kind = .fenceNode k) →
        exec .quiesceNode s = .next (State.replies
          { (s.taking rest).modNode n (fun r => { r with state := .quiescing }) with
            jobs := s.jobs ++ [⟨.quiesceNode n, .queued⟩] } c .accepted []).settle)) := by
  have performed : exec .quiesceNode s = .next ((s.taking rest).quiesceNode c).settle :=
    h.performs rfl fun t c => (t.quiesceNode c).settle
  rw [performed]
  refine ⟨fun hb => congrArg _ (congrArg State.settle (State.withNode_none _ _ hb)), fun n hn =>
    ⟨fun hs => congrArg _ (congrArg State.settle ?_), fun hs hj => congrArg _ (congrArg State.settle ?_),
      fun hs hj => congrArg _ (congrArg State.settle ?_)⟩⟩
  · exact (State.withNode_val _ _ hn).trans (if_pos hs)
  · exact (State.withNode_val _ _ hn).trans ((if_neg (not_not_intro hs)).trans (if_pos (s.nonFenceListed_iff.mpr hj)))
  · have free : ¬ (s.taking rest).nonFenceListed = true := fun hl => by
      obtain ⟨j, hm, hk⟩ := s.nonFenceListed_iff.mp hl
      obtain ⟨k, e⟩ := hj j hm
      exact hk k e
    exact (State.withNode_val _ _ hn).trans ((if_neg (not_not_intro hs)).trans (if_neg free))

/-- R141: FENCE_NODE. -/
theorem fenceNode_outcomes {s : State} {c : ControlReq} {rest : List ControlReq} (h : AgentTakes s 0x05#8 1 c rest) :
    (7 < c.index → exec .fenceNode s = .next ((s.taking rest).replies c .badArgument []).settle) ∧
    (∀ n : NodeId, c.index = n.val →
      ((s.node n).state.counted = false → exec .fenceNode s = .next ((s.taking rest).replies c .badState []).settle) ∧
      ((s.node n).state.counted = true →
        exec .fenceNode s = .next (((s.taking rest).fence n .control).replies c .accepted []).settle)) := by
  have performed : exec .fenceNode s = .next ((s.taking rest).fenceNode c).settle :=
    h.performs rfl fun t c => (t.fenceNode c).settle
  rw [performed]
  refine ⟨fun hb => congrArg _ (congrArg State.settle (State.withNode_none _ _ hb)), fun n hn =>
    ⟨fun hs => congrArg _ (congrArg State.settle ?_), fun hs => congrArg _ (congrArg State.settle ?_)⟩⟩
  · have uncounted : ¬ ((s.taking rest).node n).state.counted = true := by
      rw [Bool.not_eq_true]
      exact hs
    exact (State.withNode_val _ _ hn).trans (if_neg uncounted)
  · exact (State.withNode_val _ _ hn).trans (if_pos hs)

/-- Settles O54: command by command; the node that FENCE_NODE fences by `Fenced`, through the reply and the bridge's own
work. -/
theorem nodeCommands : Obligations.NodeCommands := by
  refine ⟨fun s c rest t h ht => writeNode_outcomes h ht, fun s c rest h => admitNode_outcomes h,
    fun s c rest h => releaseNode_outcomes h, fun s c rest h => ?_, fun s c rest h => quiesceNode_outcomes h,
    fun s c rest h => ⟨(fenceNode_outcomes h).1, fun n hn => ⟨((fenceNode_outcomes h).2 n hn).1, fun hs => ?_⟩⟩⟩
  · have performed : exec .setNoticeNode s = .next ((s.taking rest).setNoticeNode c) := h.performs rfl State.setNoticeNode
    rw [performed]
    exact ⟨fun hb => congrArg _ (State.withNode_none _ _ hb), fun n hn => congrArg _ (State.withNode_val _ _ hn)⟩
  · have fenced := State.fence_fenced (s.taking rest) n .control
    obtain ⟨node, inbox⟩ := State.settle_replies fenced.noQuiesce c .accepted []
    refine ⟨_, ((fenceNode_outcomes h).2 n hn).2 hs, rfl, node.trans fenced.node, ?_⟩
    rcases inbox with ⟨h1, h2, h3, h4⟩ | silent
    · rw [h1, h2, h3, h4, fenced.port]
      exact ⟨rfl, rfl, rfl, rfl⟩
    · exact silent

end Sys2Proof.Machine
end

section
/-! RESTART (chapter 11, section 11.5). -/

namespace Sys2Proof.Machine

/-! ### The warm reset (R21, R35, R136, R149, R150, R175, R184) -/

section
variable (s : State)

theorem State.warmReset_port (n : NodeId) : s.warmReset.port n = (s.port n).warm := by simp [State.warmReset, State.port]
theorem State.warmReset_node (n : NodeId) : s.warmReset.node n = (s.node n).warm := by simp [State.warmReset, State.node]
theorem State.warmReset_region (r : RegionIdx) : s.warmReset.region r = (s.region r).warm := by simp [State.warmReset, State.region]
theorem State.warmReset_slot (k : CaptureClass) : s.warmReset.slot k = (s.slot k).warm := by simp [State.warmReset, State.slot]

end

/-- R136: the tags of a Memory Port after warm reset. -/
theorem MemPort.warm_tag (p : MemPort) (m : MemTag) : p.warm.tags[m] = match p.tags[m] with
    | .inFlight op _ got => .stale op.kind (gotSet got)
    | x => x := by
  have tag : p.warm.tags[m] = p.tags[m].warm := by simp [MemPort.warm]
  rw [tag]
  cases p.tags[m] <;> rfl

/-- R175: a capture slot after warm reset. -/
theorem CaptureSlot.warm_eq (t : CaptureSlot) : t.warm = { t with
    lockNotice := if t.lockNotice = .queued then .pending else t.lockNotice
    escalationNotice := if t.escalationNotice = .queued then .pending else t.escalationNotice
    outstanding := false } := by
  have notice : ∀ x : NoticeState, x.warm = if x = .queued then .pending else x := fun x => by cases x <;> rfl
  unfold CaptureSlot.warm
  rw [notice, notice]

/-! ### The reply (R185) -/

/-- The warm reset and the reply behind it, before the notices. -/
def State.restarted (s : State) (c : ControlReq) : State :=
  if (s.warmReset.port c.sender).link = .up then s.warmReset.answerOk c [] else s.warmReset

theorem State.restart_eq (s : State) (c : ControlReq) : s.restart c = (s.restarted c).flushNotices := rfl

section
variable (s : State) (c : ControlReq)

/-- R178: no node is FENCED after the warm reset, so that a reply is queued. -/
theorem State.warmReset_answerOk : s.warmReset.answerOk c [] =
    { s.warmReset.enqueue c.sender .agent (.controlReply c.tag .ok []) with agent := .replyPending } := by
  refine State.replies_queued s.warmReset c .ok [] ?_
  rw [State.warmReset_node]
  exact nofun

theorem State.restarted_up (h : (s.port c.sender).link = .up) : s.restarted c =
    { s.warmReset.enqueue c.sender .agent (.controlReply c.tag .ok []) with agent := .replyPending } := by
  unfold State.restarted
  rw [State.warmReset_port, if_pos (show (s.port c.sender).warm.link = .up from h), State.warmReset_answerOk]

theorem State.restarted_down (h : (s.port c.sender).link ≠ .up) : s.restarted c = s.warmReset := by
  unfold State.restarted
  rw [State.warmReset_port]
  exact if_neg h

theorem State.restarted_agent : (s.restarted c).agent = if (s.port c.sender).link = .up then .replyPending else .ready := by
  split
  · next h => rw [s.restarted_up c h]
  · next h => rw [s.restarted_down c h]; rfl

theorem State.restarted_port (n : NodeId) : (s.restarted c).port n = (s.port n).warm.send
    (if n = c.sender ∧ (s.port n).link = .up then [⟨.controlReply c.tag .ok [], .agent⟩] else []) := by
  by_cases h : (s.port c.sender).link = .up
  · rw [s.restarted_up c h]
    refine (State.enqueue_port s.warmReset c.sender n .agent (.controlReply c.tag .ok [])).trans ?_
    simp only [State.warmReset_port]
    by_cases e : n = c.sender
    · subst e
      rw [if_pos rfl, if_pos ⟨rfl, h⟩]
      rfl
    · rw [if_neg e, if_neg (fun k => e k.1), Port.send_nil]
  · rw [s.restarted_down c h, State.warmReset_port, if_neg, Port.send_nil]
    rintro ⟨rfl, k⟩
    exact h k

/-- The reply concerns the agent and the ports. -/
theorem State.restarted_beside : ∃ a ps, s.restarted c = { s.warmReset with agent := a, ports := ps } := by
  by_cases h : (s.port c.sender).link = .up
  · exact ⟨_, _, s.restarted_up c h⟩
  · exact ⟨_, _, s.restarted_down c h⟩

theorem State.restarted_node (n : NodeId) : (s.restarted c).node n = (s.node n).warm := by
  obtain ⟨a, ps, e⟩ := s.restarted_beside c
  rw [e]
  exact s.warmReset_node n

theorem State.restarted_slot (k : CaptureClass) : (s.restarted c).slot k = (s.slot k).warm := by
  obtain ⟨a, ps, e⟩ := s.restarted_beside c
  rw [e]
  exact s.warmReset_slot k

theorem State.restarted_noticeNode : (s.restarted c).noticeNode = s.noticeNode := by
  obtain ⟨a, ps, e⟩ := s.restarted_beside c
  rw [e]
  rfl

theorem State.restarted_jobs : (s.restarted c).jobs = [] := by
  obtain ⟨a, ps, e⟩ := s.restarted_beside c
  rw [e]
  rfl

/-- R147: after the warm reset the notice node is reachable when its link is UP. -/
theorem State.restarted_reachable : (s.restarted c).reachable = true ↔ (s.port s.noticeNode).link = .up := by
  rw [State.reachable_iff, s.restarted_noticeNode c, s.restarted_port c, s.restarted_node c]
  exact and_iff_left nofun

/-! ### The command -/

theorem State.restart_node (n : NodeId) : (s.restart c).node n = (s.node n).warm :=
  ((s.restarted c).flushNotices_same.node n).trans (s.restarted_node c n)

/-- R147, R185: the DISCONNECT, the reply and the notices, in that order. -/
theorem State.restart_port (n : NodeId) : (s.restart c).port n = (s.port n).warm.send
    ((if n = c.sender ∧ (s.port n).link = .up then [⟨.controlReply c.tag .ok [], .agent⟩] else []) ++
      if n = s.noticeNode ∧ (s.port n).link = .up then allClasses.filterMap fun k => (s.slot k).warm.owed k else []) := by
  rw [State.restart_eq, State.flushNotices_port, s.restarted_port c, s.restarted_jobs c, s.restarted_noticeNode c]
  simp only [s.restarted_reachable c, s.restarted_slot c, List.filterMap_nil, List.append_nil]
  by_cases e : n = s.noticeNode
  · subst e
    split_ifs <;> simp_all
  · simp [e]

theorem State.restart_slot (k : CaptureClass) : (s.restart c).slot k =
    if (s.port s.noticeNode).link = .up then (s.slot k).warm.told k else (s.slot k).warm := by
  rw [State.restart_eq, State.flushNotices_slot, s.restarted_slot c]
  simp only [s.restarted_reachable c]

theorem State.restart_agent : (s.restart c).agent = if (s.port c.sender).link = .up then .replyPending else .ready :=
  (s.restarted c).flushNotices_same.agent.trans (s.restarted_agent c)

/-- The fields that neither the reply nor the notices concern. -/
theorem State.restart_rest : (∀ r, (s.restart c).region r = (s.region r).warm) ∧ (∀ p, (s.restart c).mp p = (s.mp p).warm) ∧
    ((s.restart c).dir = [] ∧ (s.restart c).hold = [] ∧ (s.restart c).jobs = [] ∧ (s.restart c).controlQ = [] ∧
      (∀ i, (s.restart c).ttSlot i = ⟨0#8, none⟩) ∧ ∀ w, (s.restart c).wbEntry w = none) ∧
    ((s.restart c).intakePos = 7 ∧ (s.restart c).refusalMarks = 0#8 ∧ (s.restart c).noticeNode = s.noticeNode ∧
      (s.restart c).timeBase = s.timeBase ∧ (s.restart c).out = s.out) := by
  have jobs : (s.restart c).jobs = [] := by
    rw [State.restart_eq, State.flushNotices_jobs, s.restarted_jobs c]
    split <;> rfl
  obtain ⟨a, ps, e⟩ := s.restarted_beside c
  have same : SameBeside { s.warmReset with agent := a, ports := ps } (s.restart c) := by
    rw [← e]
    exact (s.restarted c).flushNotices_same
  have tt : (s.restart c).tt = State.reset.tt := by
    rw [State.restart_eq, State.flushNotices_tt, e]
    rfl
  refine ⟨fun r => (State.region_congr same.regions r).trans (s.warmReset_region r),
    fun p => (same.mp p).trans (by cases p <;> rfl),
    ⟨same.dir, same.hold, jobs, same.controlQ, fun i => ?_, fun w => ?_⟩,
    same.intakePos, same.refusalMarks, same.noticeNode, same.timeBase, same.out⟩
  · rw [State.ttSlot, tt]
    exact State.reset_ttSlot i
  · rw [State.wbEntry, same.wb]
    exact State.reset_wbEntry w

end

/-- Settles O57: the warm reset record by record, then the reply and the notices behind it. -/
theorem restartIsTheWarmReset : Obligations.RestartIsTheWarmReset := by
  refine ⟨fun s c rest h => ?_, CaptureSlot.warm_eq⟩
  have performed : exec .restart s = .next ((s.taking rest).restart c) := h.performs rfl State.restart
  have port := (s.taking rest).restart_port c
  obtain ⟨region, mp, lists, marks⟩ := (s.taking rest).restart_rest c
  refine ⟨_, performed, (s.taking rest).restart_node c, fun n => ?_, fun n hd => ?_, fun n hu => ?_,
    (s.taking rest).restart_agent c, region, fun p => ?_, fun k => ?_, fun hd k => ?_, lists, marks⟩
  · rw [port]
    exact ⟨rfl, rfl, rfl, rfl, rfl⟩
  · have down : ((s.taking rest).port n).link ≠ .up := by rw [show ((s.taking rest).port n).link = .down from hd]; exact nofun
    rw [port, if_neg fun k => down k.2, if_neg fun k => down k.2, List.append_nil, Port.send_nil]
    exact if_neg down
  · have up : ((s.taking rest).port n).link = .up := hu
    rw [port, Port.send_outbound, ← List.append_assoc]
    simp only [up, and_true]
    congr 1
    exact congrArg (· ++ _) (if_pos hu)
  · rw [mp]
    cases p
    · exact ⟨rfl, rfl, rfl, fun m => MemPort.warm_tag _ m⟩
    · exact ⟨rfl, rfl, rfl, fun m => MemPort.warm_tag _ m⟩
  · rw [(s.taking rest).restart_slot c]
    split
    · exact CaptureSlot.told_record _ k
    · exact ⟨rfl, rfl, rfl, rfl⟩
  · rw [(s.taking rest).restart_slot c]
    refine if_neg ?_
    rw [show ((s.taking rest).port (s.taking rest).noticeNode).link = .down from hd]
    exact nofun

end Sys2Proof.Machine
end

section
/-! The words of the messages (chapter 12, sections 12.1 and 12.2; R189, R190). -/

namespace Sys2Proof.Machine

/-! ### Values placed in a word -/

theorem place_getLsbD (lo v i : Nat) : (place lo v).getLsbD i = (decide (i < 32) && !decide (i < lo) && v.testBit (i - lo)) := by
  unfold place
  rw [BitVec.getLsbD_shiftLeft, BitVec.getLsbD_ofNat]
  by_cases h : i < 32
  · have : i - lo < 32 := by omega
    simp [h, this]
  · simp [h]

/-- The field at which a value stands. -/
theorem place_field {lo w : Nat} (h : lo + w ≤ 32) (v : Nat) : (place lo v).extractLsb' lo w = BitVec.ofNat w v := by
  refine BitVec.eq_of_getLsbD_eq fun i hi => ?_
  rw [BitVec.getLsbD_extractLsb', place_getLsbD, BitVec.getLsbD_ofNat]
  have : lo + i < 32 := by omega
  simp [hi, this]

/-- A bit beside the field of `u` bits in which a value stands. -/
theorem place_bit_apart {v u : Nat} (hv : v < 2 ^ u) {lo i : Nat} (h : i < lo ∨ lo + u ≤ i) : (place lo v).getLsbD i = false := by
  rw [place_getLsbD]
  rcases h with h | h
  · simp [h]
  · have high : v.testBit (i - lo) = false := Nat.testBit_lt_two_pow (hv.trans_le (Nat.pow_le_pow_right (by omega) (by omega)))
    simp [high]

/-- A field beside the one of `u` bits in which a value stands. -/
theorem place_field_apart {v u : Nat} (hv : v < 2 ^ u) {lo a w : Nat} (h : a + w ≤ lo ∨ lo + u ≤ a) :
    (place lo v).extractLsb' a w = 0#w := by
  refine BitVec.eq_of_getLsbD_eq fun i hi => ?_
  rw [BitVec.getLsbD_extractLsb', place_bit_apart hv (by omega)]
  simp

/-- The bit at which a flag stands. -/
theorem placeBit_bit {lo : Nat} (h : lo < 32) (b : Bool) : (placeBit lo b).getLsbD lo = b := by
  unfold placeBit
  rw [place_getLsbD]
  cases b <;> simp [h]

/-! ### Headers -/

/-- The fields of a header word. -/
theorem headerWord_fields (tag : ReqTag) {kind qualifier detail blockHi count : Nat} (hk : kind < 2 ^ 5) (hq : qualifier < 2 ^ 3)
    (hd : detail < 2 ^ 8) (hb : blockHi < 2 ^ 2) (hc : count < 2 ^ 4) {h : Word}
    (e : h = headerWord tag kind qualifier detail blockHi count) :
    h.extractLsb' 0 8 = tag ∧ h.extractLsb' 8 5 = BitVec.ofNat 5 kind ∧ h.extractLsb' 13 3 = BitVec.ofNat 3 qualifier ∧
      h.extractLsb' 16 8 = BitVec.ofNat 8 detail ∧ h.extractLsb' 24 2 = BitVec.ofNat 2 blockHi ∧ h.extractLsb' 26 2 = 0#2 ∧
      h.extractLsb' 28 4 = BitVec.ofNat 4 count := by
  have ht : tag.toNat < 2 ^ 8 := tag.isLt
  have low : tag.zeroExtend 32 = place 0 tag.toNat := by
    refine BitVec.eq_of_toNat_eq ?_
    simp [place]
  subst e
  unfold headerWord
  rw [low]
  simp only [BitVec.extractLsb'_or]
  refine ⟨?_, ?_, ?_, ?_, ?_, ?_, ?_⟩ <;>
    simp [place_field, place_field_apart ht, place_field_apart hk, place_field_apart hq, place_field_apart hd,
      place_field_apart hb, place_field_apart hc]

theorem Msg.LaidOut.of_words {m : Msg} {tag : ReqTag} {kind qualifier detail count : Nat} {b : Block} {rest : List Word}
    (hk : kind < 2 ^ 5) (hq : qualifier < 2 ^ 3) (hd : detail < 2 ^ 8) (hc : count < 2 ^ 4)
    (h : m.words = headerWord tag kind qualifier detail (b.extractLsb' 32 2).toNat count :: b.extractLsb' 0 32 :: rest) :
    m.LaidOut tag kind qualifier detail count b rest := by
  obtain ⟨h1, h2, h3, h4, h5, h6, h7⟩ := headerWord_fields tag hk hq hd (b.extractLsb' 32 2).isLt hc rfl
  exact ⟨_, h, h1, h2, h3, h4, h5.trans (by rw [BitVec.ofNat_toNat, BitVec.setWidth_eq]), h6, h7⟩

/-! ### Notices (R169, R171, 12 section 12.2) -/

theorem FaultReason.code_lt (r : FaultReason) : r.code < 2 ^ 8 := by cases r <;> decide
theorem Status.code_lt (st : Status) : st.code < 2 ^ 8 := by cases st <;> decide
theorem CaptureReason.code_lt (r : CaptureReason) : r.code < 2 ^ 4 := by cases r <;> decide
theorem JobKind.code_lt (k : JobKind) : k.code < 2 ^ 2 := by cases k <;> simp [JobKind.code]

theorem JobKind.target_lt (k : JobKind) : k.target < 2 ^ 4 := by
  cases k with
  | closeRegion r u => exact r.isLt
  | quiesceNode n => exact n.isLt.trans (by decide)
  | fenceNode n => exact n.isLt.trans (by decide)

/-- The word of a FAULT_NOTICE. -/
theorem faultNotice_word (r : CaptureReason) (v : Severity) (c : BitVec 4) {w : Word}
    (e : w = place 0 r.cls.index.val ||| placeBit 2 (v == .dataLost) ||| place 4 r.code ||| place 8 c.toNat) :
    w.extractLsb' 0 2 = BitVec.ofNat 2 r.cls.index.val ∧ w.getLsbD 2 = (v == .dataLost) ∧ w.getLsbD 3 = false ∧
      w.extractLsb' 4 4 = BitVec.ofNat 4 r.code ∧ w.extractLsb' 8 4 = c ∧ w.extractLsb' 12 20 = 0#20 := by
  have hi : r.cls.index.val < 2 ^ 2 := r.cls.index.isLt
  have hf : Bool.toNat (v == .dataLost) < 2 ^ 1 := Bool.toNat_lt _
  have hr := r.code_lt
  have hc : c.toNat < 2 ^ 4 := c.isLt
  have flag := placeBit_bit (lo := 2) (by decide) (v == .dataLost)
  unfold placeBit at e flag
  subst e
  refine ⟨?_, ?_, ?_, ?_, ?_, ?_⟩ <;>
    simp [-BitVec.getLsbD_eq_getElem, BitVec.extractLsb'_or, BitVec.getLsbD_or, flag, place_field, place_field_apart hi, place_field_apart hf, place_field_apart hr,
      place_field_apart hc, place_bit_apart hi, place_bit_apart hf, place_bit_apart hr, place_bit_apart hc]

/-- The word of a JOB_NOTICE. -/
theorem jobNotice_word (k : JobKind) (o : JobOutcome) {w : Word}
    (e : w = place 0 k.code ||| place 4 k.target ||| placeBit 8 (o == .abandoned)) :
    w.extractLsb' 0 2 = BitVec.ofNat 2 k.code ∧ w.extractLsb' 2 2 = 0#2 ∧ w.extractLsb' 4 4 = BitVec.ofNat 4 k.target ∧
      w.getLsbD 8 = (o == .abandoned) ∧ w.extractLsb' 9 23 = 0#23 := by
  have hk := k.code_lt
  have ht := k.target_lt
  have hf : Bool.toNat (o == .abandoned) < 2 ^ 1 := Bool.toNat_lt _
  have flag := placeBit_bit (lo := 8) (by decide) (o == .abandoned)
  unfold placeBit at e flag
  subst e
  refine ⟨?_, ?_, ?_, ?_, ?_⟩ <;>
    simp [-BitVec.getLsbD_eq_getElem, BitVec.extractLsb'_or, BitVec.getLsbD_or, flag, place_field, place_field_apart hk, place_field_apart ht, place_field_apart hf,
      place_bit_apart hk, place_bit_apart ht]

/-! ### Blocks carried (12 section 12.1) -/

theorem dataWords_carries (d : BlockData) : CarriesData (dataWords d) d := by
  have h0 : Bool.toNat d[0].poison < 2 ^ 1 := Bool.toNat_lt _
  have h1 : Bool.toNat d[1].poison < 2 ^ 1 := Bool.toNat_lt _
  have h2 : Bool.toNat d[2].poison < 2 ^ 1 := Bool.toNat_lt _
  have h3 : Bool.toNat d[3].poison < 2 ^ 1 := Bool.toNat_lt _
  have marks : ∀ b : Fin 4, (placeBit 0 d[0].poison ||| placeBit 1 d[1].poison ||| placeBit 2 d[2].poison |||
      placeBit 3 d[3].poison).getLsbD b.val = (d[b]).poison := by
    have flag : ∀ lo < 4, ∀ x, (place lo (Bool.toNat x)).getLsbD lo = x := fun lo h x => placeBit_bit (by omega) x
    intro b
    unfold placeBit
    fin_cases b <;> simp [-BitVec.getLsbD_eq_getElem, BitVec.getLsbD_or, flag, place_bit_apart h0, place_bit_apart h1, place_bit_apart h2, place_bit_apart h3]
  refine ⟨_, _, rfl, by rw [toList_four]; rfl, ?_, fun b k => ⟨marks b, ?_⟩⟩
  · unfold placeBit
    simp [BitVec.extractLsb'_or, place_field_apart h0, place_field_apart h1, place_field_apart h2, place_field_apart h3]
  · rw [toList_four]
    fin_cases b <;> fin_cases k <;> rfl

/-! ### Messages that arrive (12 section 12.1) -/

/-- The kind codes. -/
theorem InKind.ofCode_iff (c : BitVec 5) (k : InKind) : InKind.ofCode c = some k ↔
    (c, k) ∈ [(0x01#5, InKind.req .fetchS), (0x02#5, .req .fetchX), (0x03#5, .req .upgrade), (0x04#5, .req .readOnce),
      (0x05#5, .req .writeThru), (0x06#5, .control), (0x09#5, .writeback), (0x0A#5, .evictClean), (0x0B#5, .recallAck)] := by
  cases k with
  | req q => cases q <;> (revert c; decide)
  | control => revert c; decide
  | writeback => revert c; decide
  | evictClean => revert c; decide
  | recallAck => revert c; decide

/-- R1: the block field of a kind that has one. -/
theorem InMsg.block_some {h : Word} {body : List Word} {k : InKind} (hk : InMsg.kind ⟨h, body⟩ = some k) (hc : k ≠ .control)
    (hb : body ≠ []) (hz : h.extractLsb' 26 2 = 0#2) :
    InMsg.block ⟨h, body⟩ = some (h.extractLsb' 24 2 ++ body.getD 0 0#32) := by
  have has : k.hasBlock = true := by cases k <;> simp_all [InKind.hasBlock]
  have long : 2 ≤ InMsg.length ⟨h, body⟩ := by
    have := List.length_pos_iff.mpr hb
    simp only [InMsg.length]
    omega
  unfold InMsg.block
  rw [hk]
  simp [has, long, field, hz, InMsg.word]

theorem InMsg.block_none {h : Word} {body : List Word} (hn : InMsg.kind ⟨h, body⟩ = none ∨ InMsg.kind ⟨h, body⟩ = some .control ∨
    body = [] ∨ h.extractLsb' 26 2 ≠ 0#2) : InMsg.block ⟨h, body⟩ = none := by
  unfold InMsg.block
  rcases hn with hn | hn | rfl | hn
  · rw [hn]
  · rw [hn]
    rfl
  · cases InMsg.kind ⟨h, []⟩ <;> simp [InMsg.length]
  · cases InMsg.kind ⟨h, body⟩ <;> simp [field, hn]

theorem InMsg.mask_getLsbD (m : InMsg) (n : Fin 32) : m.mask.getLsbD n.val = (m.word 2).getLsbD n.val ∧
    m.mask.getLsbD (n.val + 32) = (m.word 3).getLsbD n.val := by
  unfold InMsg.mask
  rw [BitVec.getLsbD_append, BitVec.getLsbD_append, if_pos n.isLt, if_neg (by omega), Nat.add_sub_cancel]
  exact ⟨rfl, rfl⟩

/-- Four words, the first lowest, and each of them again. -/
theorem append_word (x : Fin 4 → Word) (k : Fin 4) : (x 3 ++ x 2 ++ x 1 ++ x 0).extractLsb' (32 * k.val) 32 = x k := by
  refine BitVec.eq_of_getLsbD_eq fun i hi => ?_
  simp only [BitVec.getLsbD_extractLsb', BitVec.getLsbD_append, hi, decide_true, Bool.true_and]
  fin_cases k
  · simp [hi]
  · simp [hi, show ¬ 32 + i < 32 by omega]
  · simp [hi, show ¬ 64 + i < 32 by omega, show 64 + i - 32 = 32 + i by omega, show ¬ 32 + i < 32 by omega]
  · simp [hi, show ¬ 96 + i < 32 by omega, show 96 + i - 32 = 64 + i by omega, show ¬ 64 + i < 32 by omega,
      show 64 + i - 32 = 32 + i by omega, show ¬ 32 + i < 32 by omega]

theorem InMsg.beatsAt_beat (m : InMsg) (w : Nat) (b k : Fin 4) : ((m.beatsAt w)[b]).poison = (m.word w).getLsbD b.val ∧
    ((m.beatsAt w)[b]).data.extractLsb' (32 * k.val) 32 = m.word (w + 1 + 4 * b.val + k.val) := by
  have data : ((m.beatsAt w)[b]).data.extractLsb' (32 * k.val) 32 = (fun k : Fin 4 => m.word (w + 4 * b.val + 1 + k.val)) k := by
    refine Eq.trans ?_ (append_word (fun k : Fin 4 => m.word (w + 4 * b.val + 1 + k.val)) k)
    fin_cases b <;> rfl
  refine ⟨by fin_cases b <;> rfl, data.trans (congrArg m.word (by omega))⟩

/-- A well-formed message of the Return class, read. -/
theorem InMsg.parse_return {m : InMsg} {cls : MsgClass} {b : Block} (hw : m.wellFormed cls = true) (hb : m.block = some b) :
    (m.kind = some .writeback → m.parse cls = .writeback b (m.beatsAt 2)) ∧
      (m.kind = some .evictClean → m.parse cls = .evictClean b) ∧
      (m.kind = some .recallAck → m.parse cls = .recallAck b
        (if m.qualifier = 0 then .data (m.beatsAt 2) else if m.qualifier = 1 then .clean else .absent)) := by
  unfold InMsg.parse
  refine ⟨fun hk => ?_, fun hk => ?_, fun hk => ?_⟩
  · simp only [hw, hk, hb, if_true, Option.getD_some]
  · simp only [hw, hk, hb, if_true, Option.getD_some]
  · simp only [hw, hk, hb, if_true, Option.getD_some]
    split_ifs <;> rfl

/-! ### The messages that the bridge sends (R190) -/

/-- A message about a block. -/
theorem Msg.LaidOut.block {m : Msg} {tag : ReqTag} {kind qualifier detail : Nat} {b : Block} {rest : List Word}
    (hk : kind < 2 ^ 5) (hq : qualifier < 2 ^ 3) (hd : detail < 2 ^ 8) (h : m.words = blockWords tag kind qualifier detail b ++ rest) :
    m.LaidOut tag kind qualifier detail 0 b rest :=
  .of_words hk hq hd (by decide) h

/-- The messages about a block. -/
theorem Msg.blockMessages_laidOut (tag : ReqTag) (b : Block) (d : BlockData) :
    (∃ ws, CarriesData ws d ∧ (Msg.grantS tag b d).LaidOut tag 0x11 0 0 0 b ws ∧
      (Msg.grantX tag b d).LaidOut tag 0x12 0 0 0 b ws ∧ (Msg.data tag b d).LaidOut tag 0x14 0 0 0 b ws) ∧
    (Msg.grantUp tag b).LaidOut tag 0x13 0 0 0 b [] ∧ (Msg.done tag b).LaidOut tag 0x15 0 0 0 b [] ∧
    (∀ r x, (Msg.fault tag b r x).LaidOut tag 0x16 (if x = true then 1 else 0) r.code 0 b []) ∧
    (Msg.recall b .invalidate).LaidOut 0#8 0x18 0 0 0 b [] ∧ (Msg.recall b .downgrade).LaidOut 0#8 0x18 1 0 0 b [] := by
  refine ⟨⟨dataWords d, dataWords_carries d, ?_, ?_, ?_⟩, ?_, ?_, fun r x => ?_, ?_, ?_⟩
  case refine_6 => exact .block (by decide) (by cases x <;> decide) r.code_lt (by cases x <;> rfl)
  all_goals exact .block (by decide) (by decide) (by decide) rfl

/-- Settles O23: the words of each message by the fields of its header, and the fields of a message that arrives by the bits
of its words. -/
theorem messageWords : Obligations.MessageWords := by
  refine ⟨Msg.blockMessages_laidOut, fun tag st rs h => ?_, fun r v c => ?_, fun k o => ?_, ?_, ?_, ?_, fun m cls b => ?_⟩
  · exact .of_words (by decide) (by decide) st.code_lt (by omega) rfl
  · exact ⟨_, .of_words (by decide) (by decide) (by decide) (by decide) rfl, faultNotice_word r v c rfl⟩
  · exact ⟨_, .of_words (by decide) (by decide) (by decide) (by decide) rfl, jobNotice_word k o rfl⟩
  · exact .of_words (by decide) (by decide) (by decide) (by decide) rfl
  · exact ⟨rfl, rfl, rfl, rfl, rfl, rfl⟩
  · rintro h body m rfl
    exact ⟨rfl, rfl, rfl, rfl, rfl, rfl, fun _ => rfl, InKind.ofCode_iff _, fun k => InMsg.block_some, InMsg.block_none,
      InMsg.mask_getLsbD _, InMsg.beatsAt_beat _⟩
  · refine ⟨InMsg.parse_malformed, InMsg.parse_control, fun hw hb => ⟨fun k hk => ?_, InMsg.parse_return hw hb⟩⟩
    rw [InMsg.parse_req hw hk, hb]
    rfl

end Sys2Proof.Machine
end

section
/-! Departures (chapter 1, section 1.4; R10, R64, R65, R161, R171). -/

namespace Sys2Proof.Machine

/-! ### Messages of a TT index (R64, R65) -/

/-- The member that a RECALL is about changed, in an entry; an entry that has none, and any other message, change
nothing. -/
def TTEntry.onRecall (e : TTEntry) (m : Msg) (n : NodeId) (f : Member → Member) : TTEntry :=
  match m with
  | .recall b _ => match e.claims b with
    | some r => e.modMember r n f
    | none => e
  | _ => e

theorem TTEntry.onRecall_claims {e : TTEntry} {m : Msg} {b : Block} {k : RecallKind} {r : Role} (hm : m = .recall b k)
    (hr : e.claims b = some r) (n : NodeId) (f : Member → Member) : e.onRecall m n f = e.modMember r n f := by
  subst hm
  unfold TTEntry.onRecall
  simp only [hr]

theorem TTEntry.onRecall_none {e : TTEntry} {m : Msg} (h : ∀ b k r, m = .recall b k → e.claims b ≠ some r) (n : NodeId)
    (f : Member → Member) : e.onRecall m n f = e := by
  unfold TTEntry.onRecall
  split
  · next b k =>
    split
    · next r hr => exact absurd hr (h b k r rfl)
    · rfl
  · rfl

theorem TTEntry.modMember_held (e : TTEntry) (r : Role) (n : NodeId) (f : Member → Member) : (e.modMember r n f).held = e.held := by
  cases r <;> rfl

theorem TTEntry.modMember_setHeld (e : TTEntry) (r : Role) (n : NodeId) (f : Member → Member) (l : List (NodeId × Msg)) :
    ({ e with held := l } : TTEntry).modMember r n f = { e.modMember r n f with held := l } := by
  cases r <;> rfl

theorem TTEntry.onRecall_held (e : TTEntry) (m : Msg) (n : NodeId) (f : Member → Member) : (e.onRecall m n f).held = e.held := by
  unfold TTEntry.onRecall
  repeat' split
  · exact e.modMember_held _ n f
  · rfl
  · rfl

/-- The members of a recall set are no part of what an entry claims. -/
theorem TTEntry.modMember_claims (e : TTEntry) (r : Role) (n : NodeId) (f : Member → Member) (b : Block) :
    (e.modMember r n f).claims b = e.claims b := by
  cases r with
  | primary => rfl
  | victim => cases hv : e.victim <;> simp [TTEntry.claims, TTEntry.blockOf, TTEntry.modMember, TTEntry.setRecalls, hv]

theorem TTEntry.onRecall_claimsOf (e : TTEntry) (m : Msg) (n : NodeId) (f : Member → Member) (b : Block) :
    (e.onRecall m n f).claims b = e.claims b := by
  unfold TTEntry.onRecall
  repeat' split
  · exact e.modMember_claims _ n f b
  · rfl
  · rfl

/-- R64, R65: the index of a queued message: its pacing mark, and the member of a RECALL. -/
theorem State.queueTT_ttSlot (s : State) (i : TTIdx) (n : NodeId) (m : Msg) (j : TTIdx) :
    (s.queueTT i n m).ttSlot j = if j = i then
      ⟨(s.ttSlot i).pacing.add n, (s.ttSlot i).work.map fun e => e.onRecall m n fun x => { x with sent := .queued }⟩
      else s.ttSlot j := by
  have marked : ∀ u : State, u = (s.enqueue n (.tt i) m).modTT i (fun t => { t with pacing := t.pacing.add n }) →
      ∀ f : TTEntry → TTEntry, (u.modEntry i f).ttSlot j =
        if j = i then ⟨(s.ttSlot i).pacing.add n, (s.ttSlot i).work.map f⟩ else s.ttSlot j := by
    rintro u rfl f
    unfold State.modEntry
    rw [State.modTT_ttSlot, State.modTT_ttSlot, State.modTT_ttSlot]
    by_cases e : j = i
    · simp [e]
    · simp [e]
  unfold State.queueTT
  split
  · next b k =>
    refine (marked _ rfl _).trans ?_
    rfl
  · next hm =>
    have same : (fun e : TTEntry => e.onRecall m n fun x => { x with sent := .queued }) = id :=
      funext fun e => e.onRecall_none (fun b k r hb => (hm b k hb).elim) n _
    rw [same, Option.map_id, State.modTT_ttSlot]
    rfl

theorem State.queueTT_port (s : State) (i : TTIdx) (n : NodeId) (m : Msg) (k : NodeId) :
    (s.queueTT i n m).port k = if k = n then (s.port n).send [⟨m, .tt i⟩] else s.port k := by
  have ports : (s.queueTT i n m).ports = (s.enqueue n (.tt i) m).ports := by
    unfold State.queueTT
    split <;> rfl
  rw [State.port_congr ports, State.enqueue_port]
  rfl

/-- R64: with no message held for the node, the pacing mark clears. -/
theorem State.clearPacing_unheld {s : State} {i : TTIdx} {n : NodeId} (h : ∀ e, s.entry i = some e → ∀ p ∈ e.held, p.1 ≠ n) :
    s.clearPacing i n = s.modTT i fun t => { t with pacing := t.pacing.del n } := by
  have held : (((s.modTT i fun t => { t with pacing := t.pacing.del n }).entry i).bind fun e =>
      e.held.find? fun p => p.1 == n) = none := by
    have entry : (s.modTT i fun t => { t with pacing := t.pacing.del n }).entry i = s.entry i := by
      rw [State.entry, State.modTT_ttSlot_self]
      rfl
    rw [entry]
    cases he : s.entry i with
    | none => rfl
    | some e =>
      refine List.find?_eq_none.mpr fun p hp => ?_
      simpa using h e he p hp
  unfold State.clearPacing State.flushHeld
  rw [held]

/-- R64: the first message held for the node is queued in its turn. -/
theorem State.clearPacing_held {s : State} {i : TTIdx} {n : NodeId} {e : TTEntry} {front back : List (NodeId × Msg)} {w : Msg}
    (he : s.entry i = some e) (hh : e.held = front ++ (n, w) :: back) (hf : ∀ p ∈ front, p.1 ≠ n) :
    s.clearPacing i n = ((s.modTT i fun t => { t with pacing := t.pacing.del n }).modEntry i fun e =>
      { e with held := e.held.eraseP fun p => p.1 == n }).queueTT i n w := by
  have entry : (s.modTT i fun t => { t with pacing := t.pacing.del n }).entry i = some e := by
    rw [State.entry, State.modTT_ttSlot_self]
    exact he
  have held : (((s.modTT i fun t => { t with pacing := t.pacing.del n }).entry i).bind fun e =>
      e.held.find? fun p => p.1 == n) = some (n, w) := by
    rw [entry]
    refine List.find?_eq_some_iff_append.mpr ⟨by simp, front, back, hh, fun p hp => ?_⟩
    simpa using hf p hp
  unfold State.clearPacing State.flushHeld
  rw [held]

theorem eraseP_append_first {front back : List (NodeId × Msg)} {n : NodeId} (w : Msg) (hf : ∀ p ∈ front, p.1 ≠ n) :
    (front ++ (n, w) :: back).eraseP (fun p => p.1 == n) = front ++ back := by
  rw [List.eraseP_append_right _ fun p hp => by simpa using hf p hp]
  simp

/-- The index once a held message has been queued in its turn. -/
theorem State.clearPacing_held_slot {s : State} {i : TTIdx} {n : NodeId} {e : TTEntry} {front back : List (NodeId × Msg)} {w : Msg}
    (he : s.entry i = some e) (hh : e.held = front ++ (n, w) :: back) (hf : ∀ p ∈ front, p.1 ≠ n) :
    (s.clearPacing i n).ttSlot i = ⟨((s.ttSlot i).pacing.del n).add n,
      some (({ e with held := front ++ back } : TTEntry).onRecall w n fun x => { x with sent := .queued })⟩ ∧
    ∀ k, (s.clearPacing i n).port k = if k = n then (s.port n).send [⟨w, .tt i⟩] else s.port k := by
  have work : (s.ttSlot i).work = some e := he
  rw [State.clearPacing_held he hh hf]
  refine ⟨?_, fun k => ?_⟩
  · rw [State.queueTT_ttSlot, if_pos rfl]
    unfold State.modEntry
    simp only [State.modTT_ttSlot_self, work, Option.map_some, hh, eraseP_append_first w hf]
  · rw [State.queueTT_port]
    rfl

/-! ### What a departure does at the producer (R10) -/

/-- R65: the departure of a RECALL starts its member's deadline; another message concerns no member. -/
def State.recallLeaves (s : State) (i : TTIdx) (n : NodeId) (m : Msg) : State :=
  match m with
  | .recall b _ => s.recallDeparted i n b
  | _ => s

/-- R65: the member of a RECALL once it has departed at a time with a timeout. -/
def Member.leaves (now : Time) (timeout : Timeout) (m : Member) : Member :=
  if m.resolved then m else { m with sent := .departed, deadline := some (now + timeout.zeroExtend 32) }

theorem State.recallLeaves_ttSlot (s : State) (i : TTIdx) (n : NodeId) (m : Msg) (j : TTIdx) :
    (s.recallLeaves i n m).ttSlot j = if j = i then
      ⟨(s.ttSlot i).pacing,
        (s.ttSlot i).work.map fun e => e.onRecall m n (Member.leaves s.timeBase (s.node n).recallTimeout)⟩ else s.ttSlot j := by
  unfold State.recallLeaves
  split
  · next b k => exact State.modTT_ttSlot s i j _
  · next hm =>
    have same : (fun e : TTEntry => e.onRecall m n (Member.leaves s.timeBase (s.node n).recallTimeout)) = id :=
      funext fun e => e.onRecall_none (fun b k r hb => (hm b k hb).elim) n _
    rw [same, Option.map_id]
    split
    · next e => rw [e]; rfl
    · rfl

theorem State.recallLeaves_entry (s : State) (i : TTIdx) (n : NodeId) (m : Msg) : (s.recallLeaves i n m).entry i =
    (s.entry i).map fun e => e.onRecall m n (Member.leaves s.timeBase (s.node n).recallTimeout) := by
  rw [State.entry, State.recallLeaves_ttSlot, if_pos rfl]
  rfl

theorem State.departed_tt (s : State) (n : NodeId) (m : Msg) (i : TTIdx) :
    s.departed n ⟨m, .tt i⟩ = (s.recallLeaves i n m).clearPacing i n := by cases m <;> rfl

/-- R171: the slot of a FAULT_NOTICE that has departed. -/
theorem CaptureSlot.noticeGone_eq (t : CaptureSlot) (x : Bool) (next : NoticeState) : t.noticeGone x next = { t with
    outstanding := false
    lockNotice := if x = false ∧ t.lockNotice = .queued then next else t.lockNotice
    escalationNotice := if x = true ∧ t.escalationNotice = .queued then next else t.escalationNotice } := by
  cases x <;> simp [CaptureSlot.noticeGone]

theorem Gentle.departed (s : State) (n : NodeId) (m : OutMsg) : Gentle s (s.departed n m) := by
  obtain ⟨msg, producer⟩ := m
  cases producer with
  | tt i =>
    have marked : Gentle s (s.recallLeaves i n msg) := by
      unfold State.recallLeaves
      split
      · exact modEntry s i _
      · exact refl s
    have paced : Gentle (s.recallLeaves i n msg) ((s.recallLeaves i n msg).modTT i fun t => { t with pacing := t.pacing.del n }) :=
      aside rfl rfl rfl rfl rfl
    rw [State.departed_tt]
    exact (marked.trans paced).trans (work (Work.flushHeld _ i n))
  | wb w => exact setWB s w none
  | intake => exact aside rfl rfl rfl rfl rfl
  | agent => exact aside rfl rfl rfl rfl rfl
  | capture c x =>
    have released : Gentle s (s.modSlot c fun t => t.noticeGone x .delivered) := by
      refine ⟨rfl, rfl, rfl, fun k => ⟨[], (Port.send_nil _).symm⟩, fun k r h => ?_⟩
      rw [State.modSlot_slot]
      split
      · next e => subst e; rw [CaptureSlot.noticeGone_eq]; exact h
      · exact h
    exact released.trans (work (Work.queueNotice _ c))
  | job k => cases k <;> exact aside rfl rfl rfl rfl rfl
  | nodeManager => exact refl s

/-- The Control Queue, the refusal marks and the Writeback Buffer, of which a departure releases its producer. -/
theorem State.departed_releases (s : State) (n : NodeId) (m : OutMsg) : (s.departed n m).controlQ = s.controlQ ∧
    (s.departed n m).refusalMarks = (if m.producer = .intake then s.refusalMarks.del n else s.refusalMarks) ∧
    ∀ w, (s.departed n m).wbEntry w = if m.producer = .wb w then none else s.wbEntry w := by
  obtain ⟨msg, producer⟩ := m
  cases producer with
  | tt i =>
    have calm := Calm.of_work (Work.flushHeld (sw := False) ((s.recallLeaves i n msg).modTT i fun t =>
      { t with pacing := t.pacing.del n }) i n)
    have marked : (s.recallLeaves i n msg).controlQ = s.controlQ ∧ (s.recallLeaves i n msg).refusalMarks = s.refusalMarks ∧
        (s.recallLeaves i n msg).wb = s.wb := by
      unfold State.recallLeaves
      split <;> exact ⟨rfl, rfl, rfl⟩
    obtain ⟨h1, h2, h3⟩ := marked
    rw [State.departed_tt]
    refine ⟨calm.controlQ.trans h1, calm.refusalMarks.trans h2, fun w => ?_⟩
    have wb : ((s.recallLeaves i n msg).clearPacing i n).wb = s.wb := calm.wb.trans h3
    rw [State.wbEntry, wb]
    rfl
  | wb v =>
    refine ⟨rfl, rfl, fun w => (s.setWB_wbEntry v w none).trans ?_⟩
    simp [eq_comm]
  | intake => exact ⟨rfl, rfl, fun _ => rfl⟩
  | agent => exact ⟨rfl, rfl, fun _ => rfl⟩
  | capture c x =>
    have same := (s.modSlot c fun t => t.noticeGone x .delivered).queueNotice_same c
    refine ⟨same.controlQ, same.refusalMarks, fun w => ?_⟩
    have wb : (s.departed n ⟨msg, .capture c x⟩).wb = s.wb := same.wb
    rw [State.wbEntry, wb]
    rfl
  | job k => cases k <;> exact ⟨rfl, rfl, fun _ => rfl⟩
  | nodeManager => exact ⟨rfl, rfl, fun _ => rfl⟩

theorem State.departed_agent {s : State} {n : NodeId} {m : OutMsg} (h : m.producer = .agent) : (s.departed n m).agent = .ready := by
  unfold State.departed
  rw [h]

/-- R161: the jobs behind the departure of a JOB_NOTICE, and the node of a fence job (R137). -/
theorem State.departed_job {s : State} {n : NodeId} {m : OutMsg} {k : JobKind} (h : m.producer = .job k) :
    (s.departed n m).jobs.map (·.kind) = (s.jobs.map (·.kind)).filter (· != k) ∧
      ∀ j, k = .fenceNode j → ((s.departed n m).node j).fenceJob = false := by
  have leaves : s.departed n m = s.jobLeaves k := by
    unfold State.departed
    rw [h]
  rw [leaves, List.filter_map]
  refine ⟨by cases k <;> rfl, ?_⟩
  rintro j rfl
  exact congrArg NodeRec.fenceJob (State.modNode_node_self _ j _)

/-! ### The departure -/

theorem exec_departure {s : State} (hr : s.running = true) (n : NodeId) : exec (.departure n) s = .next (s.beginStep.depart n) :=
  run_running (fun s => s.depart n) s hr

theorem State.depart_nil {s : State} {n : NodeId} (h : (s.port n).outbound = []) : s.depart n = s := by
  unfold State.depart
  rw [h]

/-- The state in which the head of an Outbound Queue has left it. -/
def State.headLeaves (s : State) (n : NodeId) (m : OutMsg) (rest : List OutMsg) : State :=
  (s.emit (if (s.port n).link = .up then .deliver n m.msg.words else .lost n)).modPort n fun p => { p with outbound := rest }

theorem State.depart_cons {s : State} {n : NodeId} {m : OutMsg} {rest : List OutMsg} (h : (s.port n).outbound = m :: rest) :
    s.depart n = ((s.headLeaves n m rest).departed n m).settle := by
  unfold State.depart
  rw [h]
  rfl

theorem State.headLeaves_port (s : State) (n k : NodeId) (m : OutMsg) (rest : List OutMsg) :
    (s.headLeaves n m rest).port k = if k = n then { s.port n with outbound := rest } else s.port k :=
  State.modPort_port (s.emit _) n k _

/-- R171: the departure of a slot's FAULT_NOTICE. -/
theorem State.departed_capture (s : State) (n : NodeId) (k : CaptureClass) (x : Bool) (m : Msg) {u : CaptureSlot}
    (hu : u = (s.slot k).noticeGone x .delivered) :
    (∀ j, j ≠ k → (s.departed n ⟨m, .capture k x⟩).slot j = s.slot j) ∧
    (s.reachable = false ∨ u.owed k = none →
      (s.departed n ⟨m, .capture k x⟩).slot k = u ∧ (s.departed n ⟨m, .capture k x⟩).ports = s.ports) ∧
    (∀ o, s.reachable = true → u.owed k = some o →
      (s.departed n ⟨m, .capture k x⟩).slot k = u.told k ∧
      ((s.departed n ⟨m, .capture k x⟩).port s.noticeNode).outbound = (s.port s.noticeNode).outbound ++ [o] ∧
      ∀ j, j ≠ s.noticeNode → (s.departed n ⟨m, .capture k x⟩).port j = s.port j) := by
  have departed : s.departed n ⟨m, .capture k x⟩ = (s.modSlot k fun t => t.noticeGone x .delivered).queueNotice k := rfl
  have slot : (s.modSlot k fun t => t.noticeGone x .delivered).slot k = u := by rw [State.modSlot_slot_self, hu]
  have reach : (s.modSlot k fun t => t.noticeGone x .delivered).reachable = s.reachable := rfl
  rw [departed]
  refine ⟨fun j hj => ?_, fun h => ?_, fun o hr ho => ?_⟩
  · rw [State.queueNotice_slot, if_neg fun h => hj h.1, State.modSlot_slot, if_neg hj]
  · have quiet : (s.modSlot k fun t => t.noticeGone x .delivered).queueNotice k = s.modSlot k fun t => t.noticeGone x .delivered := by
      rcases h with h | h
      · exact State.queueNotice_unreachable _ k (reach.trans h)
      · exact State.queueNotice_none _ k (by rw [slot]; exact h)
    rw [quiet]
    exact ⟨slot, rfl⟩
  · refine ⟨?_, ?_, fun j hj => ?_⟩
    · rw [State.queueNotice_slot, if_pos ⟨rfl, reach.trans hr⟩, slot]
    · rw [State.queueNotice_port, if_pos ⟨rfl, reach.trans hr⟩, slot, ho]
      rfl
    · rw [State.queueNotice_port, if_neg fun h => hj h.1]
      rfl

/-- R10, R11: the departure of the head of an Outbound Queue. -/
theorem exec_departure_head {s : State} {n : NodeId} {m : OutMsg} {rest : List OutMsg} (hr : s.running = true)
    (ho : (s.port n).outbound = m :: rest) : ∃ t, exec (.departure n) s = .next t ∧
      t.out = [if (s.port n).link = .up then .deliver n m.msg.words else .lost n] ∧
      (∃ ms, (t.port n).outbound = rest ++ ms) ∧
      (∀ k, k ≠ n → ∃ ms, (t.port k).outbound = (s.port k).outbound ++ ms) ∧
      (∀ k, (t.port k).link = (s.port k).link) ∧ t.controlQ = s.controlQ ∧ t.timeBase = s.timeBase ∧
      (∀ k r, (s.slot k).record = some r → (t.slot k).record = some r) ∧
      (m.producer = .intake → t.refusalMarks = s.refusalMarks.del n) ∧
      (m.producer ≠ .intake → t.refusalMarks = s.refusalMarks) ∧
      (∀ w, m.producer = .wb w → t.wbEntry w = none) ∧
      (∀ w, m.producer ≠ .wb w → t.wbEntry w = s.wbEntry w) ∧
      (m.producer = .agent → t.agent = .ready) ∧
      (∀ k, m.producer = .job k → t.jobs.map (·.kind) = (s.jobs.map (·.kind)).filter (· != k)) ∧
      (∀ k, m.producer = .job (.fenceNode k) → (t.node k).fenceJob = false) ∧
      t = ((s.beginStep.headLeaves n m rest).departed n m).settle := by
  have gentle := Gentle.departed (s.beginStep.headLeaves n m rest) n m
  have calm := Calm.settle ((s.beginStep.headLeaves n m rest).departed n m)
  obtain ⟨control, marks, wb⟩ := (s.beginStep.headLeaves n m rest).departed_releases n m
  have port := fun k => s.beginStep.headLeaves_port n k m rest
  have wbEntry : ∀ w, ((s.beginStep.headLeaves n m rest).departed n m).settle.wbEntry w =
      if m.producer = .wb w then none else s.wbEntry w := fun w => by
    rw [State.wbEntry, calm.wb]
    exact wb w
  have outbound : ∀ k, ∃ ms, (((s.beginStep.headLeaves n m rest).departed n m).settle.port k).outbound =
      ((s.beginStep.headLeaves n m rest).port k).outbound ++ ms := fun k => by
    obtain ⟨a, ha⟩ := gentle.outbound k
    obtain ⟨b, hb⟩ := calm.outbound k
    exact ⟨a ++ b, by rw [hb, ha, List.append_assoc]⟩
  refine ⟨_, (exec_departure hr n).trans (congrArg _ (State.depart_cons (s := s.beginStep) ho)), calm.out.trans gentle.out,
    ?_, fun k hk => ?_, fun k => ?_, calm.controlQ.trans control, calm.timeBase.trans gentle.timeBase,
    fun k r h => calm.record k r (gentle.record k r h), fun h => ?_, fun h => ?_, fun w h => ?_, fun w h => ?_, fun h => ?_,
    fun k h => ?_, fun k h => ?_, rfl⟩
  · obtain ⟨ms, h⟩ := outbound n
    exact ⟨ms, by rw [h, port, if_pos rfl]⟩
  · obtain ⟨ms, h⟩ := outbound k
    exact ⟨ms, by rw [h, port, if_neg hk]; rfl⟩
  · obtain ⟨ms, h⟩ := gentle.port k
    rw [calm.link, h, Port.send_link, port]
    split
    · next e => rw [e]; rfl
    · rfl
  · exact calm.refusalMarks.trans (marks.trans (if_pos h))
  · exact calm.refusalMarks.trans (marks.trans (if_neg h))
  · rw [wbEntry, if_pos h]
  · rw [wbEntry, if_neg h]
  · have ready := State.departed_agent (s := s.beginStep.headLeaves n m rest) (n := n) h
    exact (calm.agent (.inl ready)).trans ready
  · exact calm.jobKinds.trans (State.departed_job h).1
  · have node := congrArg NodeRec.fenceJob (calm.node k)
    exact node.trans ((State.departed_job h).2 k rfl)

theorem State.recallLeaves_ports (s : State) (i : TTIdx) (n : NodeId) (m : Msg) : (s.recallLeaves i n m).ports = s.ports := by
  unfold State.recallLeaves
  split <;> rfl

/-- R64: the departure of a message of an index that holds none for the node. -/
theorem State.departed_unheld {s : State} {i : TTIdx} {n : NodeId} (m : Msg)
    (h : ∀ e, s.entry i = some e → ∀ p ∈ e.held, p.1 ≠ n) :
    (∀ j, (s.departed n ⟨m, .tt i⟩).ttSlot j = if j = i then ⟨(s.ttSlot i).pacing.del n,
      (s.entry i).map fun e => e.onRecall m n (Member.leaves s.timeBase (s.node n).recallTimeout)⟩ else s.ttSlot j) ∧
    (s.departed n ⟨m, .tt i⟩).ports = s.ports := by
  have unheld : ∀ e, (s.recallLeaves i n m).entry i = some e → ∀ p ∈ e.held, p.1 ≠ n := fun e he => by
    rw [State.recallLeaves_entry] at he
    obtain ⟨x, hx, rfl⟩ := Option.map_eq_some_iff.mp he
    rw [TTEntry.onRecall_held]
    exact h x hx
  rw [State.departed_tt, State.clearPacing_unheld unheld]
  refine ⟨fun j => ?_, s.recallLeaves_ports i n m⟩
  rw [State.modTT_ttSlot, State.recallLeaves_ttSlot, State.recallLeaves_ttSlot, if_pos rfl]
  split
  · rfl
  · rfl

theorem State.unheld_of_entry {s : State} {i : TTIdx} {n : NodeId} {e : TTEntry} (he : s.entry i = some e)
    (hh : ∀ p ∈ e.held, p.1 ≠ n) : ∀ x, s.entry i = some x → ∀ p ∈ x.held, p.1 ≠ n := fun x hx => by
  rw [he] at hx
  cases hx
  exact hh

theorem State.departed_unheld_entry {s : State} {i : TTIdx} {n : NodeId} {e : TTEntry} (m : Msg) (he : s.entry i = some e)
    (hh : ∀ p ∈ e.held, p.1 ≠ n) : (s.departed n ⟨m, .tt i⟩).entry i =
      some (e.onRecall m n (Member.leaves s.timeBase (s.node n).recallTimeout)) := by
  rw [State.entry, (State.departed_unheld m (State.unheld_of_entry he hh)).1, if_pos rfl, he]
  rfl

/-- R64: the departure of a message of an index that holds one for the node. -/
theorem State.departed_held {s : State} {i : TTIdx} {n : NodeId} {e : TTEntry} {front back : List (NodeId × Msg)} (m w : Msg)
    (he : s.entry i = some e) (hh : e.held = front ++ (n, w) :: back) (hf : ∀ p ∈ front, p.1 ≠ n) :
    (s.departed n ⟨m, .tt i⟩).ttSlot i = ⟨((s.ttSlot i).pacing.del n).add n,
      some (TTEntry.onRecall { e.onRecall m n (Member.leaves s.timeBase (s.node n).recallTimeout) with held := front ++ back }
        w n fun x => { x with sent := .queued })⟩ ∧
    ∀ k, (s.departed n ⟨m, .tt i⟩).port k = if k = n then (s.port n).send [⟨w, .tt i⟩] else s.port k := by
  have entry : (s.recallLeaves i n m).entry i =
      some (e.onRecall m n (Member.leaves s.timeBase (s.node n).recallTimeout)) := by rw [State.recallLeaves_entry, he]; rfl
  obtain ⟨slot, port⟩ := State.clearPacing_held_slot entry ((e.onRecall_held m n _).trans hh) hf
  rw [State.departed_tt, slot]
  refine ⟨?_, fun k => ?_⟩
  · rw [State.recallLeaves_ttSlot, if_pos rfl]
  · rw [port, State.port_congr (s.recallLeaves_ports i n m), State.port_congr (s.recallLeaves_ports i n m)]

/-- Settles O21: the departure of a head, what it does at a slot, and what it does at an entry of the Transaction Table. -/
theorem departures : Obligations.Departures := by
  refine ⟨fun s n hr hn => ?_, fun s n m rest hr ho => exec_departure_head hr ho, fun s n k x m u hu => ?_,
    fun s i n b k e r he hc hh => ?_, fun s i n e m he hh => ?_, fun s i n m he => ?_, fun s i n m e he hh => ?_,
    fun s i n m w e f front back he hh hf hm hr => ?_⟩
  · rw [exec_departure hr, State.depart_nil (s := s.beginStep) hn]
  · have gone : u = (s.slot k).noticeGone x .delivered := hu.trans (CaptureSlot.noticeGone_eq _ _ _).symm
    obtain ⟨others, quiet, queued⟩ := s.departed_capture n k x m gone
    refine ⟨others, quiet, fun o hr ho => ?_⟩
    rw [← CaptureSlot.told_some ho]
    exact queued o hr ho
  · rw [State.departed_unheld_entry _ he hh, TTEntry.onRecall_claims rfl hc]
    rfl
  · rw [(State.departed_unheld m (State.unheld_of_entry he hh)).1, if_pos rfl]
  · have unheld : ∀ x, s.entry i = some x → ∀ p ∈ x.held, p.1 ≠ n := fun x hx => by
      rw [he] at hx
      cases hx
    obtain ⟨slot, ports⟩ := State.departed_unheld m unheld
    refine ⟨?_, fun j hj => (slot j).trans (if_neg hj), ports⟩
    rw [slot, if_pos rfl, he]
    rfl
  · refine ⟨(State.departed_unheld m (State.unheld_of_entry he hh)).2, fun hm => ?_⟩
    rw [State.departed_unheld_entry m he hh, TTEntry.onRecall_none hm]
  · obtain ⟨slot, port⟩ := State.departed_held m w he hh hf
    have left : f = { e.onRecall m n (Member.leaves s.timeBase (s.node n).recallTimeout) with held := front ++ back } := by
      by_cases h : ∃ b k r, m = .recall b k ∧ e.claims b = some r
      · obtain ⟨b, k, r, hb, hc⟩ := h
        rw [hr b k r hb hc, TTEntry.onRecall_claims hb hc, TTEntry.modMember_setHeld]
        rfl
      · have none : ∀ b k r, m = .recall b k → e.claims b ≠ some r := fun b k r hb hc => h ⟨b, k, r, hb, hc⟩
        rw [hm none, TTEntry.onRecall_none none]
    have claims : ∀ b, f.claims b = e.claims b := fun b => by
      rw [left]
      exact e.onRecall_claimsOf m n _ b
    have entry : (s.departed n ⟨m, .tt i⟩).entry i = some (f.onRecall w n fun x => { x with sent := .queued }) := by
      rw [State.entry, slot, left]
    refine ⟨?_, fun j hj => (port j).trans (if_neg hj), by rw [slot], fun hw => ?_, fun b k r hb hc => ?_⟩
    · rw [port, if_pos rfl]
      rfl
    · rw [entry, TTEntry.onRecall_none fun b k r hb => by rw [claims]; exact hw b k r hb]
    · rw [entry, TTEntry.onRecall_claims hb ((claims b).trans hc)]

end Sys2Proof.Machine
end

section
/-! The first part of a fence: the record, the port with the withdrawn messages, the Hold Queue and the entries (chapter 8,
section 8.3; R12, R64, R69, R142). -/

namespace Sys2Proof.Machine

/-! ### The messages withdrawn (R12, R161, R171) -/

section
variable (n : NodeId)

/-- What the withdrawal of a producer's messages makes of a part of the state, when a second withdrawal makes no
difference. -/
theorem foldl_withdraw {α : Type} {get : State → α} {g : α → α} (q : Producer) (idem : ∀ x, g (g x) = g x)
    (step : ∀ s m, get (State.withdraw n s m) = if m.producer = q then g (get s) else get s) (l : List OutMsg) (s : State) :
    get (l.foldl (State.withdraw n) s) = if q ∈ l.map OutMsg.producer then g (get s) else get s := by
  induction l generalizing s with
  | nil => simp
  | cons m l ih =>
    have mem : q ∈ (m :: l).map OutMsg.producer ↔ m.producer = q ∨ q ∈ l.map OutMsg.producer := by simp [eq_comm]
    rw [List.foldl_cons, ih, step]
    simp only [mem]
    by_cases h1 : m.producer = q <;> by_cases h2 : q ∈ l.map OutMsg.producer <;> simp only [h1, h2, idem, true_or, or_true,
      or_self, if_true, if_false]

theorem NodeSet.del_del (x : NodeSet) : (x.del n).del n = x.del n := by
  unfold NodeSet.del
  rw [BitVec.and_assoc, BitVec.and_self]

variable (l : List OutMsg) (s : State)

theorem foldl_withdraw_refusalMarks : (l.foldl (State.withdraw n) s).refusalMarks =
    if .intake ∈ l.map OutMsg.producer then s.refusalMarks.del n else s.refusalMarks := by
  refine foldl_withdraw n (get := State.refusalMarks) (g := fun x => x.del n) .intake (NodeSet.del_del n) (fun s m => ?_) l s
  unfold State.withdraw
  cases m.producer <;> simp

theorem foldl_withdraw_agent : (l.foldl (State.withdraw n) s).agent =
    if .agent ∈ l.map OutMsg.producer then .ready else s.agent := by
  refine foldl_withdraw n (get := State.agent) (g := fun _ => .ready) .agent (fun _ => rfl) (fun s m => ?_) l s
  unfold State.withdraw
  cases m.producer <;> simp

theorem foldl_withdraw_pacing (i : TTIdx) : ((l.foldl (State.withdraw n) s).ttSlot i).pacing =
    if .tt i ∈ l.map OutMsg.producer then (s.ttSlot i).pacing.del n else (s.ttSlot i).pacing := by
  refine foldl_withdraw n (get := fun s => (s.ttSlot i).pacing) (g := fun x => x.del n) (.tt i) (NodeSet.del_del n) (fun s m => ?_) l s
  unfold State.withdraw
  cases m.producer with
  | tt j =>
    simp only [Producer.tt.injEq, State.modTT_ttSlot]
    by_cases e : i = j
    · simp [e]
    · simp [e, Ne.symm e]
  | _ => simp [State.ttSlot]

theorem foldl_withdraw_wbEntry (w : WBIdx) : (l.foldl (State.withdraw n) s).wbEntry w =
    if .wb w ∈ l.map OutMsg.producer then none else s.wbEntry w := by
  refine foldl_withdraw n (get := fun s => s.wbEntry w) (g := fun _ => none) (.wb w) (fun _ => rfl) (fun s m => ?_) l s
  unfold State.withdraw
  cases m.producer with
  | wb v =>
    simp only [Producer.wb.injEq, State.setWB_wbEntry]
    simp [eq_comm]
  | _ => simp [State.wbEntry]

/-- R12, R171: a slot whose notices among the messages of some producers have been withdrawn. -/
def CaptureSlot.withdrawn (t : CaptureSlot) (k : CaptureClass) (ps : List Producer) : CaptureSlot := { t with
  lockNotice := if .capture k false ∈ ps ∧ t.lockNotice = .queued then .pending else t.lockNotice
  escalationNotice := if .capture k true ∈ ps ∧ t.escalationNotice = .queued then .pending else t.escalationNotice
  outstanding := if .capture k false ∈ ps ∨ .capture k true ∈ ps then false else t.outstanding }

theorem CaptureSlot.withdrawn_nil (t : CaptureSlot) (k : CaptureClass) : t.withdrawn k [] = t := by simp [CaptureSlot.withdrawn]

theorem CaptureSlot.withdrawn_gone (t : CaptureSlot) (k : CaptureClass) (x : Bool) (ps : List Producer) :
    (t.noticeGone x .pending).withdrawn k ps = t.withdrawn k (.capture k x :: ps) := by
  cases x with
  | false =>
    by_cases h : t.lockNotice = .queued <;> by_cases h1 : Producer.capture k false ∈ ps <;>
      simp [CaptureSlot.withdrawn, CaptureSlot.noticeGone, h, h1]
  | true =>
    by_cases h : t.escalationNotice = .queued <;> by_cases h1 : Producer.capture k true ∈ ps <;>
      simp [CaptureSlot.withdrawn, CaptureSlot.noticeGone, h, h1]

theorem CaptureSlot.withdrawn_other (t : CaptureSlot) (k : CaptureClass) {p : Producer} (ps : List Producer)
    (h : ∀ x, p ≠ .capture k x) : t.withdrawn k (p :: ps) = t.withdrawn k ps := by
  simp [CaptureSlot.withdrawn, (h false).symm, (h true).symm]

theorem foldl_withdraw_slot (k : CaptureClass) :
    (l.foldl (State.withdraw n) s).slot k = (s.slot k).withdrawn k (l.map OutMsg.producer) := by
  induction l generalizing s with
  | nil => exact (CaptureSlot.withdrawn_nil _ k).symm
  | cons m l ih =>
    rw [List.foldl_cons, ih, List.map_cons]
    by_cases h : ∃ x, m.producer = .capture k x
    · obtain ⟨x, h⟩ := h
      have gone : (State.withdraw n s m).slot k = (s.slot k).noticeGone x .pending := by
        unfold State.withdraw
        rw [h]
        exact State.modSlot_slot_self s k _
      rw [gone, CaptureSlot.withdrawn_gone, h]
    · have other : (State.withdraw n s m).slot k = s.slot k := by
        unfold State.withdraw
        cases hp : m.producer with
        | capture c x =>
          have ne : k ≠ c := fun e => h ⟨x, by rw [hp, e]⟩
          simp only [State.modSlot_slot, if_neg ne]
        | _ => rfl
      rw [other, CaptureSlot.withdrawn_other _ k _ fun x e => h ⟨x, e⟩]

/-- R161: a job whose notice among the messages of some producers has been withdrawn. -/
def Job.withdrawn (ps : List Producer) (j : Job) : Job :=
  match j.phase with
  | .done o .queued => if .job j.kind ∈ ps then { j with phase := .done o .pending } else j
  | _ => j

theorem Job.withdrawn_cons (k : JobKind) (ps : List Producer) (j : Job) :
    (j.noticeWithdrawn k).withdrawn ps = j.withdrawn (.job k :: ps) := by
  obtain ⟨kind, phase⟩ := j
  cases phase with
  | done o x =>
    cases x with
    | queued => by_cases h : kind = k <;> by_cases hk : Producer.job k ∈ ps <;> simp [Job.withdrawn, Job.noticeWithdrawn, h, hk]
    | _ => rfl
  | _ => rfl

theorem Job.withdrawn_other {p : Producer} (ps : List Producer) (h : ∀ k, p ≠ .job k) (j : Job) :
    j.withdrawn (p :: ps) = j.withdrawn ps := by
  simp [Job.withdrawn, (h j.kind).symm]

theorem foldl_withdraw_jobs : (l.foldl (State.withdraw n) s).jobs = s.jobs.map (Job.withdrawn (l.map OutMsg.producer)) := by
  induction l generalizing s with
  | nil =>
    have none : Job.withdrawn [] = id := funext fun j => by
      obtain ⟨kind, phase⟩ := j
      cases phase with
      | done o x => cases x <;> rfl
      | _ => rfl
    rw [List.map_nil, none, List.map_id]
    rfl
  | cons m l ih =>
    rw [List.foldl_cons, ih, List.map_cons]
    by_cases h : ∃ k, m.producer = .job k
    · obtain ⟨k, h⟩ := h
      have gone : (State.withdraw n s m).jobs = s.jobs.map (Job.noticeWithdrawn k) := by
        unfold State.withdraw
        rw [h]
      rw [gone, List.map_map, h]
      exact List.map_congr_left fun j _ => Job.withdrawn_cons k _ j
    · have other : (State.withdraw n s m).jobs = s.jobs := by
        unfold State.withdraw
        cases hp : m.producer with
        | job k => exact absurd ⟨k, hp⟩ h
        | _ => rfl
      rw [other]
      exact List.map_congr_left fun j _ => (Job.withdrawn_other _ (fun k e => h ⟨k, e⟩) j).symm

end

/-! ### The state in which the notices are queued -/

/-- The first part of a fence: the record, the port, the Hold Queue and the entries. -/
def State.cutOff (s : State) (n : NodeId) (why : FenceReason) : State :=
  ((s.modNode n (NodeRec.fence why)).silencePort n).fenceRequests n

section
variable (s : State) (n : NodeId) (why : FenceReason)

theorem State.cutOff_slot (k : CaptureClass) : (s.cutOff n why).slot k = s.withdrawnSlot n k :=
  foldl_withdraw_slot n (s.port n).outbound ((s.modNode n (NodeRec.fence why)).modPort n fun p => { p.silenced with outbound := [] }) k

theorem State.cutOff_refusalMarks : (s.cutOff n why).refusalMarks =
    if .intake ∈ s.producers n then s.refusalMarks.del n else s.refusalMarks :=
  foldl_withdraw_refusalMarks n (s.port n).outbound _

theorem State.cutOff_agent : (s.cutOff n why).agent = if .agent ∈ s.producers n then .ready else s.agent :=
  foldl_withdraw_agent n (s.port n).outbound _

theorem State.cutOff_wbEntry (w : WBIdx) : (s.cutOff n why).wbEntry w = if .wb w ∈ s.producers n then none else s.wbEntry w :=
  foldl_withdraw_wbEntry n (s.port n).outbound _ w

theorem State.cutOff_jobs : (s.cutOff n why).jobs = s.jobs.map (Job.withdrawn (s.producers n)) :=
  foldl_withdraw_jobs n (s.port n).outbound _

theorem State.fenceRequests_ttSlot (i : TTIdx) :
    (s.fenceRequests n).ttSlot i = ⟨(s.ttSlot i).pacing, (s.ttSlot i).work.map (TTEntry.fenced n)⟩ := by
  simp [State.fenceRequests, State.ttSlot]

theorem State.cutOff_pacing (i : TTIdx) : ((s.cutOff n why).ttSlot i).pacing =
    if .tt i ∈ s.producers n then (s.ttSlot i).pacing.del n else (s.ttSlot i).pacing := by
  unfold State.cutOff
  rw [State.fenceRequests_ttSlot]
  exact foldl_withdraw_pacing n (s.port n).outbound _ i

theorem State.cutOff_entry (i : TTIdx) : (s.cutOff n why).entry i = (s.entry i).map (TTEntry.fenced n) := by
  have entry := (Withdrawn.foldl n (s.port n).outbound
    ((s.modNode n (NodeRec.fence why)).modPort n fun p => { p.silenced with outbound := [] })).entry i
  unfold State.cutOff
  rw [State.entry, State.fenceRequests_ttSlot]
  exact congrArg (Option.map (TTEntry.fenced n)) entry

theorem State.cutOff_node (m : NodeId) :
    (s.cutOff n why).node m = if m = n then (s.node n).fence why else s.node m :=
  (State.fence_first s n why _ rfl).2.1 m

theorem State.cutOff_port (m : NodeId) : (s.cutOff n why).port m = if m = n then
    { s.port n with requests := [], returns := [], requestCredits := 0, returnCredits := 0, outbound := [] } else s.port m :=
  (State.fence_first s n why _ rfl).2.2.1 m

theorem State.cutOff_rest : (s.cutOff n why).fenceRest = s.fenceRest := (State.fence_first s n why _ rfl).1

theorem State.cutOff_noticeNode : (s.cutOff n why).noticeNode = s.noticeNode := by
  have rest := s.cutOff_rest n why
  simp only [State.fenceRest, Prod.mk.injEq] at rest
  obtain ⟨-, -, -, -, -, -, -, h, -⟩ := rest
  exact h

theorem State.cutOff_timeBase : (s.cutOff n why).timeBase = s.timeBase := by
  have rest := s.cutOff_rest n why
  simp only [State.fenceRest, Prod.mk.injEq] at rest
  obtain ⟨-, -, -, -, -, -, h, -⟩ := rest
  exact h

/-- R143, R147: once a node is FENCED the notice node is reachable when it was and is another. -/
theorem State.cutOff_reachable : (s.cutOff n why).reachable = true ↔ s.reachable = true ∧ s.noticeNode ≠ n := by
  rw [State.reachable_iff, State.reachable_iff, s.cutOff_noticeNode n why, s.cutOff_node n why, s.cutOff_port n why]
  by_cases e : s.noticeNode = n
  · simp [e, NodeRec.fence]
  · simp [e]

end

end Sys2Proof.Machine
end

section
/-! The recall members of an entry at the fence of their node (R51, R67, R68). -/

namespace Sys2Proof.Machine

namespace TTEntry

/-! ### What the recall sets and the buffers are no part of -/

/-- The fields of an entry that a fence reads and the resolution of its members does not write. -/
def frame (e : TTEntry) :=
  (e.kind, e.requester, e.orphaned, e.block, e.loc, e.lookup, e.phase, e.memOp, e.write, e.verdict, e.opened, e.held,
    e.victim.map Victim.entry)

theorem repairs_congr {e f : TTEntry} (h : f.frame = e.frame) (r : Role) : f.repairs r = e.repairs r := by
  simp only [frame, Prod.mk.injEq] at h
  obtain ⟨-, -, -, -, -, -, phase, -, -, -, -, -, victim⟩ := h
  cases r with
  | primary => simp only [repairs, phase]
  | victim =>
    have failed : ∀ x : TTEntry, x.repairs .victim = ((x.victim.map Victim.entry).map (·.failed)).getD false := fun x => by
      rw [Option.map_map]
      rfl
    rw [failed, failed, victim]

theorem ownerOf_congr {e f : TTEntry} (h : f.frame = e.frame) (r : Role) : f.ownerOf r = e.ownerOf r := by
  simp only [frame, Prod.mk.injEq] at h
  obtain ⟨-, -, -, -, -, lookup, -, -, -, -, -, -, victim⟩ := h
  cases r with
  | primary => simp only [ownerOf, recorded, lookup]
  | victim =>
    have owner : ∀ x : TTEntry, x.ownerOf .victim = (x.victim.map Victim.entry).bind (·.rights.owner) := fun x => rfl
    rw [owner, owner, victim]

theorem blockOf_congr {e f : TTEntry} (h : f.frame = e.frame) (r : Role) : f.blockOf r = e.blockOf r := by
  simp only [frame, Prod.mk.injEq] at h
  obtain ⟨-, -, -, block, -, -, -, -, -, -, -, -, victim⟩ := h
  cases r with
  | primary => simp only [blockOf, block]
  | victim =>
    have blk : ∀ x : TTEntry, x.blockOf .victim = (x.victim.map Victim.entry).map (·.block) := fun x => by
      rw [Option.map_map]
      rfl
    rw [blk, blk, victim]

/-! ### Recall sets and buffers changed -/

theorem setRecalls_frame (e : TTEntry) (r : Role) (ms : List Member) : (e.setRecalls r ms).frame = e.frame := by
  cases r with
  | primary => rfl
  | victim => cases hv : e.victim <;> simp [frame, setRecalls, hv]

theorem setBuffer_frame (e : TTEntry) (r : Role) (b : DataBuffer) : (e.setBuffer r b).frame = e.frame := by
  cases r with
  | primary => rfl
  | victim => cases hv : e.victim <;> simp [frame, setBuffer, hv]

theorem setBuffer_recallsOf (e : TTEntry) (r q : Role) (b : DataBuffer) : (e.setBuffer r b).recallsOf q = e.recallsOf q := by
  cases r <;> cases q <;> cases hv : e.victim <;> simp [setBuffer, recallsOf, hv]

theorem setBuffer_bufferOf_ne (e : TTEntry) {r q : Role} (h : q ≠ r) (b : DataBuffer) :
    (e.setBuffer r b).bufferOf q = e.bufferOf q := by
  cases r with
  | primary => cases q with
    | primary => exact absurd rfl h
    | victim => rfl
  | victim => cases q with
    | primary => rfl
    | victim => exact absurd rfl h

/-- The buffer of a role with a recall set is replaced. -/
theorem setBuffer_bufferOf (e : TTEntry) {r : Role} (h : e.recallsOf r ≠ []) (b : DataBuffer) : (e.setBuffer r b).bufferOf r = b := by
  cases r with
  | primary => rfl
  | victim =>
    cases hv : e.victim with
    | none => simp [recallsOf, hv] at h
    | some v => simp [setBuffer, bufferOf, hv]

theorem modMember_recallsOf (e : TTEntry) (r : Role) (n : NodeId) (f : Member → Member) :
    (e.modMember r n f).recallsOf r = (e.recallsOf r).map fun m => if m.node = n then f m else m := by
  cases r with
  | primary => rfl
  | victim => cases hv : e.victim <;> simp [modMember, setRecalls, recallsOf, hv]

theorem modMember_recallsOf_ne (e : TTEntry) {r q : Role} (h : q ≠ r) (n : NodeId) (f : Member → Member) :
    (e.modMember r n f).recallsOf q = e.recallsOf q := by
  cases r with
  | primary => cases q with
    | primary => exact absurd rfl h
    | victim => rfl
  | victim => cases q with
    | primary => rfl
    | victim => exact absurd rfl h

theorem modMember_bufferOf (e : TTEntry) (r q : Role) (n : NodeId) (f : Member → Member) :
    (e.modMember r n f).bufferOf q = e.bufferOf q := by
  cases r <;> cases q <;> cases hv : e.victim <;> simp [modMember, setRecalls, bufferOf, hv]

/-! ### A member resolved (R68, R113) -/

theorem resolveMember_frame (e : TTEntry) (r : Role) (n : NodeId) (x : Resolution) : (e.resolveMember r n x).frame = e.frame := by
  unfold resolveMember
  dsimp only
  split
  · exact setRecalls_frame e r _
  · exact setRecalls_frame e r _

theorem resolveMember_recallsOf (e : TTEntry) (r : Role) (n : NodeId) (x : Resolution) :
    (e.resolveMember r n x).recallsOf r = resolvedFor n x (e.recallsOf r) := by
  have recalls : (e.resolveMember r n x).recallsOf r =
      (e.modMember r n fun m => if m.resolved then m else m.resolve x).recallsOf r := by
    unfold resolveMember
    dsimp only
    split
    · next h => rw [h.1]; rfl
    · rfl
  rw [recalls, modMember_recallsOf]
  unfold resolvedFor
  refine List.map_congr_left fun m _ => ?_
  cases hm : m.resolution <;> by_cases e : m.node = n <;> simp [Member.resolved, Member.resolve, hm, e]

theorem resolveMember_recallsOf_ne (e : TTEntry) {r q : Role} (h : q ≠ r) (n : NodeId) (x : Resolution) :
    (e.resolveMember r n x).recallsOf q = e.recallsOf q := by
  have other := e.modMember_recallsOf_ne h n fun m => if m.resolved then m else m.resolve x
  unfold resolveMember
  dsimp only
  split
  · cases q <;> exact other
  · exact other

theorem resolveMember_bufferOf (e : TTEntry) (r q : Role) (n : NodeId) (x : Resolution) :
    (e.resolveMember r n x).bufferOf q = e.bufferOf q := by
  have same := e.modMember_bufferOf r q n fun m => if m.resolved then m else m.resolve x
  unfold resolveMember
  dsimp only
  split
  · cases q <;> exact same
  · exact same

/-! ### The unresolved member for a node -/

theorem openMember_congr {e f : TTEntry} {r : Role} (h : f.recallsOf r = e.recallsOf r) (n : NodeId) :
    f.openMember r n = e.openMember r n := by
  unfold openMember
  rw [h]

/-- Once resolved, the members for a node leave none unresolved. -/
theorem openMember_of_resolvedFor {e : TTEntry} {r : Role} {n : NodeId} {x : Resolution} {ms : List Member}
    (h : e.recallsOf r = resolvedFor n x ms) : e.openMember r n = none := by
  unfold openMember
  rw [h, List.find?_eq_none]
  intro m hm
  obtain ⟨y, -, rfl⟩ := List.mem_map.mp hm
  by_cases hy : y.node = n ∧ y.resolution = none
  · simp [hy, Member.resolved]
  · rw [if_neg hy]
    simpa [Member.resolved, Option.isSome_iff_ne_none] using hy

theorem recallsOf_of_openMember {e : TTEntry} {r : Role} {n : NodeId} {m : Member} (h : e.openMember r n = some m) :
    e.recallsOf r ≠ [] := List.ne_nil_of_mem (List.mem_of_find?_eq_some h)

/-- R67: the fence of a node finds it the owner of the block of a role, with nothing written back, in a recall that is no
repair's. -/
def Loses (e : TTEntry) (r : Role) (n : NodeId) : Prop :=
  ∃ m, e.openMember r n = some m ∧ e.repairs r = false ∧ e.ownerOf r = some n ∧ m.status ≠ .absorbedWb

/-- R51, R67: what the fence of a node makes of its unresolved member of a role. -/
def resolvedAtFence (e : TTEntry) (r : Role) (n : NodeId) : TTEntry :=
  match e.openMember r n with
  | none => e
  | some m =>
    if e.repairs r then (e.resolveMember r n .absent).noteRepair n
    else if e.ownerOf r = some n ∧ m.status ≠ .absorbedWb then
      (e.resolveMember r n .ownerLost).setBuffer r (.full .ownerLost .node)
    else e.resolveMember r n .absent

section
variable {e : TTEntry} {r : Role} {n : NodeId}

theorem resolvedAtFence_none (h : e.openMember r n = none) : e.resolvedAtFence r n = e := by
  unfold resolvedAtFence
  rw [h]

theorem resolvedAtFence_repair {m : Member} (h : e.openMember r n = some m) (hr : e.repairs r = true) :
    e.resolvedAtFence r n = (e.resolveMember r n .absent).noteRepair n := by
  unfold resolvedAtFence
  simp only [h, hr, if_true]

theorem resolvedAtFence_loses (h : e.Loses r n) :
    e.resolvedAtFence r n = (e.resolveMember r n .ownerLost).setBuffer r (.full .ownerLost .node) := by
  obtain ⟨m, hm, hr, ho⟩ := h
  unfold resolvedAtFence
  simp only [hm, hr, ho, Bool.false_eq_true, if_false, if_true, ne_eq, not_false_eq_true, and_self]

theorem resolvedAtFence_absent {m : Member} (h : e.openMember r n = some m) (hr : e.repairs r = false) (hl : ¬ e.Loses r n) :
    e.resolvedAtFence r n = e.resolveMember r n .absent := by
  have kept : ¬(e.ownerOf r = some n ∧ m.status ≠ .absorbedWb) := fun k => hl ⟨m, h, hr, k⟩
  unfold resolvedAtFence
  simp only [h, hr, Bool.false_eq_true, if_false]
  exact if_neg kept

end

/-- The resolutions of a fence, case by case: no member, a repair's, an owner lost, and one that is ABSENT. -/
theorem resolvedAtFence_cases (e : TTEntry) (r : Role) (n : NodeId) :
    e.openMember r n = none ∧ e.resolvedAtFence r n = e ∨
    (∃ m, e.openMember r n = some m) ∧ e.repairs r = true ∧ e.resolvedAtFence r n = (e.resolveMember r n .absent).noteRepair n ∨
    e.Loses r n ∧ e.resolvedAtFence r n = (e.resolveMember r n .ownerLost).setBuffer r (.full .ownerLost .node) ∨
    (∃ m, e.openMember r n = some m) ∧ e.repairs r = false ∧ ¬ e.Loses r n ∧
      e.resolvedAtFence r n = e.resolveMember r n .absent := by
  cases h : e.openMember r n with
  | none => exact .inl ⟨rfl, resolvedAtFence_none h⟩
  | some m =>
    cases hr : e.repairs r with
    | true => exact .inr (.inl ⟨⟨m, rfl⟩, rfl, resolvedAtFence_repair h hr⟩)
    | false =>
      by_cases hl : e.Loses r n
      · exact .inr (.inr (.inl ⟨hl, resolvedAtFence_loses hl⟩))
      · exact .inr (.inr (.inr ⟨⟨m, rfl⟩, rfl, hl, resolvedAtFence_absent h hr hl⟩))

theorem resolvedAtFence_frame (e : TTEntry) (r : Role) (n : NodeId) : (e.resolvedAtFence r n).frame = e.frame := by
  rcases e.resolvedAtFence_cases r n with ⟨-, h⟩ | ⟨-, -, h⟩ | ⟨-, h⟩ | ⟨-, -, -, h⟩
  · rw [h]
  · rw [h]
    exact e.resolveMember_frame r n .absent
  · rw [h, setBuffer_frame]
    exact e.resolveMember_frame r n .ownerLost
  · rw [h]
    exact e.resolveMember_frame r n .absent

/-- The block of the other role is untouched. -/
theorem resolvedAtFence_ne (e : TTEntry) {r q : Role} (h : q ≠ r) (n : NodeId) :
    (e.resolvedAtFence r n).recallsOf q = e.recallsOf q ∧ (e.resolvedAtFence r n).bufferOf q = e.bufferOf q := by
  rcases e.resolvedAtFence_cases r n with ⟨-, k⟩ | ⟨-, -, k⟩ | ⟨-, k⟩ | ⟨-, -, -, k⟩
  · rw [k]
    exact ⟨rfl, rfl⟩
  · have recalls := e.resolveMember_recallsOf_ne h n .absent
    have buffer := e.resolveMember_bufferOf r q n .absent
    rw [k]
    cases q <;> exact ⟨recalls, buffer⟩
  · rw [k, setBuffer_recallsOf, setBuffer_bufferOf_ne _ h]
    exact ⟨e.resolveMember_recallsOf_ne h n .ownerLost, e.resolveMember_bufferOf r q n .ownerLost⟩
  · rw [k]
    exact ⟨e.resolveMember_recallsOf_ne h n .absent, e.resolveMember_bufferOf r q n .absent⟩

/-- R67: the recall set and the data of the role itself. -/
theorem fenceResolves (e : TTEntry) (r : Role) (n : NodeId) : e.FenceResolves (e.resolvedAtFence r n) r n := by
  refine ⟨fun h => by rw [resolvedAtFence_none h]; exact ⟨rfl, rfl⟩, fun m h => ⟨fun hl => ?_, fun hl => ?_⟩⟩
  · rw [resolvedAtFence_loses ⟨m, h, hl⟩, setBuffer_recallsOf]
    have some : (e.resolveMember r n .ownerLost).recallsOf r ≠ [] := by
      rw [resolveMember_recallsOf]
      exact fun k => recallsOf_of_openMember h (List.map_eq_nil_iff.mp k)
    exact ⟨e.resolveMember_recallsOf r n .ownerLost, setBuffer_bufferOf _ some _⟩
  · have recalls := e.resolveMember_recallsOf r n .absent
    have buffer := e.resolveMember_bufferOf r r n .absent
    have kept : ¬ e.Loses r n := by
      rintro ⟨x, hx, k⟩
      rw [h] at hx
      cases hx
      exact hl k
    cases hr : e.repairs r with
    | true =>
      rw [resolvedAtFence_repair h hr]
      cases r <;> exact ⟨recalls, buffer⟩
    | false =>
      rw [resolvedAtFence_absent h hr kept]
      exact ⟨recalls, buffer⟩

/-- What `FenceResolves` says rests on the recall set, the buffer and the frame. -/
theorem fenceResolves_congr {e e' f f' : TTEntry} {r : Role} {n : NodeId} (h : e.FenceResolves f r n) (he : e'.frame = e.frame)
    (hr : e'.recallsOf r = e.recallsOf r) (hb : e'.bufferOf r = e.bufferOf r) (kr : f'.recallsOf r = f.recallsOf r)
    (kb : f'.bufferOf r = f.bufferOf r) : e'.FenceResolves f' r n := by
  unfold FenceResolves at h ⊢
  rw [openMember_congr hr, repairs_congr he, ownerOf_congr he, hr, hb, kr, kb]
  exact h

/-- No unresolved member for the node is left. -/
theorem FenceResolves.openMember {e f : TTEntry} {r : Role} {n : NodeId} (h : e.FenceResolves f r n) : f.openMember r n = none := by
  obtain ⟨none, some⟩ := h
  cases hm : e.openMember r n with
  | none => exact (openMember_congr (none hm).1 n).trans hm
  | some m =>
    obtain ⟨lost, absent⟩ := some m hm
    by_cases k : e.repairs r = false ∧ e.ownerOf r = .some n ∧ m.status ≠ .absorbedWb
    · exact openMember_of_resolvedFor (lost k).1
    · exact openMember_of_resolvedFor (absent k).1

/-! ### The changed-state mark and the note of a repair (R51, R68) -/

theorem setRecalls_marks (e : TTEntry) (r : Role) (ms : List Member) :
    (e.setRecalls r ms).changed = e.changed ∧ (e.setRecalls r ms).repairNote = e.repairNote := by cases r <;> exact ⟨rfl, rfl⟩

theorem setBuffer_marks (e : TTEntry) (r : Role) (b : DataBuffer) :
    (e.setBuffer r b).changed = e.changed ∧ (e.setBuffer r b).repairNote = e.repairNote := by cases r <;> exact ⟨rfl, rfl⟩

theorem resolveMember_marks (e : TTEntry) (r : Role) (n : NodeId) (x : Resolution) :
    ((e.resolveMember r n x).changed = true ↔ e.changed = true ∨ r = .primary ∧ e.repairs r = false) ∧
      (e.resolveMember r n x).repairNote = e.repairNote := by
  unfold resolveMember
  dsimp only
  split
  · next h => exact ⟨iff_of_true rfl (.inr h), (e.setRecalls_marks r _).2⟩
  · next h =>
    have changed := (e.setRecalls_marks r ((e.recallsOf r).map fun m => if m.node = n then
      (if m.resolved then m else m.resolve x) else m)).1
    exact ⟨by rw [modMember, changed, or_iff_left h], (e.setRecalls_marks r _).2⟩

theorem resolvedAtFence_changed (e : TTEntry) (r : Role) (n : NodeId) : (e.resolvedAtFence r n).changed = true ↔
    e.changed = true ∨ r = .primary ∧ e.repairs r = false ∧ e.openMember r n ≠ none := by
  rcases e.resolvedAtFence_cases r n with ⟨hm, h⟩ | ⟨-, hr, h⟩ | ⟨⟨m, hm, hr, -⟩, h⟩ | ⟨⟨m, hm⟩, hr, -, h⟩
  · simp [h, hm]
  · have marks := (e.resolveMember_marks r n .absent).1
    simp only [hr, Bool.true_eq_false, and_false, or_false] at marks
    rw [h, hr]
    simpa [noteRepair] using marks
  · rw [h, (setBuffer_marks _ r _).1, (e.resolveMember_marks r n .ownerLost).1]
    simp [hm, hr]
  · rw [h, (e.resolveMember_marks r n .absent).1]
    simp [hm, hr]

theorem noteRepair_repairNote (e : TTEntry) (n : NodeId) :
    (e.noteRepair n).repairNote = some (match e.repairNote with | some m => min m n | none => n) := by
  cases h : e.repairNote <;> simp [noteRepair, h]

theorem resolvedAtFence_repairNote (e : TTEntry) (r : Role) (n : NodeId) : (e.resolvedAtFence r n).repairNote =
    if e.repairs r = true ∧ e.openMember r n ≠ none then some (match e.repairNote with | some m => min m n | none => n)
    else e.repairNote := by
  rcases e.resolvedAtFence_cases r n with ⟨hm, h⟩ | ⟨⟨m, hm⟩, hr, h⟩ | ⟨⟨m, hm, hr, -⟩, h⟩ | ⟨⟨m, hm⟩, hr, -, h⟩
  · simp [h, hm]
  · rw [h, if_pos ⟨hr, by rw [hm]; exact nofun⟩, noteRepair_repairNote, (e.resolveMember_marks r n .absent).2]
  · rw [h, (setBuffer_marks _ r _).2, (e.resolveMember_marks r n .ownerLost).2, hr]
    simp
  · rw [h, (e.resolveMember_marks r n .absent).2, hr]
    simp

/-! ### Both roles -/

/-- R67: every unresolved member for the node resolved, of the primary block and of the victim. -/
def resolvedBoth (e : TTEntry) (n : NodeId) : TTEntry := (e.resolvedAtFence .primary n).resolvedAtFence .victim n

section
variable (e : TTEntry) (n : NodeId)

theorem resolvedBoth_frame : (e.resolvedBoth n).frame = e.frame :=
  (resolvedAtFence_frame _ .victim n).trans (e.resolvedAtFence_frame .primary n)

theorem fenceResolves_both (r : Role) : e.FenceResolves (e.resolvedBoth n) r n := by
  cases r with
  | primary =>
    obtain ⟨recalls, buffer⟩ := (e.resolvedAtFence .primary n).resolvedAtFence_ne (r := .victim) (q := .primary) nofun n
    exact fenceResolves_congr (e.fenceResolves .primary n) rfl rfl rfl recalls buffer
  | victim =>
    obtain ⟨recalls, buffer⟩ := e.resolvedAtFence_ne (r := .primary) (q := .victim) nofun n
    exact fenceResolves_congr (fenceResolves _ .victim n) (e.resolvedAtFence_frame .primary n).symm recalls.symm buffer.symm rfl rfl

theorem resolvedBoth_openMember (r : Role) : (e.resolvedBoth n).openMember r n = none := (e.fenceResolves_both n r).openMember

theorem resolvedBoth_twice : (e.resolvedBoth n).resolvedBoth n = e.resolvedBoth n := by
  have primary := resolvedAtFence_none (e.resolvedBoth_openMember n .primary)
  have victim := resolvedAtFence_none (e.resolvedBoth_openMember n .victim)
  rw [resolvedBoth, primary, victim]

theorem openMember_victim : (e.resolvedAtFence .primary n).openMember .victim n = e.openMember .victim n :=
  openMember_congr (e.resolvedAtFence_ne (r := .primary) (q := .victim) nofun n).1 n

theorem repairs_victim : (e.resolvedAtFence .primary n).repairs .victim = e.repairs .victim :=
  repairs_congr (e.resolvedAtFence_frame .primary n) .victim

theorem resolvedBoth_changed : (e.resolvedBoth n).changed = true ↔
    e.changed = true ∨ e.repairs .primary = false ∧ e.openMember .primary n ≠ none := by
  unfold resolvedBoth
  rw [resolvedAtFence_changed, resolvedAtFence_changed]
  simp

/-- R51: a repair without an unresolved member for the node notes nothing. -/
theorem resolvedBoth_repairNote_same (h : ∀ r, e.repairs r = true → e.openMember r n = none) :
    (e.resolvedBoth n).repairNote = e.repairNote := by
  have none : ∀ r, ¬(e.repairs r = true ∧ e.openMember r n ≠ none) := fun r k => k.2 (h r k.1)
  unfold resolvedBoth
  rw [resolvedAtFence_repairNote, resolvedAtFence_repairNote, e.openMember_victim n, e.repairs_victim n, if_neg (none .primary),
    if_neg (none .victim)]

/-- R51: a repair notes the lowest-numbered node resolved so; that both roles resolve the same node makes no difference. -/
theorem resolvedBoth_repairNote {r : Role} (hr : e.repairs r = true) (hm : e.openMember r n ≠ none) :
    (e.resolvedBoth n).repairNote = some (match e.repairNote with | some m => min m n | none => n) := by
  unfold resolvedBoth
  rw [resolvedAtFence_repairNote, resolvedAtFence_repairNote, e.openMember_victim n, e.repairs_victim n]
  by_cases h1 : e.repairs .primary = true ∧ e.openMember .primary n ≠ none
  · rw [if_pos h1]
    split
    · cases e.repairNote <;> simp
    · rfl
  · rw [if_neg h1]
    cases r with
    | primary => exact absurd ⟨hr, hm⟩ h1
    | victim => exact if_pos ⟨hr, hm⟩

end

end TTEntry

/-! ### The entries of the Transaction Table -/

theorem State.offer_tt (s : State) (r : CaptureRecord) : (s.offer r).tt = s.tt := (s.capture r).queueNotice_tt r.reason.cls

theorem State.entry_congr {s t : State} (h : t.tt = s.tt) (i : TTIdx) : t.entry i = s.entry i := by
  unfold State.entry State.ttSlot
  rw [h]

theorem State.losesOwner_iff (s : State) (n : NodeId) (i : TTIdx) (r : Role) :
    s.losesOwner n i r = true ↔ ∃ e, s.entry i = some e ∧ e.Loses r n := by
  unfold State.losesOwner
  cases s.entry i with
  | none => simp
  | some e =>
    unfold TTEntry.Loses
    cases hm : e.openMember r n with
    | none => simp [hm]
    | some m => simp [hm, and_assoc]

end Sys2Proof.Machine
end

section
/-! The resolutions of a fence: what they make of the entries, and the OWNER_LOST records that they offer (R67, R165 to R170). -/

namespace Sys2Proof.Machine

/-! ### One resolution -/

/-- R67: the resolution of a member: nothing, an entry changed, or an entry changed and an OWNER_LOST offered. -/
theorem State.resolveAtFence_cases (s : State) (i : TTIdx) (r : Role) (n : NodeId) :
    (s.resolveAtFence i r n = s ∧ ∀ e, s.entry i = some e → e.openMember r n = none) ∨
    ∃ e f, s.entry i = some e ∧ f e = e.resolvedAtFence r n ∧
      (¬ e.Loses r n ∧ s.resolveAtFence i r n = s.modEntry i f ∨
        e.Loses r n ∧ s.resolveAtFence i r n =
          (s.modEntry i f).offer ⟨.ownerLost, some n, e.blockOf r, none, none, none, s.timeBase⟩) := by
  unfold State.resolveAtFence
  cases he : s.entry i with
  | none => exact .inl ⟨by simp only, fun e h => by cases h⟩
  | some e =>
    cases hm : e.openMember r n with
    | none =>
      refine .inl ⟨by simp only [hm], fun x hx => ?_⟩
      cases hx
      exact hm
    | some m =>
      refine .inr ⟨e, ?_⟩
      simp only [hm]
      cases hr : e.repairs r with
      | true =>
        refine ⟨_, trivial, ?_, .inl ⟨fun h => ?_, rfl⟩⟩
        · exact (TTEntry.resolvedAtFence_repair hm hr).symm
        · obtain ⟨-, -, k, -⟩ := h
          rw [hr] at k
          cases k
      | false =>
        by_cases hl : e.Loses r n
        · have lost : e.ownerOf r = some n ∧ m.status ≠ .absorbedWb := by
            obtain ⟨x, hx, -, k⟩ := hl
            rw [hm] at hx
            cases hx
            exact k
          rw [if_pos lost]
          exact ⟨_, trivial, (TTEntry.resolvedAtFence_loses hl).symm, .inr ⟨hl, rfl⟩⟩
        · have kept : ¬(e.ownerOf r = some n ∧ m.status ≠ .absorbedWb) := fun k => hl ⟨m, hm, hr, k⟩
          rw [if_neg kept]
          exact ⟨_, trivial, (TTEntry.resolvedAtFence_absent hm hr hl).symm, .inl ⟨hl, rfl⟩⟩

/-- R67: the entries after a resolution. -/
theorem State.resolveAtFence_entry (s : State) (i : TTIdx) (r : Role) (n : NodeId) (j : TTIdx) :
    (s.resolveAtFence i r n).entry j = if j = i then (s.entry i).map fun e => e.resolvedAtFence r n else s.entry j := by
  have changed : ∀ e f, s.entry i = some e → f e = e.resolvedAtFence r n →
      (s.modEntry i f).entry j = if j = i then (s.entry i).map fun e => e.resolvedAtFence r n else s.entry j := by
    intro e f he hf
    rw [State.modEntry_entry, he, Option.map_some, Option.map_some, hf]
  rcases s.resolveAtFence_cases i r n with ⟨h, hm⟩ | ⟨e, f, he, hf, ⟨-, h⟩ | ⟨-, h⟩⟩
  · rw [h]
    split
    · next e =>
      subst e
      cases hj : s.entry j with
      | none => rfl
      | some e => rw [Option.map_some, TTEntry.resolvedAtFence_none (hm e hj)]
    · rfl
  · rw [h]
    exact changed e f he hf
  · rw [h, State.entry_congr (State.offer_tt _ _)]
    exact changed e f he hf

/-- The pacing marks are no part of a resolution. -/
theorem State.resolveAtFence_pacing (s : State) (i : TTIdx) (r : Role) (n : NodeId) (j : TTIdx) :
    ((s.resolveAtFence i r n).ttSlot j).pacing = (s.ttSlot j).pacing := by
  have changed : ∀ f, ((s.modEntry i f).ttSlot j).pacing = (s.ttSlot j).pacing := by
    intro f
    unfold State.modEntry
    rw [State.modTT_ttSlot]
    split
    · next e => rw [e]
    · rfl
  rcases s.resolveAtFence_cases i r n with ⟨h, -⟩ | ⟨e, f, -, -, ⟨-, h⟩ | ⟨-, h⟩⟩
  · rw [h]
  · rw [h, changed]
  · have tt := (s.modEntry i f).offer_tt ⟨.ownerLost, some n, e.blockOf r, none, none, none, s.timeBase⟩
    rw [h, State.ttSlot, tt]
    exact changed f

/-! ### All of them -/

/-- R67: the entries after all resolutions. -/
theorem State.resolveAll_entry (s : State) (n : NodeId) (j : TTIdx) :
    (s.resolveAll n).entry j = (s.entry j).map fun e => e.resolvedBoth n := by
  have both : ∀ t : State, ∀ i, ((t.resolveAtFence i .primary n).resolveAtFence i .victim n).entry j =
      if j = i then (t.entry j).map fun e => e.resolvedBoth n else t.entry j := fun t i => by
    rw [State.resolveAtFence_entry, State.resolveAtFence_entry, State.resolveAtFence_entry, if_pos rfl]
    split
    · next e =>
      rw [e, Option.map_map]
      rfl
    · rfl
  have twice : ∀ o : Option TTEntry, (o.map fun e => e.resolvedBoth n).map (fun e => e.resolvedBoth n) =
      o.map fun e => e.resolvedBoth n := fun o => by
    rw [Option.map_map]
    exact congrArg (fun f => o.map f) (funext fun e => e.resolvedBoth_twice n)
  have list : ∀ (l : List TTIdx) (t : State),
      (l.foldl (fun t i => (t.resolveAtFence i .primary n).resolveAtFence i .victim n) t).entry j =
        if j ∈ l then (t.entry j).map fun e => e.resolvedBoth n else t.entry j := by
    intro l
    induction l with
    | nil => exact fun t => (if_neg List.not_mem_nil).symm
    | cons i l ih =>
      intro t
      rw [List.foldl_cons, ih, both]
      by_cases h1 : j = i
      · rw [if_pos h1, if_pos (List.mem_cons.mpr (.inl h1))]
        split
        · exact twice _
        · rfl
      · rw [if_neg h1]
        simp only [List.mem_cons, h1, false_or]
  exact (list _ s).trans (if_pos (List.mem_append_right _ (mem_allTT j)))

/-! ### Offers to the DATA_LOSS slot (R165 to R170) -/

/-- A slot of a class behind the offer of a record to it, the notice that it then owes queued while the notice node is
reachable. -/
def CaptureSlot.afterOffer (reach : Bool) (t : CaptureSlot) (r : CaptureRecord) : CaptureSlot :=
  if reach = true then (t.offer r).told .dataLoss else t.offer r

/-- The notices that offers of records make a slot queue. -/
def CaptureSlot.sent (t : CaptureSlot) : List CaptureRecord → List OutMsg
  | [] => []
  | r :: rs => ((t.offer r).owed .dataLoss).toList ++ CaptureSlot.sent (t.afterOffer true r) rs

theorem CaptureSlot.sent_append (t : CaptureSlot) (a b : List CaptureRecord) :
    t.sent (a ++ b) = t.sent a ++ (a.foldl (CaptureSlot.afterOffer true) t).sent b := by
  induction a generalizing t with
  | nil => rfl
  | cons r a ih => simp only [List.cons_append, CaptureSlot.sent, ih, List.foldl_cons, List.append_assoc]

/-- Records have been offered to the DATA_LOSS slot, one after the other. -/
structure Offered (s t : State) (rs : List CaptureRecord) : Prop where
  same : SameBeside s t
  jobs : t.jobs = s.jobs
  slot : ∀ k, t.slot k = if k = .dataLoss then rs.foldl (CaptureSlot.afterOffer s.reachable) (s.slot k) else s.slot k
  port : ∀ m, t.port m =
    if m = s.noticeNode ∧ s.reachable = true then (s.port m).send ((s.slot .dataLoss).sent rs) else s.port m

namespace Offered

theorem none {s t : State} (same : SameBeside s t) (jobs : t.jobs = s.jobs) (slots : t.slots = s.slots) (ports : t.ports = s.ports) :
    Offered s t [] := by
  refine ⟨same, jobs, fun k => ?_, fun m => ?_⟩
  · rw [State.slot_congr slots]
    split <;> rfl
  · rw [State.port_congr ports]
    split
    · exact (Port.send_nil _).symm
    · rfl

theorem refl (s : State) : Offered s s [] := none (.of_eq rfl) rfl rfl rfl

theorem modEntry (s : State) (i : TTIdx) (f : TTEntry → TTEntry) : Offered s (s.modEntry i f) [] := none (.of_eq rfl) rfl rfl rfl

theorem offer (s : State) {r : CaptureRecord} (h : r.reason.cls = .dataLoss) : Offered s (s.offer r) [r] := by
  refine ⟨s.offer_same r, (s.capture r).queueNotice_jobs _, fun k => ?_, fun m => ?_⟩
  · rw [State.offer_slot, h]
    split
    · next e => rw [e]; rfl
    · rfl
  · rw [State.offer_port, h]
    simp only [CaptureSlot.sent, List.append_nil]

theorem reachable {s t : State} {rs : List CaptureRecord} (h : Offered s t rs) : t.reachable = s.reachable := by
  refine State.reachable_congr h.same.noticeNode (h.same.node _) ?_
  rw [h.port]
  split <;> rfl

theorem trans {s t u : State} {a b : List CaptureRecord} (h : Offered s t a) (k : Offered t u b) : Offered s u (a ++ b) := by
  have same : SameBeside s u := by
    have h1 := h.same
    have k1 := k.same
    exact ⟨k1.pending.trans h1.pending, k1.inputs.trans h1.inputs, k1.now.trans h1.now, k1.out.trans h1.out,
      k1.resetAsserted.trans h1.resetAsserted, k1.powerGood.trans h1.powerGood, k1.timeBase.trans h1.timeBase,
      k1.noticeNode.trans h1.noticeNode, k1.intakePos.trans h1.intakePos, k1.refusalMarks.trans h1.refusalMarks,
      k1.nodes.trans h1.nodes, k1.regions.trans h1.regions, k1.dir.trans h1.dir, k1.hold.trans h1.hold, k1.wb.trans h1.wb,
      k1.mp0.trans h1.mp0, k1.mp1.trans h1.mp1, k1.agent.trans h1.agent, k1.controlQ.trans h1.controlQ⟩
  refine ⟨same, k.jobs.trans h.jobs, fun c => ?_, fun m => ?_⟩
  · rw [k.slot, h.slot, h.reachable, List.foldl_append]
    split <;> rfl
  · rw [k.port, h.port, h.reachable, h.same.noticeNode, h.slot, if_pos rfl]
    by_cases e : m = s.noticeNode ∧ s.reachable = true
    · rw [if_pos e, if_pos e, if_pos e, Port.send_send, CaptureSlot.sent_append, e.2]
    · rw [if_neg e, if_neg e, if_neg e]

end Offered

/-! ### The OWNER_LOST records of a fence -/

theorem TTEntry.loses_congr {e f : TTEntry} {r : Role} {n : NodeId} (hf : f.frame = e.frame) (hr : f.recallsOf r = e.recallsOf r) :
    f.Loses r n ↔ e.Loses r n := by
  unfold TTEntry.Loses
  rw [TTEntry.openMember_congr hr, TTEntry.repairs_congr hf, TTEntry.ownerOf_congr hf]

/-- A resolution leaves the owner lost of the other role alone. -/
theorem TTEntry.resolvedAtFence_loses_iff (e : TTEntry) (r q : Role) (n : NodeId) :
    (e.resolvedAtFence r n).Loses q n ↔ q ≠ r ∧ e.Loses q n := by
  by_cases h : q = r
  · subst h
    have resolved := (e.fenceResolves q n).openMember
    refine iff_of_false ?_ fun k => k.1 rfl
    rintro ⟨m, hm, -⟩
    rw [resolved] at hm
    cases hm
  · rw [TTEntry.loses_congr (e.resolvedAtFence_frame r n) (e.resolvedAtFence_ne h n).1, and_iff_right h]

/-- A count over a list without repetition, at one place of which a test has become false. -/
theorem countP_of_cleared {α : Type} [DecidableEq α] {l : List α} {f g : α → Bool} {i : α} (hl : l.Nodup) (hi : i ∈ l)
    (hf : f i = true) (hg : ∀ j, g j = (f j && decide (j ≠ i))) : l.countP f = l.countP g + 1 := by
  induction l with
  | nil => cases hi
  | cons x l ih =>
    obtain ⟨hx, hl⟩ := List.nodup_cons.mp hl
    by_cases e : x = i
    · subst e
      have rest : l.countP f = l.countP g := List.countP_congr fun j hj => by
        have ne : j ≠ x := fun h => hx (h ▸ hj)
        simp [hg, ne]
      rw [List.countP_cons_of_pos hf, List.countP_cons_of_neg (by simp [hg]), rest]
    · have tail := ih hl ((List.mem_cons.mp hi).resolve_left (Ne.symm e))
      have head : g x = f x := by simp [hg, e]
      simp only [List.countP_cons, head, tail]
      omega

/-- After a resolution its owner is lost no longer, and the others as before. -/
theorem State.resolveAtFence_losesOwner (s : State) (i : TTIdx) (r : Role) (n : NodeId) (j : TTIdx) (q : Role) :
    (s.resolveAtFence i r n).losesOwner n j q = (s.losesOwner n j q && !(decide (j = i) && decide (q = r))) := by
  rw [Bool.eq_iff_iff, State.losesOwner_iff, Bool.and_eq_true, State.losesOwner_iff, State.resolveAtFence_entry]
  by_cases e : j = i
  · subst e
    cases s.entry j with
    | none => simp
    | some x =>
      simp only [if_true, Option.map_some, Option.some.injEq, exists_eq_left', TTEntry.resolvedAtFence_loses_iff]
      simp [and_comm]
  · simp [e]

theorem State.losses_of_kept {s t : State} {n : NodeId} (h : ∀ i r, t.losesOwner n i r = s.losesOwner n i r) :
    t.losses n = s.losses n := by
  unfold State.losses
  simp only [h]

/-- An owner lost is one loss less. -/
theorem State.resolveAtFence_losses {s : State} {i : TTIdx} {r : Role} {n : NodeId} (h : s.losesOwner n i r = true) :
    s.losses n = (s.resolveAtFence i r n).losses n + 1 := by
  have nodup : allTT.Nodup := allTT_ascending.imp fun h => ne_of_lt h
  have same : ∀ q, q ≠ r → ∀ j, (s.resolveAtFence i r n).losesOwner n j q = s.losesOwner n j q := fun q hq j => by
    rw [State.resolveAtFence_losesOwner]
    simp [hq]
  have cleared : ∀ j, (s.resolveAtFence i r n).losesOwner n j r = (s.losesOwner n j r && decide (j ≠ i)) := fun j => by
    rw [State.resolveAtFence_losesOwner]
    simp
  have one := countP_of_cleared nodup (mem_allTT i) h cleared
  unfold State.losses
  cases r with
  | primary =>
    simp only [same .victim nofun]
    omega
  | victim =>
    simp only [same .primary nofun]
    omega

theorem State.resolveAtFence_losses_kept {s : State} {i : TTIdx} {r : Role} {n : NodeId} (h : s.losesOwner n i r = false) :
    (s.resolveAtFence i r n).losses n = s.losses n := by
  refine State.losses_of_kept fun j q => ?_
  rw [State.resolveAtFence_losesOwner]
  by_cases e : j = i ∧ q = r
  · obtain ⟨rfl, rfl⟩ := e
    rw [h]
    rfl
  · by_cases hj : j = i
    · have hq : q ≠ r := fun hq => e ⟨hj, hq⟩
      simp [hq]
    · simp [hj]

/-- R67: an OWNER_LOST record that the fence of a node offers for a state. -/
def State.LossRecord (s : State) (n : NodeId) (x : CaptureRecord) : Prop :=
  ∃ i e r, s.entry i = some e ∧ e.Loses r n ∧ x = ⟨.ownerLost, some n, e.blockOf r, none, none, none, s.timeBase⟩

/-- Some of the members for a node have been resolved: each owner that is lost no longer has been offered. -/
structure Resolving (n : NodeId) (s t : State) : Prop where
  offered : ∃ rs, Offered s t rs ∧ s.losses n = t.losses n + rs.length ∧ ∀ x ∈ rs, s.LossRecord n x
  entry : ∀ i f, t.entry i = some f → ∃ e, s.entry i = some e ∧ f.frame = e.frame ∧ ∀ r, f.Loses r n → e.Loses r n
  pacing : ∀ i, (t.ttSlot i).pacing = (s.ttSlot i).pacing

namespace Resolving

theorem refl (n : NodeId) (s : State) : Resolving n s s :=
  ⟨⟨[], .refl s, rfl, nofun⟩, fun _ e h => ⟨e, h, rfl, fun _ => id⟩, fun _ => rfl⟩

theorem trans {n : NodeId} {s t u : State} (h : Resolving n s t) (k : Resolving n t u) : Resolving n s u := by
  obtain ⟨a, ha, hl, hr⟩ := h.offered
  obtain ⟨b, kb, kl, kr⟩ := k.offered
  refine ⟨⟨a ++ b, ha.trans kb, ?_, fun x hx => ?_⟩, fun i g hg => ?_, fun i => (k.pacing i).trans (h.pacing i)⟩
  · rw [hl, kl, List.length_append]
    omega
  · rcases List.mem_append.mp hx with hx | hx
    · exact hr x hx
    · obtain ⟨i, f, r, hf, hlose, rfl⟩ := kr x hx
      obtain ⟨e, he, hframe, hback⟩ := h.entry i f hf
      exact ⟨i, e, r, he, hback r hlose, by rw [TTEntry.blockOf_congr hframe, ha.same.timeBase]⟩
  · obtain ⟨f, hf, kframe, kback⟩ := k.entry i g hg
    obtain ⟨e, he, hframe, hback⟩ := h.entry i f hf
    exact ⟨e, he, kframe.trans hframe, fun r hr => hback r (kback r hr)⟩

theorem resolveAtFence (s : State) (i : TTIdx) (r : Role) (n : NodeId) : Resolving n s (s.resolveAtFence i r n) := by
  refine ⟨?_, fun j f hf => ?_, s.resolveAtFence_pacing i r n⟩
  · rcases s.resolveAtFence_cases i r n with ⟨h, hm⟩ | ⟨e, f, he, -, ⟨hl, h⟩ | ⟨hl, h⟩⟩
    · rw [h]
      exact ⟨[], .refl s, rfl, nofun⟩
    · have kept : s.losesOwner n i r = false := by
        rw [← Bool.not_eq_true, State.losesOwner_iff]
        rintro ⟨x, hx, k⟩
        rw [he] at hx
        cases hx
        exact hl k
      have losses := State.resolveAtFence_losses_kept kept
      rw [h] at losses ⊢
      exact ⟨[], .modEntry s i f, losses.symm, nofun⟩
    · have losses := State.resolveAtFence_losses ((s.losesOwner_iff n i r).mpr ⟨e, he, hl⟩)
      rw [h] at losses ⊢
      refine ⟨_, (Offered.modEntry s i f).trans (.offer _ rfl), losses, fun x hx => ?_⟩
      cases List.mem_singleton.mp hx
      exact ⟨i, e, r, he, hl, rfl⟩
  · rw [State.resolveAtFence_entry] at hf
    split at hf
    · next e =>
      subst e
      obtain ⟨e, he, rfl⟩ := Option.map_eq_some_iff.mp hf
      exact ⟨e, he, e.resolvedAtFence_frame r n, fun q hq => ((e.resolvedAtFence_loses_iff r q n).mp hq).2⟩
    · exact ⟨f, hf, rfl, fun _ => id⟩

theorem resolveAll (s : State) (n : NodeId) : Resolving n s (s.resolveAll n) :=
  State.resolveAll_induct (P := Resolving n s) s n (refl n s) fun t i r h => h.trans (resolveAtFence t i r n)

end Resolving

/-- R67: all of the fence's OWNER_LOST records have been offered. -/
theorem State.resolveAll_offered (s : State) (n : NodeId) :
    ∃ rs, Offered s (s.resolveAll n) rs ∧ rs.length = s.losses n ∧ ∀ x ∈ rs, s.LossRecord n x := by
  obtain ⟨rs, offered, count, records⟩ := (Resolving.resolveAll s n).offered
  have none : ∀ i r, (s.resolveAll n).losesOwner n i r = false := fun i r => by
    rw [← Bool.not_eq_true, State.losesOwner_iff, State.resolveAll_entry]
    rintro ⟨f, hf, m, hm, -⟩
    obtain ⟨e, -, rfl⟩ := Option.map_eq_some_iff.mp hf
    rw [e.resolvedBoth_openMember n r] at hm
    cases hm
  have zero : (s.resolveAll n).losses n = 0 := by
    unfold State.losses
    simp [none]
  exact ⟨rs, offered, by omega, records⟩

end Sys2Proof.Machine
end

section
/-! The whole fence (chapter 8, section 8.3; R142, R143, R147, R151, R160, R170). -/

namespace Sys2Proof.Machine

/-! ### The slots, the ports and the entries through the notices and the resolutions -/

section
variable (s : State)

theorem State.queueEarlyNotices_same : SameBeside s s.queueEarlyNotices := .of_eq s.queueEarlyNotices_beside

theorem State.queueEarlyNotices_reachable : s.queueEarlyNotices.reachable = s.reachable := by
  unfold State.queueEarlyNotices
  simp only [State.queueNotice_reachable]

theorem State.queueEarlyNotices_jobs : s.queueEarlyNotices.jobs = s.jobs := by
  unfold State.queueEarlyNotices
  simp only [State.queueNotice_jobs]

theorem State.queueEarlyNotices_tt : s.queueEarlyNotices.tt = s.tt := by
  unfold State.queueEarlyNotices
  simp only [State.queueNotice_tt]

/-- R170: the slots once the early notices have been queued. -/
theorem State.queueEarlyNotices_slot (k : CaptureClass) : s.queueEarlyNotices.slot k =
    if k ≠ .directory ∧ s.reachable = true then (s.slot k).told k else s.slot k := by
  unfold State.queueEarlyNotices
  simp only [State.queueNotice_slot, State.queueNotice_reachable]
  cases k <;> simp

theorem State.queueEarlyNotices_port (m : NodeId) : s.queueEarlyNotices.port m = if m = s.noticeNode ∧ s.reachable = true then
    (s.port m).send (((s.slot .node).owed .node).toList ++ ((s.slot .memory).owed .memory).toList ++
      ((s.slot .dataLoss).owed .dataLoss).toList) else s.port m := by
  unfold State.queueEarlyNotices
  simp only [State.queueNotice_port, State.queueNotice_slot, State.queueNotice_reachable, State.queueNotice_noticeNode]
  split <;> simp

/-- The notices and the resolutions of a fence, in their order (log entry 23). -/
def State.noticesAndResolutions (n : NodeId) : State := (s.queueEarlyNotices.resolveAll n).queueNotice .directory

variable (n : NodeId)

theorem State.notices_same : SameBeside s (s.noticesAndResolutions n) := by
  refine .of_eq ?_
  unfold State.noticesAndResolutions
  rw [State.queueNotice_beside, State.resolveAll_beside, State.queueEarlyNotices_beside]

theorem State.notices_entry (i : TTIdx) : (s.noticesAndResolutions n).entry i = (s.entry i).map fun e => e.resolvedBoth n := by
  unfold State.noticesAndResolutions
  rw [State.entry_congr (State.queueNotice_tt _ _), State.resolveAll_entry, State.entry_congr s.queueEarlyNotices_tt]

theorem State.notices_pacing (i : TTIdx) : ((s.noticesAndResolutions n).ttSlot i).pacing = (s.ttSlot i).pacing := by
  have directory : ((s.noticesAndResolutions n).ttSlot i).pacing = ((s.queueEarlyNotices.resolveAll n).ttSlot i).pacing := by
    unfold State.noticesAndResolutions State.ttSlot
    rw [State.queueNotice_tt]
  have early : (s.queueEarlyNotices.ttSlot i).pacing = (s.ttSlot i).pacing := by
    unfold State.ttSlot
    rw [s.queueEarlyNotices_tt]
  exact directory.trans (((Resolving.resolveAll _ n).pacing i).trans early)

/-- R67, R170: the records offered, the slots, and the port of the notice node. -/
theorem State.notices_offered : ∃ rs : List CaptureRecord, rs.length = s.losses n ∧ (∀ x ∈ rs, s.LossRecord n x) ∧
    (s.noticesAndResolutions n).jobs = s.jobs ∧ (s.noticesAndResolutions n).reachable = s.reachable ∧
    (∀ k, (s.noticesAndResolutions n).slot k =
      if k = .dataLoss then rs.foldl (CaptureSlot.afterOffer s.reachable) (if s.reachable = true then (s.slot k).told k else s.slot k)
      else if s.reachable = true then (s.slot k).told k else s.slot k) ∧
    ∀ m, (s.noticesAndResolutions n).port m = if m = s.noticeNode ∧ s.reachable = true then
      (s.port m).send (((s.slot .node).owed .node).toList ++ ((s.slot .memory).owed .memory).toList ++
        (((s.slot .dataLoss).owed .dataLoss).toList ++ ((s.slot .dataLoss).told .dataLoss).sent rs) ++
        ((s.slot .directory).owed .directory).toList) else s.port m := by
  obtain ⟨rs, offered, count, records⟩ := s.queueEarlyNotices.resolveAll_offered n
  have early := s.queueEarlyNotices_same
  have entry : ∀ i, s.queueEarlyNotices.entry i = s.entry i := State.entry_congr s.queueEarlyNotices_tt
  have losses : s.queueEarlyNotices.losses n = s.losses n := State.losses_of_kept fun i r => by
    rw [Bool.eq_iff_iff, State.losesOwner_iff, State.losesOwner_iff, entry]
  have reach : (s.queueEarlyNotices.resolveAll n).reachable = s.reachable := offered.reachable.trans s.queueEarlyNotices_reachable
  have noticeNode : (s.queueEarlyNotices.resolveAll n).noticeNode = s.noticeNode := offered.same.noticeNode.trans early.noticeNode
  refine ⟨rs, count.trans losses, fun x hx => ?_, ?_, ?_, fun k => ?_, fun m => ?_⟩
  · obtain ⟨i, e, r, he, hl, rfl⟩ := records x hx
    exact ⟨i, e, r, (entry i) ▸ he, hl, by rw [early.timeBase]⟩
  · unfold State.noticesAndResolutions
    rw [State.queueNotice_jobs, offered.jobs, s.queueEarlyNotices_jobs]
  · unfold State.noticesAndResolutions
    rw [State.queueNotice_reachable, reach]
  · unfold State.noticesAndResolutions
    rw [State.queueNotice_slot, reach, offered.slot, offered.slot, s.queueEarlyNotices_slot, s.queueEarlyNotices_slot,
      s.queueEarlyNotices_reachable]
    cases k <;> simp
  · unfold State.noticesAndResolutions
    rw [State.queueNotice_port, reach, noticeNode, offered.port, offered.slot, s.queueEarlyNotices_port, early.noticeNode,
      s.queueEarlyNotices_reachable, s.queueEarlyNotices_slot, s.queueEarlyNotices_slot]
    by_cases e : m = s.noticeNode ∧ s.reachable = true
    · simp [e]
    · simp only [if_neg e]

end

/-! ### The fence -/

section
variable (s : State) (n : NodeId)

theorem State.fenceLists_wbEntry (w : WBIdx) : (s.fenceLists n).wbEntry w = (s.wbEntry w).map (WBEntry.fence n) := by
  simp [State.fenceLists, State.wbEntry]

/-- R12, R160: a job whose notice is withdrawn and which is then ABANDONED, in one. -/
theorem State.fencedJobs_eq : placeFenceJob n ((s.jobs.map (Job.withdrawn (s.producers n))).map (Job.abandon n)) = s.fencedJobs n := by
  unfold State.fencedJobs
  rw [List.map_map]
  refine congrArg (placeFenceJob n) (List.map_congr_left fun j _ => ?_)
  obtain ⟨kind, phase⟩ := j
  cases phase with
  | done o x =>
    cases x with
    | queued => by_cases h : Producer.job kind ∈ s.producers n <;> simp [Job.withdrawn, Job.abandon, h]
    | _ => rfl
  | _ => rfl

/-- R151: the fence job takes a place in the list. -/
theorem placeFenceJob_self (js : List Job) : ⟨.fenceNode n, .queued⟩ ∈ placeFenceJob n js := by
  induction js with
  | nil => exact List.mem_singleton_self _
  | cons j js ih =>
    unfold placeFenceJob
    split
    · exact List.mem_cons_self
    · exact List.mem_cons_of_mem _ ih

/-- The last part of a fence: the Writeback Buffer, the Control Queue and the Sweep List, and the job notices. -/
def State.fenceEnd : State := (s.fenceLists n).queueJobNotices

theorem State.fenceEnd_same : SameBeside (s.fenceLists n) (s.fenceEnd n) := State.queueJobNotices_same _

theorem State.fenceEnd_entry (i : TTIdx) : (s.fenceEnd n).entry i = s.entry i := State.entry_congr (State.queueJobNotices_tt _) i

theorem State.fenceEnd_pacing (i : TTIdx) : ((s.fenceEnd n).ttSlot i).pacing = (s.ttSlot i).pacing := by
  unfold State.fenceEnd State.ttSlot
  rw [State.queueJobNotices_tt]
  rfl

theorem State.fenceEnd_wbEntry (w : WBIdx) : (s.fenceEnd n).wbEntry w = (s.wbEntry w).map (WBEntry.fence n) := by
  rw [State.wbEntry, (s.fenceEnd_same n).wb]
  exact s.fenceLists_wbEntry n w

theorem State.fenceEnd_slot (k : CaptureClass) : (s.fenceEnd n).slot k = s.slot k :=
  State.slot_congr (State.queueJobNotices_slots _) k

theorem State.fenceEnd_jobs : (s.fenceEnd n).jobs =
    if s.reachable = true then (placeFenceJob n (s.jobs.map (Job.abandon n))).map Job.noticeQueued
    else placeFenceJob n (s.jobs.map (Job.abandon n)) := State.queueJobNotices_jobs _

theorem State.fenceEnd_port (m : NodeId) : (s.fenceEnd n).port m = if m = s.noticeNode ∧ s.reachable = true then
    (s.port m).send ((placeFenceJob n (s.jobs.map (Job.abandon n))).filterMap Job.owed) else s.port m :=
  State.queueJobNotices_port _ m

variable (why : FenceReason)

/-- R142: the three parts of a fence. -/
theorem State.fence_parts : ∃ c d, c = s.cutOff n why ∧ d = c.noticesAndResolutions n ∧ s.fence n why = d.fenceEnd n :=
  ⟨_, _, rfl, rfl, rfl⟩

theorem State.fence_entry (i : TTIdx) :
    (s.fence n why).entry i = (s.entry i).map fun e => (e.fenced n).resolvedBoth n := by
  obtain ⟨c, d, hc, hd, parts⟩ := s.fence_parts n why
  rw [parts, State.fenceEnd_entry, hd, State.notices_entry, hc, State.cutOff_entry, Option.map_map]
  rfl

theorem State.fence_pacing (i : TTIdx) : ((s.fence n why).ttSlot i).pacing =
    if .tt i ∈ s.producers n then (s.ttSlot i).pacing.del n else (s.ttSlot i).pacing := by
  obtain ⟨c, d, hc, hd, parts⟩ := s.fence_parts n why
  rw [parts, State.fenceEnd_pacing, hd, State.notices_pacing, hc, State.cutOff_pacing]

theorem State.fence_refusalMarks : (s.fence n why).refusalMarks =
    if .intake ∈ s.producers n then s.refusalMarks.del n else s.refusalMarks := by
  obtain ⟨c, d, hc, hd, parts⟩ := s.fence_parts n why
  have lists : (d.fenceLists n).refusalMarks = d.refusalMarks := rfl
  rw [parts, (d.fenceEnd_same n).refusalMarks, lists, hd, (c.notices_same n).refusalMarks, hc, State.cutOff_refusalMarks]

theorem State.fence_agent : (s.fence n why).agent = if .agent ∈ s.producers n then .ready else s.agent := by
  obtain ⟨c, d, hc, hd, parts⟩ := s.fence_parts n why
  have lists : (d.fenceLists n).agent = d.agent := rfl
  rw [parts, (d.fenceEnd_same n).agent, lists, hd, (c.notices_same n).agent, hc, State.cutOff_agent]

theorem State.fence_wbEntry (w : WBIdx) : (s.fence n why).wbEntry w =
    if .wb w ∈ s.producers n then none else (s.wbEntry w).map (WBEntry.fence n) := by
  obtain ⟨c, d, hc, hd, parts⟩ := s.fence_parts n why
  have wb : d.wbEntry w = c.wbEntry w := by
    unfold State.wbEntry
    rw [hd, (c.notices_same n).wb]
  rw [parts, State.fenceEnd_wbEntry, wb, hc, State.cutOff_wbEntry]
  split <;> rfl

theorem State.fence_jobs_eq : (s.fence n why).jobs =
    if s.reachable = true ∧ s.noticeNode ≠ n then (s.fencedJobs n).map Job.noticeQueued else s.fencedJobs n := by
  obtain ⟨c, d, hc, hd, parts⟩ := s.fence_parts n why
  obtain ⟨rs, -, -, jobs, reach, -, -⟩ := c.notices_offered n
  rw [← hd] at jobs reach
  have list : placeFenceJob n (d.jobs.map (Job.abandon n)) = s.fencedJobs n := by
    rw [jobs, hc, State.cutOff_jobs, s.fencedJobs_eq n]
  have listed : d.reachable = true ↔ s.reachable = true ∧ s.noticeNode ≠ n := by
    rw [reach, hc, State.cutOff_reachable]
  rw [parts, State.fenceEnd_jobs, list]
  simp only [listed]

theorem State.cutOff_losses : (s.cutOff n why).losses n = s.losses n := by
  refine State.losses_of_kept fun i r => ?_
  rw [Bool.eq_iff_iff, State.losesOwner_iff, State.losesOwner_iff, s.cutOff_entry n why]
  constructor
  · rintro ⟨f, hf, hl⟩
    obtain ⟨e, he, rfl⟩ := Option.map_eq_some_iff.mp hf
    exact ⟨e, he, hl⟩
  · rintro ⟨e, he, hl⟩
    exact ⟨e.fenced n, by rw [he]; rfl, hl⟩

theorem State.cutOff_lossRecord {x : CaptureRecord} (h : (s.cutOff n why).LossRecord n x) : s.LossRecord n x := by
  obtain ⟨i, f, r, hf, hl, rfl⟩ := h
  rw [s.cutOff_entry n why] at hf
  obtain ⟨e, he, rfl⟩ := Option.map_eq_some_iff.mp hf
  refine ⟨i, e, r, he, hl, ?_⟩
  rw [s.cutOff_timeBase n why]
  cases r <;> rfl

/-- R67, R170: the OWNER_LOST records that a fence offers, its slots, and its ports. -/
theorem State.fence_offered {reach : Bool} (hr : reach = true ↔ s.reachable = true ∧ s.noticeNode ≠ n) :
    ∃ rs : List CaptureRecord, rs.length = s.losses n ∧ (∀ x ∈ rs, s.LossRecord n x) ∧
    (∀ k, (s.fence n why).slot k = if k = .dataLoss then
        rs.foldl (CaptureSlot.afterOffer reach) (if reach = true then (s.withdrawnSlot n k).told k else s.withdrawnSlot n k)
      else if reach = true then (s.withdrawnSlot n k).told k else s.withdrawnSlot n k) ∧
    ∀ m, m ≠ n → (s.fence n why).port m = if m = s.noticeNode ∧ reach = true then
      (s.port m).send (((s.withdrawnSlot n .node).owed .node).toList ++ ((s.withdrawnSlot n .memory).owed .memory).toList ++
        (((s.withdrawnSlot n .dataLoss).owed .dataLoss).toList ++ ((s.withdrawnSlot n .dataLoss).told .dataLoss).sent rs) ++
        ((s.withdrawnSlot n .directory).owed .directory).toList ++ (s.fencedJobs n).filterMap Job.owed) else s.port m := by
  obtain ⟨c, d, hc, hd, parts⟩ := s.fence_parts n why
  have cutReach : c.reachable = reach := by rw [Bool.eq_iff_iff, hr, hc, State.cutOff_reachable]
  have cutSlot : ∀ k, c.slot k = s.withdrawnSlot n k := fun k => by rw [hc, State.cutOff_slot]
  have cutNotice : c.noticeNode = s.noticeNode := by rw [hc, State.cutOff_noticeNode]
  obtain ⟨rs, count, records, jobs, listed, slot, port⟩ := c.notices_offered n
  rw [cutReach] at listed slot port
  rw [← hd] at jobs listed slot port
  have notice : d.noticeNode = s.noticeNode := by rw [hd, (c.notices_same n).noticeNode, cutNotice]
  have list : placeFenceJob n (d.jobs.map (Job.abandon n)) = s.fencedJobs n := by
    rw [jobs, hc, State.cutOff_jobs, s.fencedJobs_eq n]
  subst hc
  refine ⟨rs, count.trans (s.cutOff_losses n why), fun x hx => s.cutOff_lossRecord n why (records x hx), fun k => ?_,
    fun m hm => ?_⟩
  · rw [parts, State.fenceEnd_slot, slot, cutSlot]
  · rw [parts, State.fenceEnd_port, notice, listed, list, port, cutNotice, State.cutOff_port, if_neg hm, cutSlot, cutSlot,
      cutSlot, cutSlot]
    by_cases e : m = s.noticeNode ∧ reach = true
    · simp only [if_pos e, Port.send_send]
    · simp only [if_neg e]

end

/-- Settles O19: the fields from `Fenced`; the Sweep List and the entries from the parts of the fence. -/
theorem fenceCutsTheNodeOff : Obligations.FenceCutsTheNodeOff := by
  intro s n why
  have fenced := s.fence_fenced n why
  have jobs := s.fence_jobs_eq n why
  have rest := fenced.rest
  simp only [Prod.mk.injEq] at rest
  obtain ⟨-, -, -, -, -, -, -, -, -, regions, dir, mp0, mp1⟩ := rest
  refine ⟨fenced.node, fenced.port, fenced.others, fenced.inbox, fenced.hold, fenced.controlQ, fenced.wb, fun j hj hk => ?_,
    ?_, jobs, fenced.record, fun i f hf => ?_, regions, dir, mp0, mp1⟩
  · have done := fenced.noQuiesce j hj hk
    cases hp : j.phase with
    | done o x => exact ⟨o, x, rfl⟩
    | _ => simp [Job.live, hp] at done
  · have placed : ⟨.fenceNode n, .queued⟩ ∈ s.fencedJobs n := placeFenceJob_self n _
    rw [jobs]
    split
    · exact ⟨_, List.mem_map_of_mem placed, rfl⟩
    · exact ⟨_, placed, rfl⟩
  · rw [s.fence_entry n why] at hf
    obtain ⟨e, -, rfl⟩ := Option.map_eq_some_iff.mp hf
    have frame := (e.fenced n).resolvedBoth_frame n
    simp only [TTEntry.frame, Prod.mk.injEq] at frame
    obtain ⟨-, requester, orphaned, -, -, -, -, -, -, -, -, held, -⟩ := frame
    refine ⟨fun h => ?_, fun p hp => ?_, (e.fenced n).resolvedBoth_openMember n⟩
    · have own : e.requestedBy n = true := by
        unfold TTEntry.requestedBy at h ⊢
        rw [requester] at h
        exact h
      rw [orphaned]
      simp [TTEntry.fenced, own]
    · rw [held] at hp
      simpa using (List.mem_filter.mp hp).2

end Sys2Proof.Machine
end

section
/-! What a fence makes of the DATA_LOSS slot and of the slots' notices (R165 to R170), and the member that is formed for a FENCED
node (R65, R143). -/

namespace Sys2Proof.Machine

/-! ### A slot that records are offered to -/

section
variable (t : CaptureSlot) (r : CaptureRecord)

/-- R166: a record offered to an EMPTY slot. -/
theorem CaptureSlot.offer_empty (h : t.record = none) : t.offer r = ⟨some r, 0#4, false, none, .pending, .none, t.outstanding⟩ := by
  unfold CaptureSlot.offer
  rw [h]

/-- R167: what any offer to a LOCKED slot keeps, and its count. -/
theorem CaptureSlot.offer_locked {x : CaptureRecord} (h : t.record = some x) : (t.offer r).record = some x ∧
    (t.offer r).overflow.toNat = min 15 (t.overflow.toNat + 1) ∧ (t.offer r).outstanding = t.outstanding := by
  have count : (if t.overflow.toNat < Config.overflowMax then t.overflow + 1#4 else t.overflow).toNat =
      min 15 (t.overflow.toNat + 1) := by
    have bound := t.overflow.isLt
    have max : Config.overflowMax = 15 := rfl
    rw [max]
    split
    · rw [BitVec.toNat_add]
      have one : (1#4).toNat = 1 := rfl
      omega
    · omega
  unfold CaptureSlot.offer
  rw [h]
  dsimp only
  split
  · exact ⟨rfl, count, rfl⟩
  · exact ⟨rfl, count, rfl⟩

/-- R168: an offer to a slot LOCKED by a DATA_LOST record escalates nothing. -/
theorem CaptureSlot.offer_dataLost {x : CaptureRecord} (h : t.record = some x) (hs : x.reason.severity = .dataLost) :
    (t.offer r).lockNotice = t.lockNotice ∧ (t.offer r).escalationNotice = t.escalationNotice := by
  unfold CaptureSlot.offer
  rw [h]
  dsimp only
  rw [if_neg]
  · exact ⟨rfl, rfl⟩
  · rintro ⟨-, k, -⟩
    rw [hs] at k
    cases k

/-- R170: whether a slot owes a notice rests on its record and its marks. -/
theorem CaptureSlot.owed_eq_none_iff (k : CaptureClass) : t.owed k = none ↔
    t.record = none ∨ t.outstanding = true ∨ t.lockNotice ≠ .pending ∧ t.escalationNotice ≠ .pending := by
  unfold CaptureSlot.owed
  cases t.record with
  | none => simp
  | some x =>
    by_cases h1 : t.outstanding = true <;> by_cases h2 : t.lockNotice = .pending <;>
      by_cases h3 : t.escalationNotice = .pending <;> simp [h1, h2, h3]

/-- R170: a slot told of its notice owes none: that notice is outstanding. -/
theorem CaptureSlot.told_owed (k : CaptureClass) : (t.told k).owed k = none := by
  cases h : t.owed k with
  | none => rw [CaptureSlot.told_none h, h]
  | some o =>
    rw [CaptureSlot.owed_eq_none_iff, CaptureSlot.told_some h]
    exact .inr (.inl rfl)

theorem CaptureSlot.offer_outstanding : (t.offer r).outstanding = t.outstanding := by
  cases h : t.record with
  | none => rw [t.offer_empty r h]
  | some x => exact (t.offer_locked r h).2.2

/-- R170: behind an outstanding notice the slot queues none. -/
theorem CaptureSlot.sent_outstanding (h : t.outstanding = true) (rs : List CaptureRecord) : t.sent rs = [] := by
  induction rs generalizing t with
  | nil => rfl
  | cons r rs ih =>
    have out : (t.offer r).outstanding = true := (t.offer_outstanding r).trans h
    have none : (t.offer r).owed .dataLoss = none := ((t.offer r).owed_eq_none_iff _).mpr (.inr (.inl out))
    unfold CaptureSlot.sent
    rw [none, CaptureSlot.afterOffer, if_pos rfl, CaptureSlot.told_none none, ih _ out]
    rfl

/-- R170: a slot queues at most one notice while it is told of none that departs. -/
theorem CaptureSlot.sent_atMostOne (rs : List CaptureRecord) : ∃ o : Option OutMsg, t.sent rs = o.toList := by
  induction rs generalizing t with
  | nil => exact ⟨none, rfl⟩
  | cons r rs ih =>
    unfold CaptureSlot.sent
    cases h : (t.offer r).owed .dataLoss with
    | none =>
      obtain ⟨o, ho⟩ := ih (t.afterOffer true r)
      exact ⟨o, ho⟩
    | some o =>
      have out : (t.afterOffer true r).outstanding = true := by
        rw [CaptureSlot.afterOffer, if_pos rfl, CaptureSlot.told_some h]
      exact ⟨some o, by rw [CaptureSlot.sent_outstanding _ out]; rfl⟩

theorem CaptureSlot.told_sent_atMostOne (rs : List CaptureRecord) :
    ∃ o : Option OutMsg, (t.owed .dataLoss).toList ++ (t.told .dataLoss).sent rs = o.toList := by
  cases h : t.owed .dataLoss with
  | none =>
    rw [CaptureSlot.told_none h]
    exact t.sent_atMostOne rs
  | some o =>
    have out : (t.told .dataLoss).outstanding = true := by rw [CaptureSlot.told_some h]
    exact ⟨some o, by rw [CaptureSlot.sent_outstanding _ out]; rfl⟩

end

theorem Option.toList_injective {α : Type} {a b : Option α} (h : a.toList = b.toList) : a = b := by
  simpa using congrArg List.head? h

/-! ### Several offers -/

section
variable {reach : Bool} {t : CaptureSlot}

theorem CaptureSlot.afterOffer_record (r : CaptureRecord) : (t.afterOffer reach r).record = (t.offer r).record ∧
    (t.afterOffer reach r).overflow = (t.offer r).overflow := by
  unfold CaptureSlot.afterOffer
  split
  · obtain ⟨record, overflow, -, -⟩ := (t.offer r).told_record .dataLoss
    exact ⟨record, overflow⟩
  · exact ⟨rfl, rfl⟩

/-- R167: a LOCKED slot keeps its record and counts the offers, up to 15. -/
theorem CaptureSlot.foldl_locked {x : CaptureRecord} (h : t.record = some x) (rs : List CaptureRecord) :
    (rs.foldl (CaptureSlot.afterOffer reach) t).record = some x ∧
      (rs.foldl (CaptureSlot.afterOffer reach) t).overflow = BitVec.ofNat 4 (min 15 (t.overflow.toNat + rs.length)) := by
  induction rs generalizing t with
  | nil =>
    refine ⟨h, BitVec.eq_of_toNat_eq ?_⟩
    have bound := t.overflow.isLt
    rw [BitVec.toNat_ofNat]
    simp only [List.length_nil, List.foldl_nil]
    omega
  | cons r rs ih =>
    obtain ⟨record, overflow⟩ := CaptureSlot.afterOffer_record (reach := reach) (t := t) r
    obtain ⟨kept, count, -⟩ := t.offer_locked r h
    obtain ⟨record', overflow'⟩ := ih (record.trans kept)
    refine ⟨record', overflow'.trans (congrArg (BitVec.ofNat 4) ?_)⟩
    rw [overflow, count, List.length_cons]
    omega

/-- R168, R170: a slot LOCKED by a DATA_LOST record, which owes no notice while the notice node is reachable, keeps its
notices as they are, and sends none. -/
theorem CaptureSlot.foldl_dataLost {x : CaptureRecord} (h : t.record = some x) (hs : x.reason.severity = .dataLost)
    (ho : reach = true → t.owed .dataLoss = none) (rs : List CaptureRecord) :
    (rs.foldl (CaptureSlot.afterOffer reach) t).lockNotice = t.lockNotice ∧
      (rs.foldl (CaptureSlot.afterOffer reach) t).escalationNotice = t.escalationNotice ∧
      (rs.foldl (CaptureSlot.afterOffer reach) t).outstanding = t.outstanding ∧ (reach = true → t.sent rs = []) := by
  induction rs generalizing t with
  | nil => exact ⟨rfl, rfl, rfl, fun _ => rfl⟩
  | cons r rs ih =>
    obtain ⟨kept, -, outstanding⟩ := t.offer_locked r h
    obtain ⟨lock, escalation⟩ := t.offer_dataLost r h hs
    have quiet : reach = true → (t.offer r).owed .dataLoss = none := fun hr => by
      have none := (t.owed_eq_none_iff .dataLoss).mp (ho hr)
      rw [CaptureSlot.owed_eq_none_iff, kept, lock, escalation, outstanding]
      rw [h] at none
      exact none
    have after : t.afterOffer reach r = t.offer r := by
      unfold CaptureSlot.afterOffer
      split
      · next hr => exact CaptureSlot.told_none (quiet hr)
      · rfl
    obtain ⟨h1, h2, h3, h4⟩ := ih (t := t.afterOffer reach r) (after ▸ kept) (after ▸ quiet)
    rw [after] at h1 h2 h3 h4
    refine ⟨?_, ?_, ?_, fun hr => ?_⟩
    · rw [List.foldl_cons, after, h1, lock]
    · rw [List.foldl_cons, after, h2, escalation]
    · rw [List.foldl_cons, after, h3, outstanding]
    · subst hr
      unfold CaptureSlot.sent
      rw [quiet rfl, after, h4 rfl]
      rfl

/-- R166 to R168, R170: offers of DATA_LOST records to an EMPTY slot: the first locks it, its lock notice is queued when it
can be, and the others are counted. -/
theorem CaptureSlot.foldl_empty (h : t.record = none) {r : CaptureRecord} (hs : r.reason.severity = .dataLost)
    (rs : List CaptureRecord) :
    ((r :: rs).foldl (CaptureSlot.afterOffer reach) t).record = some r ∧
      ((r :: rs).foldl (CaptureSlot.afterOffer reach) t).overflow = BitVec.ofNat 4 (min 15 rs.length) ∧
      ((r :: rs).foldl (CaptureSlot.afterOffer reach) t).lockNotice = (t.afterOffer reach r).lockNotice ∧
      ((r :: rs).foldl (CaptureSlot.afterOffer reach) t).escalationNotice = (t.afterOffer reach r).escalationNotice ∧
      ((r :: rs).foldl (CaptureSlot.afterOffer reach) t).outstanding = (t.afterOffer reach r).outstanding ∧
      (reach = true → t.sent (r :: rs) = ((t.offer r).owed .dataLoss).toList) := by
  obtain ⟨record, overflow⟩ := CaptureSlot.afterOffer_record (reach := reach) (t := t) r
  rw [t.offer_empty r h] at record overflow
  have quiet : reach = true → (t.afterOffer reach r).owed .dataLoss = none := fun hr => by
    rw [CaptureSlot.afterOffer, if_pos hr]
    exact (t.offer r).told_owed .dataLoss
  obtain ⟨kept, count⟩ := CaptureSlot.foldl_locked (reach := reach) record rs
  obtain ⟨lock, escalation, outstanding, sent⟩ := CaptureSlot.foldl_dataLost record hs quiet rs
  refine ⟨kept, count.trans (congrArg (BitVec.ofNat 4) ?_), lock, escalation, outstanding, fun hr => ?_⟩
  · rw [overflow]
    simp
  · subst hr
    unfold CaptureSlot.sent
    rw [sent rfl, List.append_nil]

/-- R166, R170: the first DATA_LOST record offered to an EMPTY slot locks it, and its lock notice is queued at once unless a
notice of the slot is outstanding. -/
theorem CaptureSlot.afterOffer_empty (h : t.record = none) {r : CaptureRecord} :
    (t.outstanding = true → (t.offer r).owed .dataLoss = none ∧
      t.afterOffer true r = ⟨some r, 0#4, false, none, .pending, .none, true⟩) ∧
    (t.outstanding = false →
      (t.offer r).owed .dataLoss = some ⟨.faultNotice r.reason r.reason.severity 0#4, .capture .dataLoss false⟩ ∧
      t.afterOffer true r = ⟨some r, 0#4, false, none, .queued, .none, true⟩) := by
  have offered := t.offer_empty r h
  refine ⟨fun out => ?_, fun out => ?_⟩
  · rw [out] at offered
    have none : (t.offer r).owed .dataLoss = none := by rw [offered]; rfl
    rw [CaptureSlot.afterOffer, if_pos rfl, CaptureSlot.told_none none]
    exact ⟨none, offered⟩
  · rw [out] at offered
    have owes : (t.offer r).owed .dataLoss =
        some ⟨.faultNotice r.reason r.reason.severity 0#4, .capture .dataLoss false⟩ := by rw [offered]; rfl
    refine ⟨owes, ?_⟩
    rw [CaptureSlot.afterOffer, if_pos rfl, CaptureSlot.told_some owes, offered]
    rfl

theorem CaptureSlot.foldl_outstanding (rs : List CaptureRecord) :
    (rs.foldl (CaptureSlot.afterOffer false) t).outstanding = t.outstanding := by
  induction rs generalizing t with
  | nil => rfl
  | cons r rs ih => exact (ih (t := t.afterOffer false r)).trans (t.offer_outstanding r)

/-- The notices of the DATA_LOSS slot name it as their producer. -/
theorem CaptureSlot.sent_producer (rs : List CaptureRecord) : ∀ o ∈ t.sent rs, ∃ y, o.producer = .capture .dataLoss y := by
  induction rs generalizing t with
  | nil => exact nofun
  | cons r rs ih =>
    intro o ho
    rcases List.mem_append.mp ho with ho | ho
    · obtain ⟨x, -, -, ⟨-, rfl⟩ | ⟨-, -, rfl⟩⟩ := CaptureSlot.owed_some (Option.mem_toList.mp ho)
      · exact ⟨false, rfl⟩
      · exact ⟨true, rfl⟩
    · exact ih o ho

end

/-! ### The fence (R12, R67, R143, R166 to R171) -/

section
variable (s : State) (n : NodeId) (why : FenceReason)

/-- R51, R67: the entries. -/
theorem State.fence_resolves (i : TTIdx) : (s.entry i = none → (s.fence n why).entry i = none) ∧
    ∀ e, s.entry i = some e → ∃ f, (s.fence n why).entry i = some f ∧
      (∀ r, e.FenceResolves f r n) ∧
      (f.changed = true ↔ e.changed = true ∨ e.repairs .primary = false ∧ e.openMember .primary n ≠ none) ∧
      ((∀ r, e.repairs r = true → e.openMember r n = none) → f.repairNote = e.repairNote) ∧
      (∀ r, e.repairs r = true → e.openMember r n ≠ none →
        f.repairNote = some (match e.repairNote with | some m => min m n | none => n)) ∧
      (f.kind = e.kind ∧ f.requester = e.requester ∧ f.block = e.block ∧ f.loc = e.loc ∧ f.lookup = e.lookup ∧
        f.phase = e.phase ∧ f.memOp = e.memOp ∧ f.write = e.write ∧ f.verdict = e.verdict ∧ f.opened = e.opened) := by
  refine ⟨fun h => by rw [s.fence_entry n why, h]; rfl, fun e he => ⟨(e.fenced n).resolvedBoth n, ?_, fun r => ?_,
    (e.fenced n).resolvedBoth_changed n, (e.fenced n).resolvedBoth_repairNote_same n, fun r hr hm => ?_, ?_⟩⟩
  · rw [s.fence_entry n why, he]
    rfl
  · exact (e.fenced n).fenceResolves_both n r
  · exact (e.fenced n).resolvedBoth_repairNote n (r := r) hr hm
  · have frame := (e.fenced n).resolvedBoth_frame n
    simp only [TTEntry.frame, Prod.mk.injEq] at frame
    obtain ⟨kind, requester, -, block, loc, lookup, phase, memOp, write, verdict, opened, -, -⟩ := frame
    exact ⟨kind, requester, block, loc, lookup, phase, memOp, write, verdict, opened⟩

theorem State.losses_eq_zero (h : ∀ i r, s.losesOwner n i r = false) : s.losses n = 0 := by
  unfold State.losses
  simp [h]

theorem State.LossRecord.severity {s : State} {n : NodeId} {x : CaptureRecord} (h : s.LossRecord n x) :
    x.reason.severity = .dataLost := by
  obtain ⟨i, e, r, -, -, rfl⟩ := h
  rfl

/-- A slot told of its notice or not, by its record and its count. -/
theorem CaptureSlot.told_or_not (w : CaptureSlot) (reach : Bool) :
    (if reach = true then w.told .dataLoss else w).record = w.record ∧
      (if reach = true then w.told .dataLoss else w).overflow = w.overflow := by
  split
  · obtain ⟨record, overflow, -, -⟩ := w.told_record .dataLoss
    exact ⟨record, overflow⟩
  · exact ⟨rfl, rfl⟩

/-- R165 to R167: the record and the count of the DATA_LOSS slot. -/
theorem State.fence_dataLoss {w u : CaptureSlot} (hw : w = s.withdrawnSlot n .dataLoss) (hu : u = (s.fence n why).slot .dataLoss) :
    ((∀ i r, s.losesOwner n i r = false) → u.record = w.record ∧ u.overflow = w.overflow) ∧
    (w.record = none → 1 ≤ s.losses n → u.overflow = BitVec.ofNat 4 (min 15 (s.losses n - 1)) ∧
      ∃ i e r, s.losesOwner n i r = true ∧ s.entry i = some e ∧
        u.record = some ⟨.ownerLost, some n, e.blockOf r, none, none, none, s.timeBase⟩) ∧
    (∀ x, w.record = some x →
      u.record = some x ∧ u.overflow = BitVec.ofNat 4 (min 15 (w.overflow.toNat + s.losses n))) := by
  obtain ⟨rs, count, records, slot, -⟩ := s.fence_offered n why (s.cutOff_reachable n why)
  generalize (s.cutOff n why).reachable = reach at slot
  have final := hu.trans ((slot .dataLoss).trans (if_pos rfl))
  rw [← hw] at final
  obtain ⟨record, overflow⟩ := w.told_or_not reach
  generalize (if reach = true then w.told .dataLoss else w) = v at final record overflow
  rw [← record, ← overflow, ← count]
  refine ⟨fun h => ?_, fun h hl => ?_, fun x h => ?_⟩
  · have empty : rs = [] := List.length_eq_zero_iff.mp (count.trans (s.losses_eq_zero n h))
    rw [final, empty]
    exact ⟨rfl, rfl⟩
  · cases rs with
    | nil => cases hl
    | cons r rs =>
      obtain ⟨locked, total, -⟩ := CaptureSlot.foldl_empty (reach := reach) h (records r List.mem_cons_self).severity rs
      obtain ⟨i, e, q, he, hlose, rfl⟩ := records r List.mem_cons_self
      rw [final]
      exact ⟨total, i, e, q, (s.losesOwner_iff n i q).mpr ⟨e, he, hlose⟩, he, locked⟩
  · rw [final]
    exact CaptureSlot.foldl_locked h rs

/-- R12: what the withdrawn messages release, and the ports that a fence does not touch. -/
theorem State.fence_releases :
    (s.fence n why).refusalMarks = (if .intake ∈ s.producers n then s.refusalMarks.del n else s.refusalMarks) ∧
    (s.fence n why).agent = (if .agent ∈ s.producers n then .ready else s.agent) ∧
    (∀ i, ((s.fence n why).ttSlot i).pacing =
      if .tt i ∈ s.producers n then (s.ttSlot i).pacing.del n else (s.ttSlot i).pacing) ∧
    (∀ w, (s.fence n why).wbEntry w = if .wb w ∈ s.producers n then none else (s.wbEntry w).map fun x =>
      if x.writer = n then { x with fenced := true } else x) ∧
    (∀ m, m ≠ n → m ≠ s.noticeNode → (s.fence n why).port m = s.port m) := by
  obtain ⟨rs, -, -, -, port⟩ := s.fence_offered n why (s.cutOff_reachable n why)
  exact ⟨s.fence_refusalMarks n why, s.fence_agent n why, s.fence_pacing n why, s.fence_wbEntry n why, fun m hm hn =>
    (port m hm).trans (if_neg fun h => hn h.1)⟩

/-- R170: while no notice can be queued. -/
theorem State.fence_unreachable (h : s.reachable = false ∨ s.noticeNode = n) :
    (∀ m, m ≠ n → (s.fence n why).port m = s.port m) ∧
    (∀ k, k ≠ .dataLoss ∨ s.losses n = 0 → (s.fence n why).slot k = s.withdrawnSlot n k) ∧
    (∀ w u, w = s.withdrawnSlot n .dataLoss → u = (s.fence n why).slot .dataLoss →
      u.outstanding = w.outstanding ∧
      (w.record = none → 1 ≤ s.losses n → u.lockNotice = .pending ∧ u.escalationNotice = .none) ∧
      (∀ x, w.record = some x → x.reason.severity = .dataLost →
        u.lockNotice = w.lockNotice ∧ u.escalationNotice = w.escalationNotice)) := by
  have closed : false = true ↔ s.reachable = true ∧ s.noticeNode ≠ n := by
    refine iff_of_false Bool.false_ne_true ?_
    rintro ⟨hr, hn⟩
    rcases h with h | h
    · rw [hr] at h
      cases h
    · exact hn h
  obtain ⟨rs, count, records, slot, port⟩ := s.fence_offered n why closed
  refine ⟨fun m hm => (port m hm).trans (if_neg fun h => Bool.false_ne_true h.2), fun k hk => ?_, ?_⟩
  · rw [slot]
    rcases hk with hk | hk
    · exact if_neg hk
    · have empty : rs = [] := List.length_eq_zero_iff.mp (count.trans hk)
      rw [empty]
      exact ite_self _
  · intro w u hw hu
    have final : u = rs.foldl (CaptureSlot.afterOffer false) w := by
      rw [hu, hw, slot, if_pos rfl]
      rfl
    rw [final]
    refine ⟨CaptureSlot.foldl_outstanding rs, fun hn hl => ?_, fun x hx hs => ?_⟩
    · cases rs with
      | nil => rw [← count] at hl; cases hl
      | cons r rs =>
        obtain ⟨-, -, lock, escalation, -⟩ :=
          CaptureSlot.foldl_empty (reach := false) hn (records r List.mem_cons_self).severity rs
        have offered : w.afterOffer false r = w.offer r := rfl
        rw [lock, escalation, offered, w.offer_empty r hn]
        exact ⟨rfl, rfl⟩
    · obtain ⟨lock, escalation, -⟩ := CaptureSlot.foldl_dataLost (reach := false) hx hs nofun rs
      exact ⟨lock, escalation⟩

/-- R147, R170: while notices can be queued: at most one of each slot, in slot order, and the job notices behind them. -/
theorem State.fence_reachable (hr : s.reachable = true) (hn : s.noticeNode ≠ n) : ∃ f : CaptureClass → Option OutMsg,
      ((s.fence n why).port s.noticeNode).outbound =
        (s.port s.noticeNode).outbound ++ allClasses.filterMap f ++ (s.fencedJobs n).filterMap Job.owed ∧
      (∀ k, k ≠ .dataLoss ∨ s.losses n = 0 →
        f k = (s.withdrawnSlot n k).owed k ∧ (s.fence n why).slot k = (s.withdrawnSlot n k).told k) ∧
      (∀ w u, w = s.withdrawnSlot n .dataLoss → u = (s.fence n why).slot .dataLoss →
        (w.record = none → w.outstanding = true → 1 ≤ s.losses n →
          f .dataLoss = none ∧ u.lockNotice = .pending ∧ u.escalationNotice = .none ∧ u.outstanding = true) ∧
        (w.record = none → w.outstanding = false → 1 ≤ s.losses n →
          f .dataLoss = some ⟨.faultNotice .ownerLost .dataLost 0#4, .capture .dataLoss false⟩ ∧
          u.lockNotice = .queued ∧ u.escalationNotice = .none ∧ u.outstanding = true) ∧
        (∀ x, w.record = some x → x.reason.severity = .dataLost →
          f .dataLoss = w.owed .dataLoss ∧ u.lockNotice = (w.told .dataLoss).lockNotice ∧
          u.escalationNotice = (w.told .dataLoss).escalationNotice ∧
          u.outstanding = (w.told .dataLoss).outstanding)) := by
  obtain ⟨rs, count, records, slot, port⟩ := s.fence_offered n why (reach := true) (iff_of_true rfl ⟨hr, hn⟩)
  obtain ⟨o, ho⟩ := (s.withdrawnSlot n .dataLoss).told_sent_atMostOne rs
  refine ⟨fun k => if k = .dataLoss then o else (s.withdrawnSlot n k).owed k, ?_, fun k hk => ?_, fun w u hw hu => ?_⟩
  · have notices : allClasses.filterMap (fun k => if k = .dataLoss then o else (s.withdrawnSlot n k).owed k) =
        ((s.withdrawnSlot n .node).owed .node).toList ++ ((s.withdrawnSlot n .memory).owed .memory).toList ++ o.toList ++
          ((s.withdrawnSlot n .directory).owed .directory).toList := by
      simp only [allClasses, List.filterMap_cons, List.filterMap_nil, reduceCtorEq, if_false, if_true]
      cases (s.withdrawnSlot n .node).owed .node <;> cases (s.withdrawnSlot n .memory).owed .memory <;> cases o <;>
        cases (s.withdrawnSlot n .directory).owed .directory <;> rfl
    rw [port _ hn, if_pos ⟨rfl, rfl⟩, Port.send_outbound, ho, notices]
    simp only [List.append_assoc]
  · rw [slot]
    by_cases e : k = .dataLoss
    · subst e
      have empty : rs = [] := List.length_eq_zero_iff.mp (count.trans (hk.resolve_left fun h => h rfl))
      rw [empty, CaptureSlot.sent, List.append_nil] at ho
      refine ⟨?_, by rw [empty]; rfl⟩
      exact (if_pos rfl).trans (Option.toList_injective ho.symm)
    · exact ⟨if_neg e, if_neg e⟩
  · rw [← hw] at ho
    have final : u = rs.foldl (CaptureSlot.afterOffer true) (w.told .dataLoss) := by
      rw [hu, hw, slot, if_pos rfl, if_pos rfl]
    have locks : w.record = none → 1 ≤ s.losses n → ∃ r, s.LossRecord n r ∧ (w.offer r).owed .dataLoss = o ∧
        u.lockNotice = (w.afterOffer true r).lockNotice ∧ u.escalationNotice = (w.afterOffer true r).escalationNotice ∧
        u.outstanding = (w.afterOffer true r).outstanding := fun h hl => by
      have none := (w.owed_eq_none_iff .dataLoss).mpr (.inl h)
      rw [none, CaptureSlot.told_none none] at ho
      rw [CaptureSlot.told_none none] at final
      cases rs with
      | nil => rw [← count] at hl; cases hl
      | cons r rs =>
        have lost := records r List.mem_cons_self
        obtain ⟨-, -, lock, escalation, outstanding, sent⟩ := CaptureSlot.foldl_empty (reach := true) h lost.severity rs
        rw [sent rfl] at ho
        rw [final]
        exact ⟨r, lost, Option.toList_injective ho, lock, escalation, outstanding⟩
    refine ⟨fun h hout hl => ?_, fun h hout hl => ?_, fun x hx hs => ?_⟩
    · obtain ⟨r, -, notice, lock, escalation, outstanding⟩ := locks h hl
      obtain ⟨none, after⟩ := (CaptureSlot.afterOffer_empty h (r := r)).1 hout
      rw [after] at lock escalation outstanding
      exact ⟨(if_pos rfl).trans (notice.symm.trans none), lock, escalation, outstanding⟩
    · obtain ⟨r, ⟨i, e, q, -, -, rfl⟩, notice, lock, escalation, outstanding⟩ := locks h hl
      obtain ⟨owes, after⟩ := (CaptureSlot.afterOffer_empty h (r := ⟨.ownerLost, some n, e.blockOf q, none, none, none,
        s.timeBase⟩)).2 hout
      rw [after] at lock escalation outstanding
      exact ⟨(if_pos rfl).trans (notice.symm.trans owes), lock, escalation, outstanding⟩
    · obtain ⟨record, -⟩ := w.told_record .dataLoss
      obtain ⟨lock, escalation, outstanding, sent⟩ :=
        CaptureSlot.foldl_dataLost (reach := true) (record.trans hx) hs (fun _ => w.told_owed .dataLoss) rs
      rw [sent rfl, List.append_nil] at ho
      rw [final]
      exact ⟨(if_pos rfl).trans (Option.toList_injective ho.symm), lock, escalation, outstanding⟩

end

/-! ### A member formed for a FENCED node (R65, R143) -/

theorem State.sendRecall_fenced {s : State} (i : TTIdx) (r : Role) (b : Block) {n : NodeId} (x : RecallKind)
    (h : (s.node n).state = .fenced) : s.sendRecall i r b (n, x) = s.resolveAtFence i r n := if_pos h

/-- R143: the member is resolved at once, and nothing is sent to the node. -/
theorem State.resolveAtFence_resolves {s : State} {i : TTIdx} {e : TTEntry} (r : Role) (n : NodeId) (he : s.entry i = some e) :
    ∃ f, (s.resolveAtFence i r n).entry i = some f ∧ e.FenceResolves f r n ∧ f.held = e.held ∧
      ((s.resolveAtFence i r n).ttSlot i).pacing = (s.ttSlot i).pacing ∧
      (∀ m, ∃ ms, ((s.resolveAtFence i r n).port m).outbound = (s.port m).outbound ++ ms ∧
        ∀ o ∈ ms, ∃ y, o.producer = .capture .dataLoss y) ∧
      (∀ m, e.openMember r n = some m → e.repairs r = false → e.ownerOf r = some n → m.status ≠ .absorbedWb →
        s.HoldsRecord (s.resolveAtFence i r n) ⟨.ownerLost, some n, e.blockOf r, none, none, none, s.timeBase⟩) := by
  have resolving := Resolving.resolveAtFence s i r n
  obtain ⟨rs, offered, -, -⟩ := resolving.offered
  have frame := e.resolvedAtFence_frame r n
  simp only [TTEntry.frame, Prod.mk.injEq] at frame
  obtain ⟨-, -, -, -, -, -, -, -, -, -, -, held, -⟩ := frame
  refine ⟨e.resolvedAtFence r n, ?_, e.fenceResolves r n, held, resolving.pacing i, fun m => ?_, fun m hm hr ho hs => ?_⟩
  · rw [State.resolveAtFence_entry, if_pos rfl, he]
    rfl
  · rw [offered.port]
    split
    · exact ⟨_, rfl, CaptureSlot.sent_producer rs⟩
    · exact ⟨[], (List.append_nil _).symm, nofun⟩
  · have lost : e.Loses r n := ⟨m, hm, hr, ho, hs⟩
    rcases s.resolveAtFence_cases i r n with ⟨-, k⟩ | ⟨x, f, hx, -, ⟨k, -⟩ | ⟨-, k⟩⟩
    · rw [k e he] at hm
      cases hm
    · rw [he] at hx
      cases hx
      exact absurd lost k
    · rw [he] at hx
      cases hx
      rw [k]
      exact (State.offer_holds _ _).before rfl

/-- Settles O20: the entries, the DATA_LOSS slot, the releases and the notices of the fence, and the member formed for a FENCED
node. -/
theorem fenceResolvesAndReleases : Obligations.FenceResolvesAndReleases := by
  refine ⟨fun s n why i => s.fence_resolves n why i, fun s n why w u hw hu => s.fence_dataLoss n why hw hu,
    fun s n why => s.fence_releases n why, fun s n why h => s.fence_unreachable n why h,
    fun s n why hr hn => s.fence_reachable n why hr hn, fun s i r b n x e hf he => ?_⟩
  rw [State.sendRecall_fenced i r b x hf]
  exact State.resolveAtFence_resolves r n he

end Sys2Proof.Machine
end

section
/-! The Region Map: the regions that stay apart, the lookup, and the two resets (chapter 2; R22, R23, R33, R35). -/

namespace Sys2Proof.Machine

/-! ### Records that meet (R33) -/

/-- R33: two records share no block, and no address of one memory port. -/
def Region.Apart (x y : Region) : Prop :=
  (∀ b, ¬(x.contains b = true ∧ y.contains b = true)) ∧ (x.port = y.port → ∀ a, ¬(x.stores a ∧ y.stores a))

theorem Region.Apart.symm {x y : Region} (h : x.Apart y) : y.Apart x :=
  ⟨fun b k => h.1 b k.symm, fun e a k => h.2 e.symm a k.symm⟩

theorem State.RegionsApart.apart {s : State} (h : s.RegionsApart) {r q : RegionIdx} (hne : r ≠ q)
    (hr : (s.region r).state ≠ .closed) (hq : (s.region q).state ≠ .closed) : (s.region r).Apart (s.region q) :=
  h r q hne hr hq

theorem Region.contains_iff (x : Region) (b : Block) :
    x.contains b = true ↔ x.base.toNat ≤ b.toNat ∧ b.toNat < x.base.toNat + x.count := by
  simp [Region.contains]

theorem rangesMeet_iff (a n b m : Nat) : rangesMeet a n b m = true ↔ ∃ k, a ≤ k ∧ k < a + n ∧ b ≤ k ∧ k < b + m := by
  simp only [rangesMeet, decide_eq_true_eq]
  constructor
  · intro h
    exact ⟨max a b, by omega⟩
  · rintro ⟨k, hk⟩
    omega

theorem Region.meets_iff (x y : Region) : x.meets y = true ↔
    (∃ k : Nat, x.base.toNat ≤ k ∧ k < x.base.toNat + x.count ∧ y.base.toNat ≤ k ∧ k < y.base.toNat + y.count) ∨
      (y.port = x.port ∧ ∃ a, x.stores a ∧ y.stores a) := by
  unfold Region.meets Region.stores
  simp only [Bool.or_eq_true, Bool.and_eq_true, beq_iff_eq, rangesMeet_iff, and_assoc, eq_comm (a := x.port)]

theorem Region.apart_of_not_meets {x y : Region} (h : ¬x.meets y = true) : x.Apart y := by
  rw [Region.meets_iff, not_or] at h
  obtain ⟨blocks, addresses⟩ := h
  refine ⟨fun b hb => blocks ⟨b.toNat, ?_⟩, fun e a ha => addresses ⟨e.symm, a, ha⟩⟩
  rw [Region.contains_iff, Region.contains_iff, and_assoc] at hb
  exact hb

theorem allRegions_ascending : allRegions.Pairwise (· < ·) := by decide
theorem mem_allRegions (r : RegionIdx) : r ∈ allRegions := by revert r; decide

theorem State.opensClear_iff (s : State) (r : RegionIdx) : s.opensClear r = true ↔
    ∀ q, q ≠ r → (s.region q).state ≠ .closed → ¬(s.region r).meets (s.region q) = true := by
  simp only [State.opensClear, List.all_eq_true, mem_allRegions, true_implies, Bool.or_eq_true, beq_iff_eq,
    Bool.not_eq_true', Bool.not_eq_true]
  exact forall_congr' fun q => by tauto

/-! ### Regions stay apart (R33) -/

/-- Between two states no record is opened, and a record that is not CLOSED changes its state at most. -/
def State.OpensNone (s t : State) : Prop :=
  ∀ r, (t.region r).state ≠ .closed →
    (s.region r).state ≠ .closed ∧ t.region r = { s.region r with state := (t.region r).state }

theorem State.OpensNone.of_regions {s t : State} (h : t.regions = s.regions) : s.OpensNone t := fun r hr => by
  rw [State.region_congr h] at hr ⊢
  exact ⟨hr, rfl⟩

theorem State.OpensNone.modRegion (s : State) (r : RegionIdx) (f : Region → Region)
    (h : (f (s.region r)).state ≠ .closed →
      (s.region r).state ≠ .closed ∧ f (s.region r) = { s.region r with state := (f (s.region r)).state }) :
    s.OpensNone (s.modRegion r f) := fun q => by
  rw [State.modRegion_region]
  split
  · next e => subst e; exact h
  · exact fun hq => ⟨hq, rfl⟩

theorem State.opensNone_warmReset (s : State) : s.OpensNone s.warmReset := fun r hr => by
  rw [State.warmReset_region] at hr ⊢
  refine ⟨fun e => hr ?_, rfl⟩
  simp [Region.warm, e]

/-- Regions that are apart stay so while none is opened. -/
theorem State.RegionsApart.opensNone {s t : State} (h : s.RegionsApart) (k : s.OpensNone t) : t.RegionsApart :=
  fun r q hne hr hq => by
    obtain ⟨open_r, same_r⟩ := k r hr
    obtain ⟨open_q, same_q⟩ := k q hq
    rw [same_r, same_q]
    exact h.apart hne open_r open_q

/-- R33: a record that meets no region joins those that are apart. -/
theorem State.RegionsApart.opened {s : State} (h : s.RegionsApart) (r : RegionIdx) (x : RegionState)
    (k : s.opensClear r = true) : (s.modRegion r fun y => { y with state := x }).RegionsApart := by
  have clear : ∀ q, q ≠ r → (s.region q).state ≠ .closed → (s.region r).Apart (s.region q) := fun q hne hq =>
    Region.apart_of_not_meets ((s.opensClear_iff r).mp k q hne hq)
  intro p q hne
  rw [State.modRegion_region, State.modRegion_region]
  by_cases hp : p = r
  · have hq : q ≠ r := fun e => hne (hp.trans e.symm)
    rw [if_pos hp, if_neg hq]
    exact fun _ hoq => clear q hq hoq
  · rw [if_neg hp]
    split
    · exact fun hop _ => (clear p hp hop).symm
    · exact h.apart hne

/-- Every update of the commands keeps the regions apart. -/
theorem Deed.regionsApart {fr : Prop} {s t : State} (d : Deed fr s t) : s.RegionsApart → t.RegionsApart := by
  induction d with
  | work w =>
    refine fun h => h.opensNone fun r hr => ?_
    rcases (Calm.of_work w).region r with e | e <;> rw [e] at hr ⊢
    · exact ⟨hr, rfl⟩
    · exact absurd rfl hr
  | trans _ _ h k => exact fun x => k (h x)
  | aside e =>
    simp only [State.guarded, Prod.mk.injEq] at e
    obtain ⟨-, -, -, -, regions, -⟩ := e
    exact fun h => h.opensNone (.of_regions regions)
  | fence s n why =>
    have rest := (s.fence_fenced n why).rest
    simp only [Prod.mk.injEq] at rest
    obtain ⟨-, -, -, -, -, -, -, -, -, regions, -⟩ := rest
    exact fun h => h.opensNone (.of_regions regions)
  | close s r u ho =>
    have closing := State.OpensNone.modRegion s r (fun x => { x with state := .closing }) fun _ => ⟨ho, rfl⟩
    exact fun h => h.opensNone closing
  | write s r f hc hf => exact fun h => h.opensNone (.modRegion s r f fun ho => absurd ((hf _).trans hc) ho)
  | opened s r x hc k => exact fun h => h.opened r x k
  | accept | taken | outbound | link | record | makeActive | quiesce | release | slot | free | control | ask | hold | leave =>
    exact fun h => h.opensNone (.of_regions rfl)

theorem State.regionsApart_reset : State.reset.RegionsApart := fun r _ _ hr => by
  rw [State.reset_region] at hr
  exact absurd rfl hr

/-- Settles O8: by induction over the updates of which a command is made; only OPEN_REGION opens a record, and only one that
meets no region. -/
theorem regionsStayApart : Obligations.RegionsStayApart := fun s t hs h =>
  step_keeps (P := State.RegionsApart) (fun _ _ k => k.opensNone (.of_regions rfl)) (fun _ _ _ d => d.regionsApart)
    (fun s k => k.opensNone s.opensNone_warmReset) (fun _ => State.regionsApart_reset.opensNone (.of_regions rfl))
    (fun _ _ k => k.opensNone (.of_regions rfl)) s t hs h

/-! ### The lookup (R22, R23) -/

/-- R22: the first search, among the records that are not CLOSED. -/
theorem State.mapLookup_region (s : State) (b : Block) (l : Loc) (st : RegionState) : s.mapLookup b = .region l st ↔
    ∃ r, (s.region r).state ≠ .closed ∧ (s.region r).contains b = true ∧
      (∀ q, q < r → (s.region q).state ≠ .closed → ¬(s.region q).contains b = true) ∧
      l = ⟨r, (s.region r).port, (s.region r).address b⟩ ∧ st = (s.region r).state := by
  have found := find?_ascending allRegions_ascending fun r => (s.region r).state != .closed && (s.region r).contains b
  simp only [mem_allRegions, true_and, true_implies, Bool.eq_false_iff, ne_eq, Bool.and_eq_true, bne_iff_ne,
    not_and] at found
  unfold State.mapLookup
  split
  · next r e =>
    obtain ⟨⟨ho, hc⟩, hq⟩ := (found r).mp e
    constructor
    · intro h
      cases h
      exact ⟨r, ho, hc, hq, rfl, rfl⟩
    · rintro ⟨p, po, pc, pq, rfl, rfl⟩
      rw [(found p).mpr ⟨⟨po, pc⟩, pq⟩] at e
      cases e
      rfl
  · next e =>
    refine iff_of_false (by split <;> nofun) ?_
    rintro ⟨p, po, pc, pq, -, -⟩
    rw [(found p).mpr ⟨⟨po, pc⟩, pq⟩] at e
    cases e

/-- R22: no record that is not CLOSED contains the block. -/
theorem State.mapLookup_second {s : State} {b : Block} (h : ∀ q, (s.region q).state ≠ .closed → ¬(s.region q).contains b = true) :
    s.mapLookup b = ((allRegions.find? fun r => (s.region r).contains b).map MapResult.closedRegion).getD .noRegion := by
  have first : (allRegions.find? fun r => (s.region r).state != .closed && (s.region r).contains b) = none := by
    rw [List.find?_eq_none]
    intro q _ hq
    rw [Bool.and_eq_true, bne_iff_ne] at hq
    exact h q hq.1 hq.2
  have same : (fun r => (s.region r).state == .closed && (s.region r).contains b) = fun r => (s.region r).contains b := by
    funext r
    by_cases hr : (s.region r).state = .closed
    · simp [hr]
    · simp [h r hr]
  unfold State.mapLookup
  rw [first, same]
  cases allRegions.find? fun r => (s.region r).contains b <;> rfl

/-- R22: the second search, among the CLOSED records. -/
theorem State.mapLookup_closedRegion {s : State} {b : Block} {r : RegionIdx}
    (h : ∀ q, (s.region q).state ≠ .closed → ¬(s.region q).contains b = true) (hr : (s.region r).contains b = true)
    (hq : ∀ q, q < r → ¬(s.region q).contains b = true) : s.mapLookup b = .closedRegion r := by
  rw [State.mapLookup_second h,
    (find?_ascending allRegions_ascending _ r).mpr ⟨mem_allRegions r, hr, fun q _ lt => Bool.eq_false_iff.mpr (hq q lt)⟩]
  rfl

theorem State.mapLookup_noRegion {s : State} {b : Block} (h : ∀ q, ¬(s.region q).contains b = true) :
    s.mapLookup b = .noRegion := by
  rw [State.mapLookup_second fun q _ => h q, List.find?_eq_none.mpr fun q _ => h q]
  rfl

/-- Settles O47: the first search from `State.mapLookup_region`, the second from `State.mapLookup_second`. -/
theorem regionLookup : Obligations.RegionLookup := by
  intro s b has hhas
  have contains : ∀ r, (s.region r).contains b = true ↔ has r := fun r => (Region.contains_iff _ b).trans (hhas r).symm
  refine ⟨fun r ho hr hq => ?_, fun r hn hr hq => ?_, fun hn => ?_⟩
  · exact (s.mapLookup_region b _ _).mpr
      ⟨r, ho, (contains r).mpr hr, fun q lt oq hc => hq q lt.ne oq ((contains q).mp hc), rfl, rfl⟩
  · exact State.mapLookup_closedRegion (fun q oq hc => hn q oq ((contains q).mp hc)) ((contains r).mpr hr)
      fun q lt hc => hq q lt ((contains q).mp hc)
  · exact State.mapLookup_noRegion fun q hc => hn q ((contains q).mp hc)

/-! ### The two resets (R35) -/

theorem State.reset_mapLookup (b : Block) : State.reset.mapLookup b = .noRegion :=
  State.mapLookup_noRegion fun q hc => by
    rw [State.reset_region, Region.contains_iff] at hc
    simp only [Region.cold] at hc
    omega

/-- R17: a request passes in a region that is COHERENT or UNTRACKED, admits its kind, and has its node in the set. -/
theorem State.regionCheck_pass {s : State} {n : NodeId} {k : ReqKind} {b : Block} {l : Loc} (h : s.regionCheck n k b = .pass l) :
    ∃ st, s.mapLookup b = .region l st ∧ (st = .coherent ∨ st = .untracked ∧ (k = .readOnce ∨ k = .writeThru)) := by
  cases e : s.mapLookup b with
  | noRegion => rw [State.regionCheck_noRegion n k e] at h; cases h
  | closedRegion r => rw [State.regionCheck_closedRegion n k e] at h; cases h
  | region l' st =>
    have same : (st = .coherent ∨ st = .untracked ∧ (k = .readOnce ∨ k = .writeThru)) → l' = l := fun hk => by
      rw [State.regionCheck_sets n e hk] at h
      rcases ite_eq_iff.mp h with ⟨-, e⟩ | ⟨-, e⟩ <;> cases e
      rfl
    cases st with
    | closed => unfold State.regionCheck at h; rw [e] at h; cases h
    | closing => rw [State.regionCheck_closing n k e] at h; cases h
    | coherent => exact ⟨_, by rw [same (.inl rfl)], .inl rfl⟩
    | untracked =>
      by_cases hk : k = .readOnce ∨ k = .writeThru
      · exact ⟨_, by rw [same (.inr ⟨rfl, hk⟩)], .inr ⟨rfl, hk⟩⟩
      · have coherent : k = .fetchS ∨ k = .fetchX ∨ k = .upgrade := by cases k <;> simp at hk ⊢
        rw [State.regionCheck_notTracked n e coherent] at h
        cases h

/-- R35: a warm reset closes the CLOSING regions; a region that is left open is found as before. -/
theorem State.warmReset_mapLookup {s : State} {b : Block} {l : Loc} {st : RegionState} (h : s.mapLookup b = .region l st)
    (hst : st ≠ .closing) : s.warmReset.mapLookup b = .region l st ∧ s.warmReset.region l.region = s.region l.region := by
  obtain ⟨r, ho, hc, hq, rfl, rfl⟩ := (s.mapLookup_region b l st).mp h
  have same : s.warmReset.region r = s.region r := by
    rw [State.warmReset_region, Region.warm, if_neg hst]
  refine ⟨(s.warmReset.mapLookup_region b _ _).mpr ⟨r, ?_⟩, same⟩
  rw [same]
  refine ⟨ho, hc, fun q lt oq hqc => ?_, rfl, rfl⟩
  obtain ⟨open_q, same_q⟩ := s.opensNone_warmReset q oq
  rw [same_q] at hqc
  exact hq q lt open_q hqc

/-- Settles O5: the cold records, the lookups that find none of them, and the warm records. -/
theorem regionMapResets : Obligations.RegionMapResets := by
  refine ⟨fun r => State.reset_region r, State.reset_mapLookup, fun s r => s.warmReset_region r,
    fun s => ⟨rfl, rfl, fun i => ?_⟩, fun n k b => State.regionCheck_noRegion n k (State.reset_mapLookup b),
    fun s n k b l h => ?_⟩
  · exact congrArg TTSlot.work (State.reset_ttSlot i)
  · obtain ⟨st, found, admits⟩ := State.regionCheck_pass h
    obtain ⟨found', same⟩ := State.warmReset_mapLookup found (by rcases admits with rfl | ⟨rfl, -⟩ <;> nofun)
    rw [State.regionCheck_sets n found admits] at h
    rw [State.regionCheck_sets n found' admits, same, h]

end Sys2Proof.Machine
end

section
/-! The region commands (chapter 2, section 2.4; R31 to R34) and the other commands that read (R146, R172, R179, R182, R183). -/

namespace Sys2Proof.Machine

/-! ### The arguments (12 section 12.3) -/

theorem State.withRegion_val (s : State) {c : ControlReq} {r : RegionIdx} (f : RegionIdx → State) (h : c.index = r.val) :
    s.withRegion c f = f r := by
  unfold State.withRegion
  rw [h, regionOf_val]

theorem State.withRegion_none (s : State) {c : ControlReq} (f : RegionIdx → State) (h : 15 < c.index) :
    s.withRegion c f = s.replies c .badArgument [] := by
  unfold State.withRegion
  rw [regionOf_none h]
  rfl

/-- A 40-bit argument: a byte of one word above the whole of another. -/
theorem wide_toNat (x y : Word) (lo : Nat) :
    (field x lo 8 ++ y).toNat = x.toNat / 2 ^ lo % 256 * 2 ^ 32 + y.toNat := by
  rw [BitVec.toNat_append, ← Nat.shiftLeft_add_eq_or_of_lt y.isLt, Nat.shiftLeft_eq, field_toNat]
  rfl

theorem ControlReq.baseArg_eq (c : ControlReq) : c.baseArg = (c.arg 2).toNat % 256 * 2 ^ 32 + (c.arg 1).toNat := by
  rw [ControlReq.baseArg, wide_toNat, pow_zero, Nat.div_one]

theorem ControlReq.countArg_eq (c : ControlReq) : c.countArg = (c.arg 2).toNat / 256 % 256 * 2 ^ 32 + (c.arg 3).toNat :=
  wide_toNat _ _ 8

theorem ControlReq.memBaseArg_eq (c : ControlReq) :
    c.memBaseArg = (c.arg 2).toNat / 65536 % 256 * 2 ^ 32 + (c.arg 4).toNat :=
  wide_toNat _ _ 16

theorem ControlReq.portCode_eq (c : ControlReq) : c.portCode = (c.arg 0).toNat / 256 % 16 := field_toNat _ _ _
theorem ControlReq.policyCode_eq (c : ControlReq) : c.policyCode = (c.arg 0).toNat / 4096 % 16 := field_toNat _ _ _

/-- A field of bits, as the bits of their quotient. -/
theorem extractLsb'_ofNat {n : Nat} (x : BitVec n) (lo w : Nat) : x.extractLsb' lo w = BitVec.ofNat w (x.toNat / 2 ^ lo) := by
  rw [BitVec.extractLsb', Nat.shiftRight_eq_div_pow]

theorem ControlReq.readSetArg_eq (c : ControlReq) : c.readSetArg = BitVec.ofNat 8 ((c.arg 0).toNat / 65536) :=
  extractLsb'_ofNat _ 16 8

theorem ControlReq.writeSetArg_eq (c : ControlReq) : c.writeSetArg = BitVec.ofNat 8 ((c.arg 0).toNat / 16777216) :=
  extractLsb'_ofNat _ 24 8

/-- R179: a 40-bit argument above 3_FFFF_FFFFh, which is 2^34 - 1, is no block. -/
theorem ControlReq.blockArg_none {c : ControlReq} (h : 2 ^ 34 ≤ (c.arg 1).toNat % 256 * 2 ^ 32 + (c.arg 0).toNat) :
    c.blockArg = none := by
  unfold ControlReq.blockArg
  rw [wide_toNat, pow_zero, Nat.div_one, Config.maxBlock]
  exact if_neg (by omega)

theorem ControlReq.blockArg_some {c : ControlReq} {b : Block}
    (h : b.toNat = (c.arg 1).toNat % 256 * 2 ^ 32 + (c.arg 0).toNat) : c.blockArg = some b := by
  have bound := b.isLt
  unfold ControlReq.blockArg
  rw [wide_toNat, pow_zero, Nat.div_one, ← h, Config.maxBlock]
  exact (if_pos (by omega)).trans (by rw [BitVec.ofNat_toNat, BitVec.setWidth_eq])

/-- The codes 0 and 1 name a memory port. -/
theorem portOfCode_some {k : Nat} (h : k ≤ 1) : portOfCode k = some (if k = 0 then .mp0 else .mp1) := by
  interval_cases k <;> rfl

theorem Policy.ofCode_some {k : Nat} (h : k ≤ 1) : Policy.ofCode k = some (if k = 0 then .deliver else .refuse) := by
  interval_cases k <;> rfl

theorem Policy.ofCode_none {k : Nat} (h : 1 < k) : Policy.ofCode k = none := by
  unfold Policy.ofCode
  rw [if_neg (by omega), if_neg (by omega)]

theorem openMode_some {k : Nat} (h : k = 1 ∨ k = 2) : openMode k = some (if k = 1 then .coherent else .untracked) := by
  rcases h with rfl | rfl <;> rfl

theorem openMode_none {k : Nat} (h : k ≠ 1 ∧ k ≠ 2) : openMode k = none := by
  unfold openMode
  rw [if_neg h.1, if_neg h.2]

/-! ### WRITE_REGION (R32) -/

theorem ControlReq.rangesOk_iff (c : ControlReq) : c.rangesOk = true ↔
    1 ≤ c.countArg ∧ c.countArg ≤ 2 ^ 34 ∧ c.baseArg + c.countArg ≤ 2 ^ 34 ∧ c.memBaseArg + c.countArg ≤ 2 ^ 34 := by
  unfold ControlReq.rangesOk
  simp only [Bool.and_eq_true, decide_eq_true_eq]
  unfold Config.maxCount Config.maxBlock
  omega

/-- R32: the record that WRITE_REGION writes. -/
theorem State.writeRegion_ok {s : State} {c : ControlReq} {r : RegionIdx} (hr : c.index = r.val)
    (hs : (s.region r).state = .closed) (hc : c.rangesOk = true) (hp : c.portCode ≤ 1) (hy : c.policyCode ≤ 1) :
    s.writeRegion c = (s.modRegion r fun _ =>
      ⟨.closed, BitVec.ofNat 34 c.baseArg, c.countArg, if c.portCode = 0 then .mp0 else .mp1, BitVec.ofNat 34 c.memBaseArg,
        c.readSetArg, c.writeSetArg, if c.policyCode = 0 then .deliver else .refuse⟩).replies c .ok [] := by
  unfold State.writeRegion
  rw [State.withRegion_val _ _ hr, if_neg (not_not_intro hs), if_neg (by rw [hc]; exact Bool.false_ne_true),
    portOfCode_some hp, Policy.ofCode_some hy, ← hs]
  rfl

/-- R32: the checks of the arguments. -/
theorem State.writeRegion_badArgument {s : State} {c : ControlReq} {r : RegionIdx} (hr : c.index = r.val)
    (hs : (s.region r).state = .closed) (h : ¬c.rangesOk = true ∨ 1 < c.portCode ∨ 1 < c.policyCode) :
    s.writeRegion c = s.replies c .badArgument [] := by
  unfold State.writeRegion
  rw [State.withRegion_val _ _ hr, if_neg (not_not_intro hs)]
  by_cases hc : c.rangesOk = true
  · rw [if_neg (by rw [hc]; exact Bool.false_ne_true)]
    rcases h with h | h | h
    · exact absurd hc h
    · rw [portOfCode_none h]
      rfl
    · rw [Policy.ofCode_none h]
      cases portOfCode c.portCode <;> rfl
  · exact if_pos (by rw [Bool.eq_false_iff.mpr hc]; rfl)

/-- Settles O49: the checks in their order, and the record that is written when all pass. -/
theorem writeRegion : Obligations.WriteRegion := by
  intro s c rest base count mem h hbase hcount hmem
  have performed : exec .writeRegion s = .next ((s.taking rest).writeRegion c) := h.performs rfl State.writeRegion
  rw [← c.baseArg_eq] at hbase
  rw [← c.countArg_eq] at hcount
  rw [← c.memBaseArg_eq] at hmem
  subst hbase hcount hmem
  rw [performed, ← c.index_eq, ← c.portCode_eq, ← c.policyCode_eq, ← c.readSetArg_eq, ← c.writeSetArg_eq]
  refine ⟨fun hb => congrArg _ (State.withRegion_none _ _ hb), fun r hr =>
    ⟨fun hs => congrArg _ ((State.withRegion_val _ _ hr).trans (if_pos hs)), fun hs => ⟨fun hb => congrArg _ ?_,
      fun h1 h2 h3 h4 hp hy => congrArg _ (State.writeRegion_ok hr hs (c.rangesOk_iff.mpr ⟨h1, h2, h3, h4⟩) hp hy)⟩⟩⟩
  refine State.writeRegion_badArgument hr hs ?_
  rw [c.rangesOk_iff]
  omega

/-! ### OPEN_REGION and CLOSE_REGION (R33, R34) -/

/-- R33: OPEN_REGION. -/
theorem openRegion_outcomes {s : State} {c : ControlReq} {rest : List ControlReq} (h : AgentTakes s 0x0A#8 1 c rest) :
    (15 < c.index ∨ (c.mode ≠ 1 ∧ c.mode ≠ 2) → exec .openRegion s = .next ((s.taking rest).replies c .badArgument [])) ∧
    (∀ r : RegionIdx, c.index = r.val → (c.mode = 1 ∨ c.mode = 2) →
      ((s.region r).state = .closed ∧ 1 ≤ (s.region r).count ∧ s.opensClear r = true →
        exec .openRegion s = .next (((s.taking rest).modRegion r fun x =>
          { x with state := if c.mode = 1 then .coherent else .untracked }).replies c .ok [])) ∧
      (¬((s.region r).state = .closed ∧ 1 ≤ (s.region r).count ∧ s.opensClear r = true) →
        exec .openRegion s = .next ((s.taking rest).replies c .badState []))) := by
  have performed : exec .openRegion s = .next ((s.taking rest).openRegion c) := h.performs rfl State.openRegion
  rw [performed]
  unfold State.openRegion
  refine ⟨fun hb => ?_, fun r hr hm => ?_⟩
  · rcases hb with hb | hb
    · rw [regionOf_none hb]
      rfl
    · rw [openMode_none hb]
      cases regionOf c.index <;> rfl
  · rw [hr, regionOf_val, openMode_some hm]
    exact ⟨fun ok => congrArg _ (if_pos ok), fun bad => congrArg _ (if_neg bad)⟩

theorem RegionState.closable_iff (x : RegionState) : x.closable = true ↔ x = .coherent ∨ x = .untracked := by
  cases x <;> simp [RegionState.closable]

/-- R34: CLOSE_REGION. -/
theorem closeRegion_outcomes {s : State} {c : ControlReq} {rest : List ControlReq} (h : AgentTakes s 0x0B#8 1 c rest) :
    (15 < c.index → exec .closeRegion s = .next ((s.taking rest).replies c .badArgument []).settle) ∧
    (∀ r : RegionIdx, c.index = r.val →
      ((s.region r).state = .closed ∨ (s.region r).state = .closing →
        exec .closeRegion s = .next ((s.taking rest).replies c .badState []).settle) ∧
      ((s.region r).state = .coherent ∨ (s.region r).state = .untracked →
        ((∃ j ∈ s.jobs, ∀ n, j.kind ≠ .fenceNode n) →
          exec .closeRegion s = .next ((s.taking rest).replies c .busy []).settle) ∧
        ((∀ j ∈ s.jobs, ∃ n, j.kind = .fenceNode n) →
          exec .closeRegion s = .next (State.replies
            { (s.taking rest).modRegion r (fun x => { x with state := .closing }) with
              jobs := s.jobs ++ [⟨.closeRegion r ((s.region r).state == .untracked), .queued⟩] } c .accepted []).settle))) := by
  have performed : exec .closeRegion s = .next ((s.taking rest).closeRegion c).settle :=
    h.performs rfl fun t c => (t.closeRegion c).settle
  have region : ∀ r, (s.taking rest).region r = s.region r := fun _ => rfl
  rw [performed]
  refine ⟨fun hb => congrArg _ (congrArg State.settle (State.withRegion_none _ _ hb)), fun r hr => ⟨fun hs => ?_, fun hs => ?_⟩⟩
  · have shut : (!(s.region r).state.closable) = true := by rcases hs with e | e <;> rw [e] <;> rfl
    exact congrArg _ (congrArg State.settle ((State.withRegion_val _ _ hr).trans (if_pos shut)))
  · have closable : ¬(!(s.region r).state.closable) = true := by
      rw [(RegionState.closable_iff _).mpr hs]
      exact Bool.false_ne_true
    refine ⟨fun hj => congrArg _ (congrArg State.settle ?_), fun hj => congrArg _ (congrArg State.settle ?_)⟩
    · exact (State.withRegion_val _ _ hr).trans ((if_neg closable).trans (if_pos (s.nonFenceListed_iff.mpr hj)))
    · have free : ¬(s.taking rest).nonFenceListed = true := fun hl => by
        obtain ⟨j, hm, hk⟩ := s.nonFenceListed_iff.mp hl
        obtain ⟨k, e⟩ := hj j hm
        exact hk k e
      exact (State.withRegion_val _ _ hr).trans ((if_neg closable).trans (if_neg free))

/-- Settles O50: the checks of OPEN_REGION from what it is that two records meet; CLOSE_REGION case by case. -/
theorem openAndCloseRegion : Obligations.OpenAndCloseRegion := by
  refine ⟨fun s c rest h => ?_, fun s c rest h => closeRegion_outcomes h⟩
  obtain ⟨badArgument, outcomes⟩ := openRegion_outcomes h
  refine ⟨badArgument, fun r hr hm => ?_⟩
  obtain ⟨ok, badState⟩ := outcomes r hr hm
  have meets := fun q => Region.meets_iff (s.region r) (s.region q)
  refine ⟨fun hb => badState ?_, fun hs hc hq => ok ⟨hs, hc, (s.opensClear_iff r).mpr fun q hne oq hm => ?_⟩⟩
  · rintro ⟨hs, hc, hq⟩
    rw [State.opensClear_iff] at hq
    rcases hb with hb | hb | ⟨q, hne, oq, hb⟩ | ⟨q, hne, oq, hp, hb⟩
    · exact hb hs
    · omega
    · exact hq q hne oq ((meets q).mpr (.inl hb))
    · exact hq q hne oq ((meets q).mpr (.inr ⟨hp, hb⟩))
  · obtain ⟨blocks, addresses⟩ := hq q hne oq
    rcases (meets q).mp hm with ⟨a, ha⟩ | ⟨hp, a, ha⟩
    · exact blocks a ha
    · exact addresses hp a ha

/-! ### The commands that read (R31, R146, R172, R179, R182, R183) -/

theorem State.withSlot_val (s : State) {c : ControlReq} {k : CaptureClass} (f : CaptureClass → State)
    (h : c.index = k.index.val) : s.withSlot c f = f k := by
  unfold State.withSlot
  rw [h, slotOf_index]

theorem State.withSlot_none (s : State) {c : ControlReq} (f : CaptureClass → State) (h : 3 < c.index) :
    s.withSlot c f = s.replies c .badArgument [] := by
  unfold State.withSlot
  rw [slotOf_none h]
  rfl

/-- The take of a READ_STATUS, whose part decides the row that performs it (log entry 18). -/
theorem AgentTakes.performs_part {s : State} {c : ControlReq} {rest : List ControlReq} (h : AgentTakes s 0x10#8 1 c rest)
    {mine : ControlReq → Bool} (hm : mine c = true) (perform : State → ControlReq → State) :
    run (fun t => t.agentTake mine perform) s = .next (perform (s.taking rest) c) := by
  rw [run_running _ _ h.running]
  congr 1
  exact State.agentTake_performs h.ready h.queue hm (by rw [h.code, h.count]; rfl)

theorem AgentTakes.asksJobs_iff {s : State} {c : ControlReq} {rest : List ControlReq} (h : AgentTakes s 0x10#8 1 c rest) :
    c.asksJobs = true ↔ c.index = 1 := by
  simp [ControlReq.asksJobs, ControlReq.is, h.code, h.count]

/-- R182: READ_STATUS of any part but JOBS. -/
theorem AgentTakes.readStatusGeneral {s : State} {c : ControlReq} {rest : List ControlReq} (h : AgentTakes s 0x10#8 1 c rest)
    (hc : c.index ≠ 1) : exec .readStatusGeneral s = .next ((s.taking rest).readStatusGeneral c) := by
  refine h.performs_part ?_ State.readStatusGeneral
  rw [Bool.and_eq_true, Bool.not_eq_true', ← Bool.not_eq_true, h.asksJobs_iff, ← h.code]
  exact ⟨c.is_code, hc⟩

/-- Settles O52: command by command; what is read is not changed by the take. -/
theorem readCommands : Obligations.ReadCommands := by
  refine ⟨fun s c rest h => ?_, fun s c rest h => ?_, fun s c rest h => ?_, fun s c rest h => ?_, fun s c rest h => ?_⟩
  · have performed : exec .readNode s = .next ((s.taking rest).readNode c) := h.performs rfl State.readNode
    rw [performed]
    exact ⟨fun hb => congrArg _ (State.withNode_none _ _ hb), fun n hn => congrArg _ (State.withNode_val _ _ hn)⟩
  · have performed : exec .readRegion s = .next ((s.taking rest).readRegion c) := h.performs rfl State.readRegion
    rw [performed]
    exact ⟨fun hb => congrArg _ (State.withRegion_none _ _ hb), fun r hr => congrArg _ (State.withRegion_val _ _ hr)⟩
  · have performed : exec .probeBlock s = .next ((s.taking rest).probeBlock c) := h.performs rfl State.probeBlock
    rw [performed]
    unfold State.probeBlock
    refine ⟨fun hb => ?_, fun b hb => ?_⟩
    · rw [ControlReq.blockArg_none hb]
      rfl
    · rw [ControlReq.blockArg_some hb]
      rfl
  · have performed : exec .readCapture s = .next ((s.taking rest).readCapture c) := h.performs rfl State.readCapture
    rw [performed]
    exact ⟨fun hb => congrArg _ (State.withSlot_none _ _ hb), fun k hk => congrArg _ (State.withSlot_val _ _ hk)⟩
  · refine ⟨fun hg => ?_, fun hb => ?_, fun hj => h.performs_part (h.asksJobs_iff.mpr hj) State.readStatusJobs⟩
    · rw [h.readStatusGeneral (by omega)]
      exact congrArg _ (if_pos hg)
    · rw [h.readStatusGeneral (by omega)]
      exact congrArg _ (if_neg (by omega))

end Sys2Proof.Machine
end

section
/-! The jobs of the Sweep Engine: how they are placed, begin and end, and report (chapter 9; R34, R140, R151 to R153, R159,
R161). -/

namespace Sys2Proof.Machine

/-! ### The Sweep List (R151) -/

theorem Job.isQueued_iff (j : Job) : j.isQueued = true ↔ j.phase = .queued := beq_iff_eq

/-- R151: the QUEUED non-fence job, ahead of which a fence job goes. -/
theorem Job.waits_iff (x : Job) : (x.kind.nonFence && x.isQueued) = true ↔ x.kind.nonFence = true ∧ x.phase = .queued := by
  rw [Bool.and_eq_true, Job.isQueued_iff]

/-- R151: a fence job passes the jobs that it does not go ahead of. -/
theorem placeFenceJob_append (n : NodeId) {pre : List Job} (h : ∀ x ∈ pre, ¬(x.kind.nonFence = true ∧ x.phase = .queued))
    (js : List Job) : placeFenceJob n (pre ++ js) = pre ++ placeFenceJob n js := by
  induction pre with
  | nil => rfl
  | cons x pre ih =>
    rw [List.forall_mem_cons, ← Job.waits_iff] at h
    rw [List.cons_append, placeFenceJob, if_neg h.1, ih h.2, List.cons_append]

theorem placeFenceJob_ahead (n : NodeId) {j : Job} (h : j.kind.nonFence = true ∧ j.phase = .queued) (js : List Job) :
    placeFenceJob n (j :: js) = ⟨.fenceNode n, .queued⟩ :: j :: js := by
  rw [placeFenceJob, if_pos (j.waits_iff.mpr h)]

/-! ### What the Sweep Engine does next (R152, R153, R159) -/

theorem State.runningJob_none (s : State) :
    s.runningJob = none ↔ ∀ x ∈ s.jobs, x.phase ≠ .draining ∧ ∀ w, x.phase ≠ .walking w := by
  unfold State.runningJob
  simp only [List.find?_eq_none, Job.running_iff, not_or, not_exists, ne_eq]

/-- R152: while no job runs, the first QUEUED one begins. -/
theorem State.sweepStep_idle {s : State} (h : s.runningJob = none) :
    s.sweepStep = (s.jobs.find? Job.isQueued).map fun j => s.beginJob j.kind := by
  unfold State.sweepStep
  rw [h]

theorem State.sweepStep_draining {s : State} {j : Job} (h : s.runningJob = some j) (hp : j.phase = .draining) :
    s.sweepStep = if s.drained j.kind = true then
      some (if j.kind.noWalk = true then s.jobDone j.kind else s.setPhase j.kind (.walking (.enter 0))) else none := by
  unfold State.sweepStep
  rw [h]
  dsimp only
  rw [hp]

theorem State.sweepStep_walking {s : State} {j : Job} {w : Walk} (h : s.runningJob = some j) (hp : j.phase = .walking w) :
    s.sweepStep = if w.passed = true then (if s.finalTest j.kind = true then some (s.jobDone j.kind) else none)
      else if w.due = true then some (s.readSet j.kind w) else none := by
  unfold State.sweepStep
  rw [h]
  dsimp only
  rw [hp]

/-- R152: a job that drains first. -/
theorem State.beginJob_nonFence (s : State) {k : JobKind} (h : k.nonFence = true) : s.beginJob k = s.setPhase k .draining := by
  cases k with
  | fenceNode n => cases h
  | closeRegion r u => rfl
  | quiesceNode n => rfl

theorem State.beginJob_fence (s : State) {k : JobKind} (h : k.nonFence = false) :
    s.beginJob k = s.setPhase k (.walking (.enter 0)) := by
  cases k with
  | fenceNode n => rfl
  | closeRegion r u => cases h
  | quiesceNode n => cases h

/-- R152: the first QUEUED job begins. -/
theorem State.sweepStep_begins {s : State} {pre post : List Job} {j : Job} (hs : s.jobs = pre ++ j :: post)
    (idle : s.runningJob = none) (hp : ∀ x ∈ pre, x.phase ≠ .queued) (hj : j.phase = .queued) :
    s.sweepStep = some (s.beginJob j.kind) := by
  have found : s.jobs.find? Job.isQueued = some j := by
    rw [List.find?_eq_some_iff_append]
    refine ⟨j.isQueued_iff.mpr hj, pre, post, hs, fun x hx => ?_⟩
    rw [Bool.not_eq_true', ← Bool.not_eq_true, Job.isQueued_iff]
    exact hp x hx
  rw [State.sweepStep_idle idle, found]
  rfl

/-! ### The end of a job (R140, R159, R161) -/

/-- R159: the state in which a job has reached DONE and its outcome is applied, and the notices are still to be queued. -/
def State.concluded (s : State) (k : JobKind) : State := (s.setPhase k (.done .completed .pending)).applyOutcome k

theorem State.jobDone_eq (s : State) (k : JobKind) : s.jobDone k = (s.concluded k).queueJobNotices := rfl

section
variable (s : State) (k : JobKind)

theorem State.concluded_jobs :
    (s.concluded k).jobs = s.jobs.map fun j => if j.kind = k then { j with phase := .done .completed .pending } else j := by
  cases k <;> rfl

theorem State.concluded_noticeNode : (s.concluded k).noticeNode = s.noticeNode := by cases k <;> rfl

/-- R140, R159: the end of a job sends nothing but its notice. -/
theorem State.concluded_outbound (n : NodeId) : ((s.concluded k).port n).outbound = (s.port n).outbound := by
  cases k with
  | closeRegion r u => rfl
  | fenceNode m => rfl
  | quiesceNode m =>
    refine (congrArg Port.outbound (Calm.quiesceDone_port (s.setPhase _ _) m n)).trans ?_
    split
    · next e => rw [e]; rfl
    · rfl

theorem State.jobDone_regions : (s.jobDone k).regions = (s.concluded k).regions := (s.concluded k).queueJobNotices_same.regions
theorem State.jobDone_nodes : (s.jobDone k).nodes = (s.concluded k).nodes := (s.concluded k).queueJobNotices_same.nodes

theorem State.jobDone_region (r : RegionIdx) : (s.jobDone k).region r = (s.concluded k).region r :=
  State.region_congr (s.jobDone_regions k) r

theorem State.jobDone_node (n : NodeId) : (s.jobDone k).node n = (s.concluded k).node n :=
  State.node_congr (s.jobDone_nodes k) n

/-- R161: the notices of the job's end leave the notice node as reachable as it was. -/
theorem State.jobDone_reachable : (s.jobDone k).reachable = (s.concluded k).reachable := by
  refine State.reachable_congr (s.concluded k).queueJobNotices_same.noticeNode (s.jobDone_node k _) ?_
  rw [State.jobDone_eq, State.queueJobNotices_port]
  split <;> rfl

theorem State.jobDone_jobs : (s.jobDone k).jobs =
    if (s.jobDone k).reachable = true then (s.concluded k).jobs.map Job.noticeQueued else (s.concluded k).jobs := by
  rw [State.jobDone_reachable]
  exact (s.concluded k).queueJobNotices_jobs

theorem State.jobDone_port (n : NodeId) : (s.jobDone k).port n = if n = s.noticeNode ∧ (s.jobDone k).reachable = true then
    ((s.concluded k).port n).send ((s.concluded k).jobs.filterMap Job.owed) else (s.concluded k).port n := by
  rw [State.jobDone_reachable, ← s.concluded_noticeNode k]
  exact (s.concluded k).queueJobNotices_port n

end

/-- R34: the end of a CLOSE_REGION closes its region. -/
theorem State.jobDone_closeRegion (s : State) (r : RegionIdx) (u : Bool) (q : RegionIdx) :
    (s.jobDone (.closeRegion r u)).region q = if q = r then { s.region r with state := .closed } else s.region q :=
  (s.jobDone_region _ q).trans (State.modRegion_region (s.setPhase _ _) r q fun x => { x with state := .closed })

/-- R140: the end of a QUIESCE_NODE makes its node OFFLINE. -/
theorem State.jobDone_quiesceNode (s : State) (n m : NodeId) :
    (s.jobDone (.quiesceNode n)).node m = if m = n then { s.node n with state := .offline } else s.node m :=
  (s.jobDone_node _ m).trans (Calm.quiesceDone_node (s.setPhase _ _) n m)

/-- R6, R140: the end of a QUIESCE_NODE empties the inboxes and the credits of its node's port. -/
theorem State.jobDone_silenced (s : State) (n : NodeId) : ∃ ms,
    (s.jobDone (.quiesceNode n)).port n = (s.port n).silenced.send ms := by
  have silenced : (s.concluded (.quiesceNode n)).port n = (s.port n).silenced :=
    (Calm.quiesceDone_port (s.setPhase _ _) n n).trans (if_pos rfl)
  rw [State.jobDone_port, silenced]
  split
  · exact ⟨_, rfl⟩
  · exact ⟨[], (Port.send_nil _).symm⟩

theorem Job.noticeQueued_kind (j : Job) : j.noticeQueued.kind = j.kind := by
  unfold Job.noticeQueued
  split <;> rfl

/-- R161: a notice queued leaves a job DONE with its outcome. -/
theorem Job.noticeQueued_done {j : Job} {o : JobOutcome} (h : ∃ x, j.phase = .done o x) :
    ∃ x, j.noticeQueued.phase = .done o x := by
  obtain ⟨x, h⟩ := h
  unfold Job.noticeQueued
  split
  · next e =>
    rw [h] at e
    cases e
    exact ⟨_, rfl⟩
  · exact ⟨x, h⟩

/-- R159: a job that has ended is DONE with outcome COMPLETED. -/
theorem State.concluded_done {s : State} {k : JobKind} {j : Job} (h : j ∈ (s.concluded k).jobs) (hk : j.kind = k) :
    ∃ x, j.phase = .done .completed x := by
  rw [State.concluded_jobs, List.mem_map] at h
  obtain ⟨i, -, rfl⟩ := h
  by_cases hi : i.kind = k
  · rw [if_pos hi]
    exact ⟨_, rfl⟩
  · rw [if_neg hi] at hk
    exact absurd hk hi

theorem State.jobDone_done {s : State} {k : JobKind} {j : Job} (h : j ∈ (s.jobDone k).jobs) (hk : j.kind = k) :
    ∃ x, j.phase = .done .completed x := by
  rw [State.jobDone_jobs] at h
  split at h
  · obtain ⟨i, hi, rfl⟩ := List.mem_map.mp h
    exact Job.noticeQueued_done (State.concluded_done hi (i.noticeQueued_kind.symm.trans hk))
  · exact State.concluded_done h hk

/-- Settles O59: the place of a fence job, the actions of the Sweep Engine, and the end of a job by `State.concluded`. -/
theorem jobsBeginAndEnd : Obligations.JobsBeginAndEnd := by
  refine ⟨fun n pre post j hp hn hq => ?_, fun n js h => ?_, fun s pre post j hs hr hp hj => ?_, JobKind.nonFence_iff,
    fun s hr hq => ?_, fun s j r hr hk hp => ?_, fun s j w hr hp hw => ?_, fun s r u => ⟨?_, fun q hq => ?_, ?_⟩, fun s n => ?_,
    fun s k j h hk => State.jobDone_done h hk, fun s t k js ht hjs => ?_⟩
  · rw [placeFenceJob_append n hp, placeFenceJob_ahead n ⟨hn, hq⟩]
  · exact (congrArg _ (List.append_nil js).symm).trans (placeFenceJob_append n h [])
  · have begins := State.sweepStep_begins hs (s.runningJob_none.mpr hr) hp hj
    exact ⟨fun hn => begins.trans (congrArg some (s.beginJob_nonFence hn)),
      fun hf => begins.trans (congrArg some (s.beginJob_fence hf))⟩
  · rw [State.sweepStep_idle hr, List.find?_eq_none.mpr fun x hx => (not_congr x.isQueued_iff).mpr (hq x hx)]
    rfl
  · rw [State.sweepStep_draining hr hp, hk]
    rfl
  · rw [State.sweepStep_walking hr hp, if_pos hw]
  · exact (s.jobDone_closeRegion r u r).trans (if_pos rfl)
  · exact (s.jobDone_closeRegion r u q).trans (if_neg hq)
  · exact s.jobDone_nodes _
  · obtain ⟨ms, port⟩ := s.jobDone_silenced n
    rw [port]
    exact ⟨(s.jobDone_quiesceNode n n).trans (if_pos rfl), rfl, rfl, rfl, rfl,
      fun m hm => (s.jobDone_quiesceNode n m).trans (if_neg hm), s.jobDone_regions _, s.jobDone_nodes _, s.jobDone_regions _⟩
  · rw [← State.concluded_jobs] at hjs
    subst ht hjs
    have jobs := s.jobDone_jobs k
    have port := s.jobDone_port k
    refine ⟨fun hr => ?_, fun hr => ?_⟩
    · simp only [hr, Bool.false_eq_true, and_false, if_false] at jobs port
      exact ⟨jobs, fun n => by rw [port, State.concluded_outbound]⟩
    · simp only [hr, and_true, if_true] at jobs port
      refine ⟨jobs, ?_, fun n hn => ?_⟩
      · rw [port, if_pos rfl, Port.send_outbound, State.concluded_outbound]
      · rw [port, if_neg hn, State.concluded_outbound]

end Sys2Proof.Machine
end

section
/-! The words in which the agent answers (chapter 12, section 12.3; R31, R99, R146, R162, R172, R173, R179, R182, R183). -/

namespace Sys2Proof.Machine

/-! ### Fields and flags beside each other -/

theorem placeBit_field_apart {lo a w : Nat} (b : Bool) (h : a + w ≤ lo ∨ lo + 1 ≤ a) : (placeBit lo b).extractLsb' a w = 0#w :=
  place_field_apart (u := 1) (Bool.toNat_lt b) h

theorem placeBit_bit_apart {lo i : Nat} (b : Bool) (h : i < lo ∨ lo + 1 ≤ i) : (placeBit lo b).getLsbD i = false :=
  place_bit_apart (u := 1) (Bool.toNat_lt b) h

theorem place_zero (lo : Nat) : place lo 0 = 0#32 := BitVec.zero_shiftLeft lo

/-- A field of a number that fits the bits. -/
theorem ofNat_field {n lo w : Nat} (h : lo + w ≤ n) (v : Nat) :
    (BitVec.ofNat n v).extractLsb' lo w = BitVec.ofNat w (v / 2 ^ lo) := by
  refine BitVec.eq_of_getLsbD_eq fun i hi => ?_
  rw [BitVec.getLsbD_extractLsb', BitVec.getLsbD_ofNat, BitVec.getLsbD_ofNat, Nat.testBit_div_two_pow, Nat.add_comm lo]
  have : i + lo < n := by omega
  simp [hi, this]

/-- A bit of a field. -/
theorem getLsbD_of_field {n k lo : Nat} {w : BitVec n} {x : BitVec k} (h : w.extractLsb' lo k = x) {i : Nat} (hi : i < k) :
    w.getLsbD (lo + i) = x.getLsbD i := by
  rw [← h, BitVec.getLsbD_extractLsb', decide_eq_true hi, Bool.true_and]

/-- An absent field reads zero, so that the field is as small as its values. -/
theorem getD_map_lt {α : Type} {f : α → Nat} {m : Nat} (hm : 0 < m) (hf : ∀ x, f x < m) (o : Option α) :
    (o.map f).getD 0 < m := by
  cases o with
  | none => exact hm
  | some x => exact hf x

theorem NodeState.code_lt (x : NodeState) : x.code < 2 ^ 2 := by cases x <;> decide
theorem RegionState.code_lt (x : RegionState) : x.code < 2 ^ 2 := by cases x <;> decide
theorem NoticeState.code_lt (x : NoticeState) : x.code < 2 ^ 2 := by cases x <;> decide
theorem Policy.code_lt (x : Policy) : x.code < 2 ^ 1 := by cases x <;> decide
theorem portCodeOf_lt (x : MPort) : portCodeOf x < 2 ^ 1 := by cases x <;> decide
theorem JobPhase.code_lt (x : JobPhase) : x.code < 2 ^ 2 := by cases x <;> simp [JobPhase.code]

theorem fenceReasonCode_lt (x : Option FenceReason) : fenceReasonCode x < 2 ^ 2 := by
  cases x with
  | none => decide
  | some r => cases r <;> decide

/-! ### READ_NODE (R146) -/

theorem nodeWords_fields (l : LinkState) (r : NodeRec) : ∃ w : Word, nodeWords l r = [w] ∧
    w.extractLsb' 0 2 = BitVec.ofNat 2 r.state.code ∧ w.getLsbD 2 = (l == .up) ∧ w.getLsbD 3 = r.manager ∧
    w.extractLsb' 4 2 = BitVec.ofNat 2 (fenceReasonCode r.fenceReason) ∧ w.getLsbD 6 = r.fenceJob ∧
    w.extractLsb' 16 12 = r.recallTimeout := by
  have state := r.state.code_lt
  have reason := fenceReasonCode_lt r.fenceReason
  have timeout := r.recallTimeout.isLt
  refine ⟨_, rfl, ?_, ?_, ?_, ?_, ?_, ?_⟩ <;>
    simp [-BitVec.getLsbD_eq_getElem, BitVec.extractLsb'_or, BitVec.getLsbD_or, place_field, placeBit_bit, placeBit_field_apart,
      placeBit_bit_apart, place_field_apart state, place_bit_apart state, place_field_apart reason, place_bit_apart reason,
      place_field_apart timeout, place_bit_apart timeout]

/-! ### READ_REGION (R31) -/

theorem regionWords_fields (i : RegionIdx) (r : Region) (h : r.count ≤ 2 ^ 34) : ∃ w0 w2 : Word,
    regionWords i r = [w0, r.base.extractLsb' 0 32, w2, BitVec.ofNat 32 r.count, r.memBase.extractLsb' 0 32] ∧
    w0.extractLsb' 0 8 = BitVec.ofNat 8 i.val ∧ w0.extractLsb' 8 4 = (if r.port = .mp0 then 0#4 else 1#4) ∧
    w0.extractLsb' 12 4 = (if r.policy = .deliver then 0#4 else 1#4) ∧ w0.extractLsb' 16 8 = r.readSet ∧
    w0.extractLsb' 24 8 = r.writeSet ∧ w2.extractLsb' 0 8 = BitVec.ofNat 8 (r.base.toNat / 2 ^ 32) ∧
    w2.extractLsb' 8 8 = BitVec.ofNat 8 (r.count / 2 ^ 32) ∧
    w2.extractLsb' 16 8 = BitVec.ofNat 8 (r.memBase.toNat / 2 ^ 32) ∧ w2.extractLsb' 24 4 = BitVec.ofNat 4 r.state.code := by
  have index : i.val < 2 ^ 4 := i.isLt
  have port := portCodeOf_lt r.port
  have policy := r.policy.code_lt
  have readers := r.readSet.isLt
  have writers := r.writeSet.isLt
  have base : r.base.toNat / 2 ^ 32 < 2 ^ 8 := by have := r.base.isLt; omega
  have count : r.count / 2 ^ 32 < 2 ^ 8 := by omega
  have memBase : r.memBase.toNat / 2 ^ 32 < 2 ^ 8 := by have := r.memBase.isLt; omega
  have state := r.state.code_lt
  have port_code : BitVec.ofNat 4 (portCodeOf r.port) = if r.port = .mp0 then 0#4 else 1#4 := by cases r.port <;> rfl
  have policy_code : BitVec.ofNat 4 r.policy.code = if r.policy = .deliver then 0#4 else 1#4 := by cases r.policy <;> rfl
  refine ⟨_, _, rfl, ?_⟩
  rw [← port_code, ← policy_code]
  refine ⟨?_, ?_, ?_, ?_, ?_, ?_, ?_, ?_, ?_⟩ <;>
    simp [-Nat.reducePow, BitVec.extractLsb'_or, place_field, place_field_apart index, place_field_apart port,
      place_field_apart policy, place_field_apart readers, place_field_apart writers, place_field_apart base,
      place_field_apart count, place_field_apart memBase, place_field_apart state]

/-! ### PROBE_BLOCK (R55, R179) -/

/-- R55: the position of a way that stands once behind its front. -/
theorem DirSet.position_eq {ds : DirSet} {w : WayIdx} {front back : List WayIdx} (h : ds.recency = front ++ w :: back)
    (hw : w ∉ front) : ds.position w = front.length + 1 := by
  unfold DirSet.position
  rw [h, if_pos (by simp), List.idxOf_append_of_notMem hw, List.idxOf_cons_self, Nat.add_zero]

theorem DirSet.reservedFor_test (x : Way) (b : Block) :
    (match x with | .reserved _ c => c == b | _ => false) = true ↔ ∃ i, x = .reserved i b := by
  cases x <;> simp

theorem DirSet.reservedFor_some {ds : DirSet} {b : Block} {v : WayIdx} {i : TTIdx} (h : ds.way v = .reserved i b)
    (first : ∀ u, u < v → ∀ j, ds.way u ≠ .reserved j b) : ds.reservedFor b = some v := by
  refine (find?_ascending allWays_ascending _ v).mpr ⟨mem_allWays v, (reservedFor_test _ b).mpr ⟨i, h⟩, fun u _ lt => ?_⟩
  rw [← Bool.not_eq_true]
  exact fun hu => absurd ((reservedFor_test _ b).mp hu) (not_exists.mpr (first u lt))

theorem DirSet.reservedFor_none {ds : DirSet} {b : Block} (h : ∀ v j, ds.way v ≠ .reserved j b) : ds.reservedFor b = none :=
  List.find?_eq_none.mpr fun v _ hv => absurd ((reservedFor_test _ b).mp hv) (not_exists.mpr (h v))

/-- The word for a HELD way. -/
theorem State.probeHolding_held {s : State} {b : Block} {v : WayIdx} {e : DirEntry}
    (h : (s.dirSet (setOf b)).findHeld b = some (v, e)) :
    (s.probeHolding b).extractLsb' 0 2 = 1#2 ∧ (s.probeHolding b).getLsbD 2 = e.rights.owner.isSome ∧
    (s.probeHolding b).getLsbD 3 = e.failed ∧ (s.probeHolding b).extractLsb' 4 3 = BitVec.ofNat 3 v.val ∧
    (s.probeHolding b).extractLsb' 8 3 = BitVec.ofNat 3 ((e.rights.owner.map (·.val)).getD 0) ∧
    (s.probeHolding b).extractLsb' 16 8 = e.rights.holders ∧
    (s.probeHolding b).extractLsb' 24 4 = BitVec.ofNat 4 ((s.dirSet (setOf b)).position v) := by
  have held : (1 : Nat) < 2 ^ 2 := by decide
  have way : v.val < 2 ^ 3 := v.isLt
  have owner : (e.rights.owner.map (·.val)).getD 0 < 2 ^ 3 := getD_map_lt (by decide) (fun n => n.isLt) _
  have holders := e.rights.holders.isLt
  have position := Nat.lt_two_pow_self (n := (s.dirSet (setOf b)).position v)
  have word : s.probeHolding b = place 0 1 ||| placeBit 2 e.rights.owner.isSome ||| placeBit 3 e.failed ||| place 4 v.val |||
      place 8 ((e.rights.owner.map (·.val)).getD 0) ||| place 16 e.rights.holders.toNat |||
      place 24 ((s.dirSet (setOf b)).position v) := by
    unfold State.probeHolding
    dsimp only
    rw [h]
  rw [word]
  refine ⟨?_, ?_, ?_, ?_, ?_, ?_, ?_⟩ <;>
    simp [-BitVec.getLsbD_eq_getElem, BitVec.extractLsb'_or, BitVec.getLsbD_or, place_field, placeBit_bit, placeBit_field_apart,
      placeBit_bit_apart, place_field_apart held, place_bit_apart held, place_field_apart way, place_bit_apart way,
      place_field_apart owner, place_bit_apart owner, place_field_apart holders, place_bit_apart holders,
      place_field_apart position, place_bit_apart position]

/-- The word for a RESERVED way. -/
theorem State.probeHolding_reserved {s : State} {b : Block} {v : WayIdx} (h : (s.dirSet (setOf b)).findHeld b = none)
    (hv : (s.dirSet (setOf b)).reservedFor b = some v) : s.probeHolding b = BitVec.ofNat 32 (2 + 16 * v.val) := by
  have word : s.probeHolding b = place 0 2 ||| place 4 v.val := by
    unfold State.probeHolding
    dsimp only
    rw [h]
    dsimp only
    rw [hv]
  have value : ∀ w : WayIdx, place 0 2 ||| place 4 w.val = BitVec.ofNat 32 (2 + 16 * w.val) := by decide
  exact word.trans (value v)

theorem State.probeHolding_none {s : State} {b : Block} (h : (s.dirSet (setOf b)).findHeld b = none)
    (hv : (s.dirSet (setOf b)).reservedFor b = none) : s.probeHolding b = 0#32 := by
  unfold State.probeHolding
  dsimp only
  rw [h]
  dsimp only
  rw [hv]

/-- The fields of the second word: the set, the role and the TT index. -/
theorem probeClaim_fields {k role i : Nat} (hk : k < 2 ^ 11) (hr : role < 2 ^ 2) (hi : i < 2 ^ 6) {w : Word}
    (e : w = place 0 k ||| (place 12 role ||| place 16 i)) :
    w.extractLsb' 0 11 = BitVec.ofNat 11 k ∧ w.extractLsb' 12 2 = BitVec.ofNat 2 role ∧
      w.extractLsb' 16 6 = BitVec.ofNat 6 i := by
  subst e
  refine ⟨?_, ?_, ?_⟩ <;>
    simp [BitVec.extractLsb'_or, place_field, place_field_apart hk, place_field_apart hr, place_field_apart hi]

/-- The role and the TT index that the second word shows: none reads zero. -/
def claimCode : Option (TTIdx × Role) → Nat × Nat
  | none => (0, 0)
  | some (i, .primary) => (1, i.val)
  | some (i, .victim) => (2, i.val)

theorem claimCode_lt (c : Option (TTIdx × Role)) : (claimCode c).1 < 2 ^ 2 ∧ (claimCode c).2 < 2 ^ 6 := by
  match c with
  | none => decide
  | some (i, .primary) => exact ⟨by simp [claimCode], i.isLt.trans (by decide)⟩
  | some (i, .victim) => exact ⟨by simp [claimCode], i.isLt.trans (by decide)⟩

theorem State.probeClaim_eq (s : State) (b : Block) : s.probeClaim b =
    place 0 (setOf b).val ||| (place 12 (claimCode (s.claimant b)).1 ||| place 16 (claimCode (s.claimant b)).2) := by
  unfold State.probeClaim
  match s.claimant b with
  | none => rw [claimCode, place_zero, place_zero, BitVec.or_self]
  | some (i, .primary) => rfl
  | some (i, .victim) => rfl

theorem State.probeClaim_claim (s : State) (b : Block) :
    (s.probeClaim b).extractLsb' 0 11 = BitVec.ofNat 11 (b.toNat % 2048) ∧
      (s.probeClaim b).extractLsb' 12 2 = BitVec.ofNat 2 (claimCode (s.claimant b)).1 ∧
      (s.probeClaim b).extractLsb' 16 6 = BitVec.ofNat 6 (claimCode (s.claimant b)).2 :=
  probeClaim_fields (setOf b).isLt (claimCode_lt _).1 (claimCode_lt _).2 (s.probeClaim_eq b)

/-! ### READ_CAPTURE (R172) -/

/-- The word of a LOCKED slot's own fields. -/
theorem slotWord_fields (t : CaptureSlot) (r : CaptureRecord) {w : Word}
    (e : w = placeBit 0 true ||| place 2 r.reason.cls.index.val ||| place 4 r.reason.code |||
      placeBit 8 (r.reason.severity == .dataLost) ||| placeBit 9 t.escalated |||
      place 12 (t.escalationReason.map (·.code)|>.getD 0) ||| place 16 t.overflow.toNat |||
      place 20 t.lockNotice.code ||| place 22 t.escalationNotice.code ||| placeBit 24 t.outstanding) :
    w.getLsbD 0 = true ∧ w.extractLsb' 2 2 = BitVec.ofNat 2 r.reason.cls.index.val ∧
      w.extractLsb' 4 4 = BitVec.ofNat 4 r.reason.code ∧ w.getLsbD 8 = (r.reason.severity == .dataLost) ∧
      w.getLsbD 9 = t.escalated ∧ w.extractLsb' 12 4 = BitVec.ofNat 4 (t.escalationReason.map (·.code)|>.getD 0) ∧
      w.extractLsb' 16 4 = t.overflow ∧ w.extractLsb' 20 2 = BitVec.ofNat 2 t.lockNotice.code ∧
      w.extractLsb' 22 2 = BitVec.ofNat 2 t.escalationNotice.code ∧ w.getLsbD 24 = t.outstanding := by
  have cls : r.reason.cls.index.val < 2 ^ 2 := r.reason.cls.index.isLt
  have reason := r.reason.code_lt
  have escalation : (t.escalationReason.map (·.code)|>.getD 0) < 2 ^ 4 := getD_map_lt (by decide) CaptureReason.code_lt _
  have overflow := t.overflow.isLt
  have lock := t.lockNotice.code_lt
  have escalated := t.escalationNotice.code_lt
  subst e
  refine ⟨?_, ?_, ?_, ?_, ?_, ?_, ?_, ?_, ?_, ?_⟩ <;>
    simp [-BitVec.getLsbD_eq_getElem, BitVec.extractLsb'_or, BitVec.getLsbD_or, place_field, placeBit_bit, placeBit_field_apart,
      placeBit_bit_apart, place_field_apart cls, place_bit_apart cls, place_field_apart reason, place_bit_apart reason,
      place_field_apart escalation, place_bit_apart escalation, place_field_apart overflow, place_bit_apart overflow,
      place_field_apart lock, place_bit_apart lock, place_field_apart escalated, place_bit_apart escalated]

/-- The word of presence bits and small fields. -/
theorem presenceWord_fields (a b c d f : Bool) {node port tag tt beats hi : Nat} (hn : node < 2 ^ 3) (hp : port < 2 ^ 1)
    (hg : tag < 2 ^ 4) (ht : tt < 2 ^ 6) (hk : beats < 2 ^ 3) (hb : hi < 2 ^ 2) {w : Word}
    (e : w = placeBit 0 a ||| placeBit 1 b ||| placeBit 2 c ||| placeBit 3 d ||| placeBit 4 f ||| place 8 node |||
      place 11 port ||| place 12 tag ||| place 16 tt ||| place 24 beats ||| place 28 hi) :
    (w.getLsbD 0 = a ∧ w.getLsbD 1 = b ∧ w.getLsbD 2 = c ∧ w.getLsbD 3 = d ∧ w.getLsbD 4 = f) ∧
      w.extractLsb' 8 3 = BitVec.ofNat 3 node ∧ w.extractLsb' 11 1 = BitVec.ofNat 1 port ∧
      w.extractLsb' 12 4 = BitVec.ofNat 4 tag ∧ w.extractLsb' 16 6 = BitVec.ofNat 6 tt ∧
      w.extractLsb' 24 3 = BitVec.ofNat 3 beats ∧ w.extractLsb' 28 2 = BitVec.ofNat 2 hi ∧
      (port = 0 → tag = 0 → w.extractLsb' 11 5 = 0#5) := by
  subst e
  refine ⟨⟨?_, ?_, ?_, ?_, ?_⟩, ?_, ?_, ?_, ?_, ?_, ?_, ?_⟩
  case refine_12 =>
    rintro rfl rfl
    simp [BitVec.extractLsb'_or, placeBit_field_apart, place_zero, place_field_apart hn, place_field_apart ht,
      place_field_apart hk, place_field_apart hb]
  all_goals
    simp [-BitVec.getLsbD_eq_getElem, BitVec.extractLsb'_or, BitVec.getLsbD_or, place_field, placeBit_bit, placeBit_field_apart,
      placeBit_bit_apart, place_field_apart hn, place_bit_apart hn, place_field_apart hp, place_bit_apart hp,
      place_field_apart hg, place_bit_apart hg, place_field_apart ht, place_bit_apart ht, place_field_apart hk,
      place_bit_apart hk, place_field_apart hb, place_bit_apart hb]

/-- The two high bits of a block. -/
theorem block_hi (b : Block) : BitVec.ofNat 2 (b.toNat / 2 ^ 32) = b.extractLsb' 32 2 := (extractLsb'_ofNat b 32 2).symm

/-- The words of a capture record: its presence bits and small fields, the low bits of its block, its stamp. -/
theorem recordWords_fields (r : CaptureRecord) : ∃ w1 w2 : Word, recordWords r = [w1, w2, r.stamp] ∧
    (w1.getLsbD 0 = r.node.isSome ∧ w1.getLsbD 1 = r.block.isSome ∧ w1.getLsbD 2 = r.mem.isSome ∧
      w1.getLsbD 3 = r.tt.isSome ∧ w1.getLsbD 4 = r.beats.isSome ∧
      (∀ n, r.node = some n → w1.extractLsb' 8 3 = BitVec.ofNat 3 n.val) ∧
      (∀ p g, r.mem = some (p, g) → w1.getLsbD 11 = (p == .mp1) ∧ w1.extractLsb' 12 4 = BitVec.ofNat 4 g.val) ∧
      (∀ i, r.tt = some i → w1.extractLsb' 16 6 = BitVec.ofNat 6 i.val) ∧
      (∀ k, r.beats = some k → w1.extractLsb' 24 3 = BitVec.ofNat 3 k.val) ∧
      (∀ b, r.block = some b → w1.extractLsb' 28 2 = b.extractLsb' 32 2 ∧ w2 = b.extractLsb' 0 32)) ∧
    ((r.node = none → w1.extractLsb' 8 3 = 0#3) ∧ (r.mem = none → w1.extractLsb' 11 5 = 0#5) ∧
      (r.tt = none → w1.extractLsb' 16 6 = 0#6) ∧ (r.beats = none → w1.extractLsb' 24 3 = 0#3) ∧
      (r.block = none → w1.extractLsb' 28 2 = 0#2 ∧ w2 = 0#32)) := by
  refine ⟨_, _, rfl, ?_⟩
  have high : (r.block.getD 0#34).toNat / 2 ^ 32 < 2 ^ 2 := by have := (r.block.getD 0#34).isLt; omega
  obtain ⟨⟨b0, b1, b2, b3, b4⟩, node, port, tag, tt, beats, hi, none⟩ := presenceWord_fields r.node.isSome r.block.isSome
    r.mem.isSome r.tt.isSome r.beats.isSome (getD_map_lt (by decide) (fun n => n.isLt) r.node)
    (getD_map_lt (by decide) (fun p => portCodeOf_lt p.1) r.mem) (getD_map_lt (by decide) (fun p => p.2.isLt) r.mem)
    (getD_map_lt (by decide) (fun i => i.isLt.trans (by decide)) r.tt)
    (getD_map_lt (by decide) (fun k => k.isLt.trans (by decide)) r.beats) high rfl
  have bit : ∀ p, (BitVec.ofNat 1 (portCodeOf p)).getLsbD 0 = (p == .mp1) := fun p => by cases p <;> rfl
  refine ⟨⟨b0, b1, b2, b3, b4, fun n e => ?_, fun p g e => ?_, fun i e => ?_, fun k e => ?_, fun b e => ?_⟩,
    fun e => ?_, fun e => ?_, fun e => ?_, fun e => ?_, fun e => ?_⟩
  · exact node.trans (by rw [e]; rfl)
  · exact ⟨(getLsbD_of_field (port.trans (by rw [e]; rfl)) zero_lt_one).trans (bit p), tag.trans (by rw [e]; rfl)⟩
  · exact tt.trans (by rw [e]; rfl)
  · exact beats.trans (by rw [e]; rfl)
  · exact ⟨hi.trans (by rw [e]; exact block_hi b), by rw [e]; rfl⟩
  · exact node.trans (by rw [e]; rfl)
  · exact none (by rw [e]; rfl) (by rw [e]; rfl)
  · exact tt.trans (by rw [e]; rfl)
  · exact beats.trans (by rw [e]; rfl)
  · exact ⟨hi.trans (by rw [e]; rfl), by rw [e]; rfl⟩

/-! ### READ_STATUS GENERAL (R182) -/

/-- A field of the words joined to a word one after another. -/
theorem extractLsb'_foldl_or {α : Type} (l : List α) (f : α → Word) (z : Word) (a k : Nat) :
    (l.foldl (fun w x => w ||| f x) z).extractLsb' a k =
      l.foldl (fun w x => w ||| (f x).extractLsb' a k) (z.extractLsb' a k) := by
  induction l generalizing z with
  | nil => rfl
  | cons x l ih => rw [List.foldl_cons, ih, BitVec.extractLsb'_or, List.foldl_cons]

/-- Words joined of which none is other than zero. -/
theorem foldl_or_zero {α : Type} {k : Nat} {l : List α} {g : α → BitVec k} (h : ∀ x ∈ l, g x = 0#k) (z : BitVec k) :
    l.foldl (fun w x => w ||| g x) z = z := by
  induction l with
  | nil => rfl
  | cons x l ih =>
    rw [List.forall_mem_cons] at h
    rw [List.foldl_cons, h.1, BitVec.or_zero, ih h.2]

/-- Words joined of which one only is other than zero. -/
theorem foldl_or_only {α : Type} {k : Nat} {l : List α} (hl : l.Nodup) {g : α → BitVec k} {n : α} (hn : n ∈ l)
    (h : ∀ x, x ≠ n → g x = 0#k) : l.foldl (fun w x => w ||| g x) 0#k = g n := by
  obtain ⟨front, back, rfl⟩ := List.append_of_mem hn
  obtain ⟨hb, hf⟩ := List.nodup_cons.mp (List.nodup_middle.mp hl)
  rw [List.mem_append, not_or] at hb
  rw [List.foldl_append, foldl_or_zero fun x hx => h x fun e => hb.1 (e ▸ hx), List.foldl_cons, BitVec.zero_or,
    foldl_or_zero fun x hx => h x fun e => hb.2 (e ▸ hx)]

/-- The word of the nodes: two bits of state and one of link for each, above them the notice node. -/
theorem nodesWord_fields (code : NodeId → Nat) (up : NodeId → Bool) (hc : ∀ n, code n < 2 ^ 2) (z : NodeId) {w : Word}
    (e : w = allNodes.foldl (fun w n => w ||| place (2 * n.val) (code n) ||| placeBit (16 + n.val) (up n)) (place 24 z.val)) :
    (∀ n : NodeId, w.extractLsb' (2 * n.val) 2 = BitVec.ofNat 2 (code n) ∧ w.getLsbD (16 + n.val) = up n) ∧
      w.extractLsb' 24 3 = BitVec.ofNat 3 z.val := by
  have notice : z.val < 2 ^ 3 := z.isLt
  have nodup : allNodes.Nodup := allNodes_ascending.imp ne_of_lt
  have apart : ∀ a k, (place 24 z.val).extractLsb' a k = 0#k → ∀ n,
      (∀ x, x ≠ n → (place (2 * x.val) (code x) ||| placeBit (16 + x.val) (up x)).extractLsb' a k = 0#k) →
      w.extractLsb' a k = (place (2 * n.val) (code n) ||| placeBit (16 + n.val) (up n)).extractLsb' a k := fun a k hz n h => by
    rw [e]
    simp only [BitVec.or_assoc]
    rw [extractLsb'_foldl_or, hz]
    exact foldl_or_only nodup (mem_allNodes n) h
  refine ⟨fun n => ⟨?_, ?_⟩, ?_⟩
  · have := n.isLt
    rw [apart (2 * n.val) 2 (place_field_apart notice (by omega)) n fun x hx => ?_, BitVec.extractLsb'_or,
      place_field (by omega), placeBit_field_apart _ (by omega), BitVec.or_zero]
    have : x.val ≠ n.val := fun e => hx (Fin.ext e)
    rw [BitVec.extractLsb'_or, place_field_apart (hc x) (by omega), placeBit_field_apart _ (by omega), BitVec.or_zero]
  · have := n.isLt
    have field := apart (16 + n.val) 1 (place_field_apart notice (by omega)) n fun x hx => by
      have : x.val ≠ n.val := fun e => hx (Fin.ext e)
      have := x.isLt
      rw [BitVec.extractLsb'_or, place_field_apart (hc x) (by omega), placeBit_field_apart _ (by omega), BitVec.or_zero]
    rw [BitVec.extractLsb'_or, place_field_apart (hc n) (by omega), BitVec.zero_or] at field
    refine (getLsbD_of_field field zero_lt_one).trans ((getLsbD_of_field rfl zero_lt_one).symm.trans ?_)
    exact placeBit_bit (by omega) _
  · rw [e]
    simp only [BitVec.or_assoc]
    rw [extractLsb'_foldl_or, place_field (by decide), foldl_or_zero fun x _ => ?_]
    have := x.isLt
    rw [BitVec.extractLsb'_or, place_field_apart (hc x) (by omega), placeBit_field_apart _ (by omega), BitVec.or_zero]

/-- Five counts in one word. -/
theorem countsWord_fields {a b c d f : Nat} (ha : a < 2 ^ 8) (hb : b < 2 ^ 8) (hc : c < 2 ^ 8) (hd : d < 2 ^ 4) {w : Word}
    (e : w = place 0 a ||| place 8 b ||| place 16 c ||| place 24 d ||| place 28 f) :
    w.extractLsb' 0 8 = BitVec.ofNat 8 a ∧ w.extractLsb' 8 8 = BitVec.ofNat 8 b ∧ w.extractLsb' 16 8 = BitVec.ofNat 8 c ∧
      w.extractLsb' 24 4 = BitVec.ofNat 4 d ∧ w.extractLsb' 28 4 = BitVec.ofNat 4 f := by
  have hf := Nat.lt_two_pow_self (n := f)
  subst e
  refine ⟨?_, ?_, ?_, ?_, ?_⟩ <;>
    simp [BitVec.extractLsb'_or, place_field, place_field_apart ha, place_field_apart hb, place_field_apart hc,
      place_field_apart hd, place_field_apart hf]

/-- Two half-words in one word. -/
theorem halves_fields {a b : Nat} (ha : a < 2 ^ 16) {w : Word} (e : w = place 0 a ||| place 16 b) :
    w.extractLsb' 0 16 = BitVec.ofNat 16 a ∧ w.extractLsb' 16 16 = BitVec.ofNat 16 b := by
  have hb := Nat.lt_two_pow_self (n := b)
  subst e
  refine ⟨?_, ?_⟩ <;> simp [BitVec.extractLsb'_or, place_field, place_field_apart ha, place_field_apart hb]

/-- The places of the Writeback Buffer in ascending order. -/
theorem State.wbInUse_eq (s : State) : s.wbInUse = allNodes.countP fun w => (s.wbEntry w).isSome := by
  have places : s.wb.toList = allNodes.map s.wbEntry := by
    refine List.ext_getElem (by simp [allNodes]) fun k hk _ => ?_
    have hk : k < 8 := by simpa using hk
    rw [Vector.getElem_toList]
    interval_cases k <;> rfl
  rw [State.wbInUse, places, List.countP_map]
  rfl

theorem State.generalWords_fields (s : State) (hh : s.hold.length ≤ 32) : ∃ w0 w1 w4 : Word,
    s.generalWords = [w0, w1, s.timeBase, s.mp0.statusWord, w4, s.mp1.statusWord] ∧
    w0.extractLsb' 0 8 = BitVec.ofNat 8 (allTT.countP fun i => (s.entry i).isSome) ∧
    w0.extractLsb' 8 8 = BitVec.ofNat 8 s.hold.length ∧ w0.extractLsb' 16 8 = BitVec.ofNat 8 (s.hold.countP (·.ready)) ∧
    w0.extractLsb' 24 4 = BitVec.ofNat 4 (allNodes.countP fun w => (s.wbEntry w).isSome) ∧
    w0.extractLsb' 28 4 = BitVec.ofNat 4 s.controlQ.length ∧
    (∀ n : NodeId, w1.extractLsb' (2 * n.val) 2 = BitVec.ofNat 2 (s.node n).state.code ∧
      w1.getLsbD (16 + n.val) = ((s.port n).link == .up)) ∧ w1.extractLsb' 24 3 = BitVec.ofNat 3 s.noticeNode.val ∧
    w4.extractLsb' 0 16 = s.mp0.timeout.zeroExtend 16 ∧ w4.extractLsb' 16 16 = s.mp1.timeout.zeroExtend 16 := by
  have entries : s.ttInUse < 2 ^ 8 := List.countP_le_length.trans_lt (by decide)
  have ready : s.hold.countP (·.ready) < 2 ^ 8 := List.countP_le_length.trans_lt (by omega)
  have places : s.wbInUse < 2 ^ 4 := by
    rw [State.wbInUse_eq]
    exact List.countP_le_length.trans_lt (by decide)
  have held : s.hold.length < 2 ^ 8 := by omega
  have timeout : s.mp0.timeout.toNat < 2 ^ 16 := s.mp0.timeout.isLt.trans (by decide)
  obtain ⟨c0, c1, c2, c3, c4⟩ := countsWord_fields (f := s.controlQ.length) entries held ready places rfl
  obtain ⟨nodes, notice⟩ := nodesWord_fields (fun n => (s.node n).state.code) (fun n => (s.port n).link == .up)
    (fun n => NodeState.code_lt _) s.noticeNode rfl
  obtain ⟨t0, t1⟩ := halves_fields (b := s.mp1.timeout.toNat) timeout rfl
  refine ⟨_, _, _, rfl, c0, c1, c2, c3.trans (by rw [State.wbInUse_eq]), c4, nodes, notice, t0.trans ?_, t1.trans ?_⟩ <;>
    exact BitVec.ofNat_toNat ..

/-- READ_STATUS GENERAL's word of a Memory Port. -/
theorem MemPort.statusWord_fields (p : MemPort) (h : p.issueQ.length ≤ 56) :
    p.statusWord.extractLsb' 0 8 = BitVec.ofNat 8 p.issueQ.length ∧
    p.statusWord.extractLsb' 8 8 = BitVec.ofNat 8 (p.tags.toList.countP TagState.isFlight) ∧
    p.statusWord.extractLsb' 16 8 = BitVec.ofNat 8 (p.tags.toList.countP TagState.isStale) := by
  have tags : p.tags.toList.length < 2 ^ 8 := by simp
  have queued : p.issueQ.length < 2 ^ 8 := by omega
  have flight : p.tags.toList.countP TagState.isFlight < 2 ^ 8 := List.countP_le_length.trans_lt tags
  have stale : p.tags.toList.countP TagState.isStale < 2 ^ 8 := List.countP_le_length.trans_lt tags
  unfold MemPort.statusWord
  generalize p.tags.toList.countP TagState.isFlight = f at flight ⊢
  generalize p.tags.toList.countP TagState.isStale = x at stale ⊢
  refine ⟨?_, ?_, ?_⟩ <;>
    simp [BitVec.extractLsb'_or, place_field, place_field_apart queued, place_field_apart flight, place_field_apart stale]

/-! ### READ_STATUS JOBS (R162, R183) -/

/-- The bits that a job's outcome and notice set in its half-word. -/
def JobPhase.marks : JobPhase → Bool × Bool
  | .done o x => (o == .abandoned, x == .queued)
  | _ => (false, false)

theorem Job.halfWord_eq (j : Job) : j.halfWord = j.kind.code + 4 * j.kind.target + 64 * j.phase.code +
    (256 * j.phase.marks.1.toNat + 512 * j.phase.marks.2.toNat) := by
  unfold Job.halfWord
  cases j.phase <;> rfl

theorem Job.halfWord_lt (j : Job) : j.halfWord < 2 ^ 16 := by
  have kind := j.kind.code_lt
  have target := j.kind.target_lt
  have phase := j.phase.code_lt
  have m1 := Bool.toNat_lt j.phase.marks.1
  have m2 := Bool.toNat_lt j.phase.marks.2
  rw [Job.halfWord_eq]
  omega

theorem Job.halfWord_fields (j : Job) {x : BitVec 16} (e : x = BitVec.ofNat 16 j.halfWord) :
    x.extractLsb' 0 2 = BitVec.ofNat 2 j.kind.code ∧ x.extractLsb' 2 4 = BitVec.ofNat 4 j.kind.target ∧
      x.extractLsb' 6 2 = BitVec.ofNat 2 j.phase.code ∧
      x.extractLsb' 8 2 = BitVec.ofNat 2 (j.phase.marks.1.toNat + 2 * j.phase.marks.2.toNat) := by
  have kind := j.kind.code_lt
  have target := j.kind.target_lt
  have phase := j.phase.code_lt
  subst e
  rw [Job.halfWord_eq]
  refine ⟨?_, ?_, ?_, ?_⟩ <;>
    (rw [ofNat_field (by decide)]
     refine BitVec.eq_of_toNat_eq ?_
     rw [BitVec.toNat_ofNat, BitVec.toNat_ofNat]
     omega)

/-- The two marks of a half-word, bit by bit. -/
theorem marks_bits {x : BitVec 16} {a b : Bool} (h : x.extractLsb' 8 2 = BitVec.ofNat 2 (a.toNat + 2 * b.toNat)) :
    x.getLsbD 8 = a ∧ x.getLsbD 9 = b := by
  refine ⟨(getLsbD_of_field h zero_lt_two).trans ?_, (getLsbD_of_field h one_lt_two).trans ?_⟩ <;> cases a <;> cases b <;> rfl

/-- The half-word at a place of the list; zero behind its end. -/
def jobHalf (js : List Job) (k : Nat) : BitVec 16 := BitVec.ofNat 16 ((js[k]?.map Job.halfWord).getD 0)

/-- The position of the walk that runs. -/
def walkPos (js : List Job) : Nat :=
  (js.findSome? fun j => match j.phase with | .walking w => some w.pos.val | _ => none).getD 0

theorem walkPos_walking {front back : List Job} {j : Job} {w : Walk} (hf : ∀ x ∈ front, ∀ y, x.phase ≠ .walking y)
    (hj : j.phase = .walking w) : walkPos (front ++ j :: back) = w.pos.val := by
  unfold walkPos
  rw [List.findSome?_append, List.findSome?_eq_none_iff.mpr, List.findSome?_cons, hj]
  · rfl
  · intro x hx
    split
    · next y hy => exact absurd hy (hf x hx y)
    · rfl

theorem walkPos_none {js : List Job} (h : ∀ j ∈ js, ∀ w, j.phase ≠ .walking w) : walkPos js = 0 := by
  unfold walkPos
  rw [List.findSome?_eq_none_iff.mpr]
  · rfl
  · intro x hx
    split
    · next y hy => exact absurd hy (h x hx y)
    · rfl

theorem jobWords_eq (js : List Job) : jobWords js = (place 0 js.length ||| place 16 (walkPos js)) ::
    [0, 1, 2, 3, 4].map fun k => place 0 ((js[2 * k]?.map Job.halfWord).getD 0) |||
      place 16 ((js[2 * k + 1]?.map Job.halfWord).getD 0) := rfl

/-- Two half-words behind the first word. -/
theorem jobWords_half {js : List Job} {k : Nat} {x : Word} (hk : k < 5)
    (h : ([0, 1, 2, 3, 4].map fun k => place 0 ((js[2 * k]?.map Job.halfWord).getD 0) |||
      place 16 ((js[2 * k + 1]?.map Job.halfWord).getD 0))[k]? = some x) :
    x.extractLsb' 0 16 = jobHalf js (2 * k) ∧ x.extractLsb' 16 16 = jobHalf js (2 * k + 1) := by
  have word : x = place 0 ((js[2 * k]?.map Job.halfWord).getD 0) ||| place 16 ((js[2 * k + 1]?.map Job.halfWord).getD 0) := by
    interval_cases k <;> exact (Option.some.inj h).symm
  exact halves_fields (getD_map_lt (by decide) Job.halfWord_lt _) word

/-! ### RECLAIM_BLOCK (R99) -/

theorem reclaimWord_eq (x : Bool) (i : TTIdx) :
    reclaimWord x (some i) = BitVec.ofNat 32 (2 + 256 * i.val + if x = true then 1 else 0) ∧
    reclaimWord x none = BitVec.ofNat 32 (if x = true then 1 else 0) := by
  revert x i
  decide

/-! ### The statement -/

/-- Both words of PROBE_BLOCK. -/
theorem State.probeWords_fields (s : State) (b : Block) {ds : DirSet} (hds : ds = s.dirSet (setOf b)) :
    (∀ v e, ds.findHeld b = some (v, e) →
      (s.probeHolding b).extractLsb' 0 2 = 1#2 ∧ (s.probeHolding b).getLsbD 2 = e.rights.owner.isSome ∧
      (s.probeHolding b).getLsbD 3 = e.failed ∧ (s.probeHolding b).extractLsb' 4 3 = BitVec.ofNat 3 v.val ∧
      (∀ o, e.rights = .owned o → (s.probeHolding b).extractLsb' 8 3 = BitVec.ofNat 3 o.val ∧
        (s.probeHolding b).extractLsb' 16 8 = 1#8 <<< o.val) ∧
      (∀ hs, e.rights = .shared hs → (s.probeHolding b).extractLsb' 8 3 = 0#3 ∧
        (s.probeHolding b).extractLsb' 16 8 = hs) ∧
      (∀ front back, ds.recency = front ++ v :: back → v ∉ front →
        (s.probeHolding b).extractLsb' 24 4 = BitVec.ofNat 4 (front.length + 1))) ∧
    (∀ v i, ds.findHeld b = none → ds.way v = .reserved i b → (∀ u, u < v → ∀ j, ds.way u ≠ .reserved j b) →
      s.probeHolding b = BitVec.ofNat 32 (2 + 16 * v.val)) ∧
    (ds.findHeld b = none → (∀ v j, ds.way v ≠ .reserved j b) → s.probeHolding b = 0#32) ∧
    (s.probeClaim b).extractLsb' 0 11 = BitVec.ofNat 11 (b.toNat % 2048) ∧
    (s.claimant b = none → (s.probeClaim b).extractLsb' 12 2 = 0#2 ∧ (s.probeClaim b).extractLsb' 16 6 = 0#6) ∧
    (∀ i, (s.claimant b = some (i, .primary) → (s.probeClaim b).extractLsb' 12 2 = 1#2 ∧
        (s.probeClaim b).extractLsb' 16 6 = BitVec.ofNat 6 i.val) ∧
      (s.claimant b = some (i, .victim) → (s.probeClaim b).extractLsb' 12 2 = 2#2 ∧
        (s.probeClaim b).extractLsb' 16 6 = BitVec.ofNat 6 i.val)) := by
  subst hds
  obtain ⟨set, role, index⟩ := s.probeClaim_claim b
  refine ⟨fun v e h => ?_, fun v i h hv first => State.probeHolding_reserved h (DirSet.reservedFor_some hv first),
    fun h hv => State.probeHolding_none h (DirSet.reservedFor_none hv), set, fun h => ?_, fun i => ⟨fun h => ?_, fun h => ?_⟩⟩
  · obtain ⟨state, owned, failed, way, owner, holders, position⟩ := State.probeHolding_held h
    refine ⟨state, owned, failed, way, fun o ho => ?_, fun hs hh => ?_, fun front back hr hf => ?_⟩
    · exact ⟨owner.trans (by rw [ho]; rfl), holders.trans (by rw [ho]; rfl)⟩
    · exact ⟨owner.trans (by rw [hh]; rfl), holders.trans (by rw [hh]; rfl)⟩
    · rw [position, DirSet.position_eq hr hf]
  all_goals
    rw [h] at role index
    exact ⟨role, index⟩

/-- READ_CAPTURE's words for a LOCKED slot. -/
theorem slotWords_locked {t : CaptureSlot} {r : CaptureRecord} (h : t.record = some r) : ∃ w0 : Word,
    slotWords t = w0 :: recordWords r ∧
    w0.getLsbD 0 = true ∧ w0.extractLsb' 2 2 = BitVec.ofNat 2 r.reason.cls.index.val ∧
      w0.extractLsb' 4 4 = BitVec.ofNat 4 r.reason.code ∧ w0.getLsbD 8 = (r.reason.severity == .dataLost) ∧
      w0.getLsbD 9 = t.escalated ∧ (∀ x, t.escalationReason = some x → w0.extractLsb' 12 4 = BitVec.ofNat 4 x.code) ∧
      (t.escalationReason = none → w0.extractLsb' 12 4 = 0#4) ∧ w0.extractLsb' 16 4 = t.overflow ∧
      w0.extractLsb' 20 2 = BitVec.ofNat 2 t.lockNotice.code ∧
      w0.extractLsb' 22 2 = BitVec.ofNat 2 t.escalationNotice.code ∧ w0.getLsbD 24 = t.outstanding := by
  obtain ⟨locked, cls, code, severity, escalated, escalation, overflow, lock, notice, outstanding⟩ := slotWord_fields t r rfl
  refine ⟨_, ?_, locked, cls, code, severity, escalated, fun x hx => escalation.trans (by rw [hx]; rfl),
    fun hx => escalation.trans (by rw [hx]; rfl), overflow, lock, notice, outstanding⟩
  unfold slotWords
  rw [h]

theorem slotWords_empty {t : CaptureSlot} (h : t.record = none) :
    slotWords t = [if t.outstanding = true then BitVec.ofNat 32 (2 ^ 24) else 0#32, 0#32, 0#32, 0#32] := by
  unfold slotWords
  rw [h]
  cases t.outstanding <;> rfl

/-- READ_STATUS JOBS' words. -/
theorem jobWords_fields (js : List Job) (h : js.length ≤ 9) : ∃ (w0 : Word) (half : Nat → BitVec 16) (ws : List Word),
    jobWords js = w0 :: ws ∧ ws.length = 5 ∧ w0.extractLsb' 0 4 = BitVec.ofNat 4 js.length ∧
    (∀ front back j w, js = front ++ j :: back → (∀ x ∈ front, ∀ y, x.phase ≠ .walking y) → j.phase = .walking w →
      w0.extractLsb' 16 11 = BitVec.ofNat 11 w.pos.val) ∧
    ((∀ j ∈ js, ∀ w, j.phase ≠ .walking w) → w0.extractLsb' 16 11 = 0#11) ∧
    (∀ k x, k < 5 → ws[k]? = some x → x.extractLsb' 0 16 = half (2 * k) ∧ x.extractLsb' 16 16 = half (2 * k + 1)) ∧
    (∀ k, js.length ≤ k → half k = 0#16) ∧
    (∀ k j, js[k]? = some j →
      (half k).extractLsb' 0 2 = BitVec.ofNat 2 j.kind.code ∧ (half k).extractLsb' 2 4 = BitVec.ofNat 4 j.kind.target ∧
      (half k).extractLsb' 6 2 = BitVec.ofNat 2 j.phase.code ∧
      (∀ o x, j.phase = .done o x →
        (half k).getLsbD 8 = (o == .abandoned) ∧ (half k).getLsbD 9 = (x == .queued)) ∧
      ((∀ o x, j.phase ≠ .done o x) → (half k).extractLsb' 8 2 = 0#2)) := by
  have count : js.length < 2 ^ 4 := by omega
  have apart := Nat.lt_two_pow_self (n := walkPos js)
  have length : (place 0 js.length ||| place 16 (walkPos js)).extractLsb' 0 4 = BitVec.ofNat 4 js.length := by
    rw [BitVec.extractLsb'_or, place_field (by decide), place_field_apart apart (.inl (by decide)), BitVec.or_zero]
  have walk : (place 0 js.length ||| place 16 (walkPos js)).extractLsb' 16 11 = BitVec.ofNat 11 (walkPos js) := by
    rw [BitVec.extractLsb'_or, place_field_apart count (by decide), place_field (by decide), BitVec.zero_or]
  refine ⟨_, jobHalf js, _, jobWords_eq js, rfl, length, fun front back j w hs hf hj => ?_, fun hn => ?_,
    fun k x hk hx => jobWords_half hk hx, fun k hk => ?_, fun k j hj => ?_⟩
  · rw [walk, hs, walkPos_walking hf hj]
  · rw [walk, walkPos_none hn]
  · rw [jobHalf, List.getElem?_eq_none hk]
    rfl
  · have half : jobHalf js k = BitVec.ofNat 16 j.halfWord := by
      rw [jobHalf, hj]
      rfl
    obtain ⟨kind, target, phase, marks⟩ := j.halfWord_fields half
    refine ⟨kind, target, phase, fun o x hd => ?_, fun hn => ?_⟩
    · rw [hd] at marks
      exact marks_bits marks
    · have none : j.phase.marks = (false, false) := by
        unfold JobPhase.marks
        split
        · next o x hd => exact absurd hd (hn o x)
        · rfl
      rw [marks, none]
      rfl

/-- Settles O53: word by word, each from the lemma about its fields. -/
theorem resultWords : Obligations.ResultWords := by
  refine ⟨nodeWords_fields, regionWords_fields, fun s b ds => s.probeWords_fields b, fun t => slotWords_empty,
    fun t r h => ?_, fun s hh _ => s.generalWords_fields hh, fun p h => ?_, jobWords_fields, reclaimWord_eq,
    rfl, rfl, rfl, rfl, fun r u n w o x => ⟨rfl, rfl, rfl, rfl, rfl, rfl, rfl, rfl, rfl, rfl⟩, rfl⟩
  · obtain ⟨w0, words, fields⟩ := slotWords_locked h
    obtain ⟨w1, w2, rest, present, absent⟩ := recordWords_fields r
    exact ⟨w0, w1, w2, by rw [words, rest], fields, present, absent⟩
  · obtain ⟨queued, flight, stale⟩ := p.statusWord_fields h
    refine ⟨queued, flight.trans (congrArg _ ?_), stale.trans (congrArg _ ?_)⟩ <;>
      exact List.countP_congr fun x _ => by cases x <;> rfl

end Sys2Proof.Machine
end

section
/-! What an entry does once its data is complete (chapter 5; R30, R69, R70, R78, R81, R86, R89 to R93, R95, R96, R98 to
R100). -/

namespace Sys2Proof.Machine

/-! ### An entry changed -/

section
variable (s : State) (i : TTIdx)

theorem State.setEntry_self (o : Option TTEntry) : (s.setEntry i o).entry i = o := by rw [State.setEntry_entry, if_pos rfl]

theorem State.setEntry_mp (o : Option TTEntry) (p : MPort) : (s.setEntry i o).mp p = s.mp p := by cases p <;> rfl

theorem State.setEntry_setEntry (o x : Option TTEntry) : (s.setEntry i o).setEntry i x = s.setEntry i x := by
  simp [State.setEntry, State.modTT, State.ttSlot]

/-- A change of the entry that an index holds. -/
theorem State.modEntry_of_entry {s : State} {i : TTIdx} {e : TTEntry} (h : s.entry i = some e) (f : TTEntry → TTEntry) :
    s.modEntry i f = s.setEntry i (some (f e)) := by
  have work : (s.ttSlot i).work = some e := h
  unfold State.modEntry State.setEntry State.modTT
  simp only [work, Option.map_some]

theorem State.setEntry_modEntry (e : TTEntry) (f : TTEntry → TTEntry) :
    (s.setEntry i (some e)).modEntry i f = s.setEntry i (some (f e)) := by
  rw [State.modEntry_of_entry (s.setEntry_self i _), State.setEntry_setEntry]

theorem State.modMP_entry (p : MPort) (f : MemPort → MemPort) : (s.modMP p f).entry i = s.entry i :=
  State.entry_congr (State.modMP_tt s p f) i

end

/-! ### Memory operations of an entry (R119, R128) -/

theorem MemPort.newest_addWrite (p : MemPort) (w : WriteRec) : (p.addWrite w).newest w.addr = some w := by
  simp [MemPort.newest, MemPort.writesAt, MemPort.addWrite, List.filter_append]

/-- R119, R128: a WRITE placed. -/
theorem State.placeWrite_places (s : State) (o : OpOwner) (l : Loc) (d : BlockData) :
    s.PlacesWrite (s.placeWrite o l.port l.addr d) o l d := by
  have port : ∀ q, (s.placeWrite o l.port l.addr d).mp q = if q = l.port then
      ((s.mp l.port).addWrite ⟨o, l.addr, d, false, false⟩).queueOp ⟨o, .write, l.addr, false⟩ else s.mp q :=
    fun q => State.modMP_mp s l.port q _
  refine ⟨?_, ?_, ?_, fun q hq => (port q).trans (if_neg hq)⟩ <;> rw [port, if_pos rfl]
  · rfl
  · exact MemPort.newest_addWrite (s.mp l.port) ⟨o, l.addr, d, false, false⟩
  · rfl

theorem State.PlacesWrite.congr {s t s' t' : State} {o : OpOwner} {l : Loc} {d : BlockData} (h : s.PlacesWrite t o l d)
    (hs : ∀ p, s'.mp p = s.mp p) (ht : ∀ p, t'.mp p = t.mp p) : s'.PlacesWrite t' o l d := by
  unfold State.PlacesWrite at h ⊢
  simpa only [hs, ht] using h

/-- R63: the write of an entry for its primary block. -/
theorem State.writeTT_primary {s : State} {i : TTIdx} {e : TTEntry} {l : Loc} (he : s.entry i = some e) (hl : e.loc = some l)
    (d : BlockData) : s.writeTT i .primary d = (s.placeWrite (.tt i .primary) l.port l.addr d).setEntry i
      (some { e with memOp := some ⟨.write, .primary, none⟩ }) := by
  have place : (s.entry i).bind (·.locOf .primary) = some l := by rw [he]; exact hl
  unfold State.writeTT
  rw [place]
  exact State.modEntry_of_entry ((s.modMP_entry i _ _).trans he) _

/-- R119, R129: a READ of an entry when no write to its address is listed. -/
theorem State.placeRead_queued {s : State} {i : TTIdx} {e : TTEntry} {p : MPort} {a : MemAddr} (he : s.entry i = some e)
    (hw : (s.mp p).writesAt a = []) (x : Bool) : s.placeRead i p a x =
      (s.modMP p fun q => q.queueOp ⟨.tt i .primary, .read, a, x⟩).setEntry i
        (some { e with memOp := some ⟨.read, .primary, none⟩ }) := by
  have newest : (s.mp p).newest a = none := by rw [MemPort.newest, hw]; rfl
  unfold State.placeRead
  rw [newest]
  exact State.modEntry_of_entry ((s.modMP_entry i _ _).trans he) _

/-- R82: an entry enters READING with its read. -/
theorem State.beginRead_eq {s : State} {i : TTIdx} {e : TTEntry} {l : Loc} (he : s.entry i = some e) (hl : e.loc = some l) :
    s.beginRead i = (s.setEntry i (some { e with phase := .reading })).placeRead i l.port l.addr false := by
  unfold State.beginRead
  rw [State.modEntry_of_entry he]
  have place : ((s.setEntry i (some { e with phase := .reading })).entry i).bind (·.loc) = some l := by
    rw [State.setEntry_self]
    exact hl
  unfold State.readTT
  rw [place]

/-! ### The kinds of answers (R90, R96) -/

section
variable (e : TTEntry)

/-- R90: an UPGRADE whose requester the lookup recorded as a holder. -/
theorem TTEntry.grantsUp_iff : e.grantsUp = true ↔ e.kind = .req .upgrade ∧ e.upgradeAsX = false ∧
    ∃ n tag, e.requester = some (n, tag) ∧ ((∃ hs, e.situation = .shared hs ∧ hs.has n = true) ∨ e.situation = .owned n) := by
  unfold TTEntry.grantsUp
  rw [Bool.and_eq_true, Bool.and_eq_true, beq_iff_eq, Bool.not_eq_true', and_assoc]
  refine and_congr_right fun _ => and_congr_right fun _ => ?_
  cases e.situation with
  | notHeld => simp
  | setBusy => simp
  | shared hs =>
    cases e.requester with
    | none => simp
    | some q =>
      obtain ⟨n, tag⟩ := q
      simp
  | owned o => simp [TTEntry.requestedBy_iff]

theorem TTEntry.asFetchX_iff : e.asFetchX = true ↔ e.kind = .req .fetchX ∨ e.kind = .req .upgrade ∧ e.grantsUp = false := by
  simp [TTEntry.asFetchX]

theorem TTEntry.answersData_iff : e.answersData = true ↔
    e.kind = .req .fetchS ∨ e.kind = .req .readOnce ∨ e.kind = .req .fetchX ∨ e.kind = .req .upgrade ∧ e.grantsUp = false := by
  unfold TTEntry.answersData
  rw [Bool.or_eq_true, Bool.or_eq_true, beq_iff_eq, beq_iff_eq, TTEntry.asFetchX_iff, or_assoc]

theorem TTEntry.lostOwner_iff : e.lostOwner = true ↔ ∃ m ∈ e.recalls, m.resolution = some .ownerLost := by
  simp [TTEntry.lostOwner]

theorem TTEntry.fullMask_iff : e.fullMask = true ↔ ∃ w, e.write = some w ∧ w.mask = BitVec.allOnes 64 := by
  simp [TTEntry.fullMask]

theorem fullyResolved_iff (ms : List Member) : fullyResolved ms = true ↔ ∀ m ∈ ms, m.resolution ≠ none := by
  simp only [fullyResolved, List.all_eq_true, Member.resolved_iff]

end

theorem BlockData.poisoned_iff (d : BlockData) : d.poisoned = true ↔ ∃ k : Fin 4, (d[k]).poison = true := by
  unfold BlockData.poisoned
  rw [toList_four]
  simp [Fin.exists_fin_succ]

/-- R30: the poison policy of the region of an entry. -/
theorem State.policyOf_refuse (s : State) (e : TTEntry) :
    s.policyOf e = .refuse ↔ ∃ l, e.loc = some l ∧ (s.region l.region).policy = .refuse := by
  unfold State.policyOf
  cases e.loc <;> simp

/-- R96: the answers that are refused POISONED. -/
theorem State.refusesPoison_iff (s : State) (e : TTEntry) : s.refusesPoison e = true ↔
    (e.kind = .req .fetchS ∨ e.kind = .req .readOnce ∨ e.kind = .req .fetchX ∨ e.kind = .req .upgrade ∧ e.grantsUp = false) ∧
    (∃ l, e.loc = some l ∧ (s.region l.region).policy = .refuse) ∧ ∃ k : Fin 4, (e.buffer.beats[k]).poison = true := by
  unfold State.refusesPoison
  rw [Bool.and_eq_true, Bool.and_eq_true, beq_iff_eq, TTEntry.answersData_iff, State.policyOf_refuse, BlockData.poisoned_iff,
    and_assoc]

/-! ### What is written (R69, R81, R86, R89, R92, R94, R96, R99, R100) -/

/-- R69, R81, R89, R96: a FETCH_X, or an UPGRADE served as one, writes its owner's data when it does not hand it on. -/
theorem TTEntry.toWrite_asFetchX {e : TTEntry} (h : e.asFetchX = true) (poisoned : Bool) :
    e.toWrite poisoned = if e.buffer.source = some .node ∧ (e.lostOwner = true ∨ e.orphaned = true ∨ poisoned = true) then
      some e.buffer.beats else none := by
  unfold TTEntry.toWrite
  rcases e.asFetchX_iff.mp h with hk | ⟨hk, -⟩ <;> simp only [hk, h, true_and]

theorem TTEntry.toWrite_grantsUp {e : TTEntry} (hk : e.kind = .req .upgrade) (hg : e.grantsUp = true) (poisoned : Bool) :
    e.toWrite poisoned = none := by
  have own : ¬e.asFetchX = true := fun h => by
    rcases e.asFetchX_iff.mp h with h | ⟨-, h⟩
    · rw [hk] at h
      cases h
    · rw [hg] at h
      cases h
  unfold TTEntry.toWrite
  simp only [hk, own, Bool.false_eq_true, false_and, if_false]

/-- R86, R92, R99: the data that an owner gave up goes to memory. -/
theorem TTEntry.toWrite_source {e : TTEntry} (hk : e.kind = .req .fetchS ∨ e.kind = .req .readOnce ∨ e.kind = .reclaim)
    (poisoned : Bool) : e.toWrite poisoned = if e.buffer.source = some .node then some e.buffer.beats else none := by
  unfold TTEntry.toWrite
  rcases hk with hk | hk | hk <;> rw [hk]

/-- R93, R94: the merged block. -/
theorem TTEntry.toWrite_writeThru {e : TTEntry} {w : WriteData} (hk : e.kind = .req .writeThru) (hw : e.write = some w)
    (poisoned : Bool) : e.toWrite poisoned = some (mergeBlock w e.buffer.beats) := by
  unfold TTEntry.toWrite
  rw [hk, hw]
  rfl

/-- R100: the owner-lost block. -/
theorem TTEntry.toWrite_poison {e : TTEntry} (hk : e.kind = .poison) (poisoned : Bool) :
    e.toWrite poisoned = some (Vector.replicate 4 ⟨0#128, true⟩) := by
  unfold TTEntry.toWrite
  rw [hk]
  rfl

/-! ### The data is complete (R78, R96) -/

/-- R96: an entry whose poison policy has been applied. -/
def TTEntry.decided (e : TTEntry) (poisoned : Bool) : TTEntry :=
  { e with verdict := if poisoned = true then some .poisoned else e.verdict }

/-- R78: an entry that writes passes to WRITING. -/
theorem State.complete_writes {s : State} {i : TTIdx} {e : TTEntry} {l : Loc} {d : BlockData} (he : s.entry i = some e)
    (hl : e.loc = some l) (hd : e.toWrite (s.refusesPoison e) = some d) : ∃ u,
      s.complete i = ((s.setEntry i u).placeWrite (.tt i .primary) l.port l.addr d).setEntry i
        (some { e.decided (s.refusesPoison e) with
          phase := .writing, changed := true, memOp := some ⟨.write, .primary, none⟩ }) := by
  unfold State.complete
  rw [he]
  dsimp only
  rw [hd]
  dsimp only
  rw [State.modEntry_of_entry he, State.setEntry_modEntry]
  exact ⟨_, State.writeTT_primary (State.setEntry_self _ _ _) (by exact hl) d⟩

/-- R78: an entry that writes nothing passes to RESPONDING. -/
theorem State.complete_responds {s : State} {i : TTIdx} {e : TTEntry} (he : s.entry i = some e)
    (hd : e.toWrite (s.refusesPoison e) = none) :
    s.complete i = s.setEntry i (some { e.decided (s.refusesPoison e) with phase := .responding }) := by
  unfold State.complete
  rw [he]
  dsimp only
  rw [hd]
  dsimp only
  rw [State.modEntry_of_entry he, State.setEntry_modEntry]
  rfl

/-- R78: completion concerns the entry and its Memory Port. -/
theorem State.complete_beside {s : State} {i : TTIdx} {e : TTEntry} {l : Loc} (he : s.entry i = some e) (hl : e.loc = some l) :
    (s.complete i).dir = s.dir ∧ (s.complete i).ports = s.ports ∧ (s.complete i).slots = s.slots := by
  cases hd : e.toWrite (s.refusesPoison e) with
  | some d =>
    obtain ⟨u, complete⟩ := State.complete_writes he hl hd
    rw [complete]
    unfold State.placeWrite
    simp
  | none =>
    rw [State.complete_responds he hd]
    exact ⟨rfl, rfl, rfl⟩

/-! ### The actions of an entry (R62, R78) -/

theorem State.entryStep_reading {s : State} {i : TTIdx} {e : TTEntry} (he : s.entry i = some e) (hm : e.memOp = none)
    (hp : e.phase = .reading) : s.entryStep i = some (s.complete i) := by
  unfold State.entryStep
  simp only [he, hm, hp, Option.isSome_none, Bool.false_eq_true, if_false]

theorem State.entryStep_writing {s : State} {i : TTIdx} {e : TTEntry} (he : s.entry i = some e) (hm : e.memOp = none)
    (hp : e.phase = .writing) : s.entryStep i = some (s.setEntry i (some { e with phase := .responding })) := by
  unfold State.entryStep
  simp only [he, hm, hp, Option.isSome_none, Bool.false_eq_true, if_false, State.modEntry_of_entry he]

theorem State.entryStep_recalling {s : State} {i : TTIdx} {e : TTEntry} (he : s.entry i = some e) (hm : e.memOp = none)
    (hp : e.phase = .recalling) : s.entryStep i = if fullyResolved e.recalls = true then
      some (if e.needsData = true ∧ e.buffer.present ≠ 15#4 then s.beginRead i else s.complete i) else none := by
  unfold State.entryStep State.afterRecalls
  simp only [he, hm, hp, Option.isSome_none, Bool.false_eq_true, if_false, DataBuffer.isFull, Bool.and_eq_true,
    Bool.not_eq_true', beq_eq_false_iff_ne, ne_eq]

/-- R84 to R93: the flows that need the block's data. -/
theorem TTEntry.needsData_of_kind {e : TTEntry} (h : e.kind = .req .fetchS ∨ e.kind = .req .fetchX ∨
    e.kind = .req .upgrade ∧ e.grantsUp = false ∨ e.kind = .req .readOnce ∨
    e.kind = .req .writeThru ∧ ∀ w, e.write = some w → w.mask ≠ BitVec.allOnes 64) : e.needsData = true := by
  unfold TTEntry.needsData
  rcases h with h | h | ⟨h, hg⟩ | h | ⟨h, hw⟩ <;> rw [h]
  · exact congrArg not hg
  · refine congrArg not (Bool.eq_false_iff.mpr fun hf => ?_)
    obtain ⟨w, e, hm⟩ := (TTEntry.fullMask_iff _).mp hf
    exact hw w e hm

theorem TTEntry.needsData_false {e : TTEntry} (h : e.kind = .reclaim ∨ e.kind = .poison ∨
    e.kind = .req .upgrade ∧ e.grantsUp = true ∨
    e.kind = .req .writeThru ∧ ∃ w, e.write = some w ∧ w.mask = BitVec.allOnes 64) : e.needsData = false := by
  unfold TTEntry.needsData
  rcases h with h | h | ⟨h, hg⟩ | ⟨h, hw⟩ <;> rw [h]
  · exact congrArg not hg
  · exact congrArg not ((TTEntry.fullMask_iff _).mpr hw)

/-! ### An UPGRADE at RESPONDING (R69, R91) -/

theorem State.upgradeOvertaken_iff (s : State) {e : TTEntry} {n : NodeId} {tag : ReqTag} (hg : e.grantsUp = true)
    (hr : e.requester = some (n, tag)) : s.upgradeOvertaken e = true ↔
      e.orphaned = false ∧ s.standing n e.block ≠ .owner ∧ s.standing n e.block ≠ .sharer := by
  unfold State.upgradeOvertaken
  rw [hg, hr]
  simp

/-- R91: an overtaken UPGRADE reads memory, to be served as a FETCH_X. -/
theorem State.respond_overtaken {s : State} {i : TTIdx} {e : TTEntry} {l : Loc} (h : s.upgradeOvertaken e = true)
    (he : s.entry i = some e) (hl : e.loc = some l) (hw : (s.mp l.port).writesAt l.addr = []) : ∃ u,
      s.respond i e = ((s.setEntry i u).modMP l.port fun q => q.queueOp ⟨.tt i .primary, .read, l.addr, false⟩).setEntry i
        (some { e with upgradeAsX := true, phase := .reading, memOp := some ⟨.read, .primary, none⟩ }) := by
  unfold State.respond
  rw [if_pos h, State.modEntry_of_entry he]
  have place : TTEntry.loc { e with upgradeAsX := true } = some l := hl
  rw [State.beginRead_eq (State.setEntry_self _ _ _) place, State.setEntry_setEntry]
  exact ⟨_, State.placeRead_queued (State.setEntry_self _ _ _) (by rw [State.setEntry_mp]; exact hw) false⟩

/-- R70: an entry that is not overtaken applies its update and answers. -/
theorem State.respond_answers {s : State} {i : TTIdx} {e : TTEntry} (h : ¬s.upgradeOvertaken e = true) :
    s.respond i e = (s.respondKind i e).modEntry i fun x => { x with opened := true } := if_neg h

theorem State.upgradeOvertaken_false (s : State) {e : TTEntry} (h : e.grantsUp = false) : ¬s.upgradeOvertaken e = true := by
  unfold State.upgradeOvertaken
  rw [h]
  exact Bool.false_ne_true

/-! ### The statement -/

/-- R69, R78, R81, R86, R89 to R93, R96, R99, R100: what an entry writes. -/
theorem TTEntry.toWrite_cases (e : TTEntry) (poisoned : Bool) :
    (e.kind = .req .fetchS ∨ e.kind = .req .readOnce ∨ e.kind = .reclaim →
      e.toWrite poisoned = if e.buffer.source = some .node then some e.buffer.beats else none) ∧
    (e.kind = .req .fetchX ∨ e.kind = .req .upgrade ∧ e.grantsUp = false →
      (e.buffer.source = some .node →
        (∃ m ∈ e.recalls, m.resolution = some .ownerLost) ∨ e.orphaned = true ∨ poisoned = true →
        e.toWrite poisoned = some e.buffer.beats) ∧
      (e.buffer.source ≠ some .node ∨
        (∀ m ∈ e.recalls, m.resolution ≠ some .ownerLost) ∧ e.orphaned = false ∧ poisoned = false →
        e.toWrite poisoned = none)) ∧
    (e.kind = .req .upgrade → e.grantsUp = true → e.toWrite poisoned = none) ∧
    (∀ w, e.kind = .req .writeThru → e.write = some w → e.toWrite poisoned = some (mergeBlock w e.buffer.beats)) ∧
    (e.kind = .poison → e.toWrite poisoned = some (Vector.replicate 4 ⟨0#128, true⟩)) := by
  refine ⟨fun hk => TTEntry.toWrite_source hk poisoned, fun hk => ?_, fun hk hg => TTEntry.toWrite_grantsUp hk hg poisoned,
    fun w hk hw => TTEntry.toWrite_writeThru hk hw poisoned, fun hk => TTEntry.toWrite_poison hk poisoned⟩
  simp only [TTEntry.toWrite_asFetchX (e.asFetchX_iff.mpr hk), TTEntry.lostOwner_iff]
  refine ⟨fun hs h => if_pos ⟨hs, h⟩, fun h => if_neg ?_⟩
  rintro ⟨hs, kept⟩
  rcases h with h | ⟨lost, orphaned, fine⟩
  · exact h hs
  · rcases kept with ⟨m, hm, hl⟩ | k | k
    · exact lost m hm hl
    · exact Bool.false_ne_true (orphaned.symm.trans k)
    · exact Bool.false_ne_true (fine.symm.trans k)

/-- Settles O43: the poison policy, what is written, the completion, the actions of the entry, and the UPGRADE at RESPONDING. -/
theorem whatAnEntryWrites : Obligations.WhatAnEntryWrites := by
  refine ⟨State.refusesPoison_iff, TTEntry.toWrite_cases, fun s i e f l he hl hf => ⟨fun d hd => ?_, fun hd => ?_,
      State.complete_beside he hl⟩,
    fun s i e he hm => ⟨State.entryStep_reading he hm, State.entryStep_writing he hm, fun hp hr => ?_,
      fun hp hr => ⟨fun hk hb => ?_, fun hk => ?_⟩⟩,
    TTEntry.grantsUp_iff, fun s i e n tag l he hg hr hl => ⟨fun ho hs hw => ?_, fun h => ?_⟩,
    fun e hg s i => State.respond_answers (s.upgradeOvertaken_false hg), fun e => ?_, fun s i e n tag ho => if_pos ho,
    fun s i e l he hl => State.beginRead_eq he hl⟩
  · obtain ⟨u, complete⟩ := State.complete_writes he hl hd
    rw [complete, State.setEntry_self, hf]
    exact ⟨rfl, ((s.setEntry i u).placeWrite_places _ l d).congr (fun p => (State.setEntry_mp _ _ _ p).symm)
      fun p => State.setEntry_mp _ _ _ p⟩
  · rw [State.complete_responds he hd, State.setEntry_self, hf]
    exact ⟨rfl, rfl, rfl⟩
  · obtain ⟨m, member, open_m⟩ := hr
    exact (State.entryStep_recalling he hm hp).trans (if_neg fun h => (fullyResolved_iff _).mp h m member open_m)
  · rw [State.entryStep_recalling he hm hp, if_pos ((fullyResolved_iff _).mpr hr), if_pos ⟨TTEntry.needsData_of_kind hk, hb⟩]
  · rw [State.entryStep_recalling he hm hp, if_pos ((fullyResolved_iff _).mpr hr), if_neg]
    rintro ⟨needs, lacks⟩
    have full : ¬e.buffer.present = 15#4 → e.needsData = false := fun hb => TTEntry.needsData_false (by tauto)
    rw [full lacks] at needs
    cases needs
  · have overtaken : s.upgradeOvertaken e = true := (s.upgradeOvertaken_iff hg hr).mpr ⟨ho, by rw [hs]; exact ⟨nofun, nofun⟩⟩
    obtain ⟨u, respond⟩ := State.respond_overtaken overtaken he hl hw
    rw [respond, State.setEntry_self, State.setEntry_mp, State.modMP_mp, if_pos rfl, State.setEntry_mp]
    refine ⟨rfl, rfl, ?_, ?_⟩ <;> simp
  · have holds : ¬s.upgradeOvertaken e = true := fun k => by
      obtain ⟨orphaned, owner, sharer⟩ := (s.upgradeOvertaken_iff hg hr).mp k
      rcases h with h | h | h
      · exact Bool.false_ne_true (orphaned.symm.trans h)
      · exact owner h
      · exact sharer h
    obtain ⟨kind, -⟩ := e.grantsUp_iff.mp hg
    rw [State.respond_answers holds]
    unfold State.respondKind
    rw [kind]
  · exact Bool.eq_false_iff.mpr fun h => by
      obtain ⟨-, asX, -⟩ := (TTEntry.grantsUp_iff _).mp h
      cases asX

end Sys2Proof.Machine
end

section
/-! The Directory stays sound and in its canonical form (chapter 3; R36 to R38). -/

namespace Sys2Proof.Machine

/-- A change that leaves the Directory as it was. -/
theorem Directory.Keeps.of_eq {d e : Directory} (h : e = d) : d.Keeps e := by
  subst h
  exact ⟨id, id⟩

/-- R142: a fence leaves the Directory to the walk of its job. -/
theorem State.fence_dir (s : State) (n : NodeId) (why : FenceReason) : (s.fence n why).dir = s.dir := by
  have rest := (s.fence_fenced n why).rest
  simp only [Prod.mk.injEq] at rest
  obtain ⟨-, -, -, -, -, -, -, -, -, -, dir, -, -⟩ := rest
  exact dir

/-- Every update of the commands keeps the Directory: the bridge's own work by `Calm`, and the others do not touch it. -/
theorem Deed.keepsDirectory {fr : Prop} {s t : State} (d : Deed fr s t) : s.dir.Keeps t.dir := by
  induction d with
  | work w => exact (Calm.of_work w).dir
  | trans _ _ h k => exact ⟨k.wf ∘ h.wf, k.sound ∘ h.sound⟩
  | aside e =>
    simp only [State.guarded, Prod.mk.injEq] at e
    obtain ⟨-, -, -, -, -, dir, -⟩ := e
    exact .of_eq dir
  | fence s n why => exact .of_eq (s.fence_dir n why)
  | accept | taken | outbound | link | record | makeActive | quiesce | release | close | write | opened | slot | free
  | control | ask | hold | leave => exact .of_eq rfl

/-- A Directory with no set listed is sound. -/
theorem Directory.sound_nil : Directory.Sound [] := ⟨rfl, DirSet.Sound.empty⟩

/-- Settles O11: the updates of which a command is made keep the Directory, and both resets empty it. -/
theorem directoryStaysSound : Obligations.DirectoryStaysSound :=
  ⟨fun s t hs h => step_keeps (P := State.DirectoryCanonical) (fun _ _ k => k) (fun _ _ _ d => d.keepsDirectory.wf)
      (fun _ _ => rfl) (fun _ => rfl) (fun _ _ k => k) s t hs h,
    fun s t hs h => step_keeps (P := State.DirectorySound) (fun _ _ k => k) (fun _ _ _ d => d.keepsDirectory.sound)
      (fun _ _ => Directory.sound_nil) (fun _ => Directory.sound_nil) (fun _ _ k => k) s t hs h⟩

end Sys2Proof.Machine
end

section
/-! The lookup of a block in the Directory, and the holder-check failure (chapter 3, section 3.3; R45 to R50). -/

namespace Sys2Proof.Machine

/-! ### The EMPTY ways (R46) -/

theorem DirSet.firstEmpty_iff (ds : DirSet) (w : WayIdx) :
    ds.firstEmpty = some w ↔ ds.way w = .empty ∧ ∀ v, v < w → ds.way v ≠ .empty := by
  unfold DirSet.firstEmpty
  rw [find?_ascending allWays_ascending]
  simp [mem_allWays]

theorem DirSet.firstEmpty_none {ds : DirSet} (h : ∀ v, ds.way v ≠ .empty) : ds.firstEmpty = none :=
  List.find?_eq_none.mpr fun v _ => by simpa using h v

/-! ### A HELD way read (R50) -/

section
variable (s : State)

theorem State.takeCheck_fails : s.takeCheck.1 = s.now.checks.headD false := by
  unfold State.takeCheck
  cases s.now.checks <;> rfl

theorem State.takeCheck_dir : s.takeCheck.2.dir = s.dir := by
  unfold State.takeCheck
  split <;> rfl

theorem State.takeCheck_hold : s.takeCheck.2.hold = s.hold := by
  unfold State.takeCheck
  split <;> rfl

variable (k : SetIdx) (w : WayIdx) (e : DirEntry)

/-- R50: the check that a HELD way passes. -/
theorem State.readHeld_passes (h : s.now.checks.headD false = false) : s.readHeld k w e = (e, s.takeCheck.2) := by
  unfold State.readHeld
  rw [← State.takeCheck_fails] at h
  simp only [h, Bool.false_eq_true, if_false]

/-- R50: the check that a HELD way fails makes its entry FAILED. -/
theorem State.readHeld_fails (h : s.now.checks.headD false = true) : s.readHeld k w e =
    ({ e with failed := true }, s.takeCheck.2.putSet k ((s.dirSet k).setWay w (.held { e with failed := true }))) := by
  unfold State.readHeld
  rw [← State.takeCheck_fails] at h
  simp only [h, if_true, Work.takeCheck_dirSet]

theorem State.readHeld_entry : (s.readHeld k w e).1 = { e with failed := e.failed || s.now.checks.headD false } := by
  cases h : s.now.checks.headD false with
  | false => rw [s.readHeld_passes k w e h, Bool.or_false]
  | true => rw [s.readHeld_fails k w e h, Bool.or_true]

theorem State.readHeld_hold : (s.readHeld k w e).2.hold = s.hold := by
  cases h : s.now.checks.headD false with
  | false => rw [s.readHeld_passes k w e h]; exact s.takeCheck_hold
  | true => rw [s.readHeld_fails k w e h]; exact s.takeCheck_hold

theorem State.readHeld_dir (h : s.now.checks.headD false = false) : (s.readHeld k w e).2.dir = s.dir := by
  rw [s.readHeld_passes k w e h, State.takeCheck_dir]

/-- R50: the FAILED entry stands in its way, with its recency position; every other way and set is as it was. -/
theorem State.readHeld_dirSet (h : s.now.checks.headD false = true) (hc : s.DirectoryCanonical) (j : SetIdx) :
    (s.readHeld k w e).2.dirSet j =
      if j = k then (s.dirSet k).setWay w (.held { e with failed := true }) else s.dirSet j := by
  rw [s.readHeld_fails k w e h, State.dirSet_putSet _ _ _ _ (by rw [State.takeCheck_dir]; exact hc), Work.takeCheck_dirSet]

end

/-! ### The victim (R47) -/

/-- R47: the least recent HELD way whose block is not claimed. -/
theorem State.chooseVictim_some {s : State} {ds : DirSet} {w : WayIdx} {e : DirEntry} {front back : List WayIdx}
    (hr : ds.recency = front ++ w :: back) (hw : ds.way w = .held e) (hn : s.claimed e.block = false)
    (hb : ∀ v ∈ back, ∀ x, ds.way v = .held x → s.claimed x.block = true) : s.chooseVictim ds = some (w, e) := by
  refine List.findSome?_eq_some_iff.mpr ⟨back.reverse, w, front.reverse, by simp [hr], ?_, fun v hv => ?_⟩
  · simp [hw, Way.entry?, hn]
  · refine Option.bind_eq_none_iff.mpr fun x hx => if_pos ?_
    exact hb v (List.mem_reverse.mp hv) x ((Way.entry?_eq_some _ x).mp hx)

theorem State.chooseVictim_none {s : State} {ds : DirSet}
    (h : ∀ v ∈ ds.recency, ∀ x, ds.way v = .held x → s.claimed x.block = true) : s.chooseVictim ds = none := by
  refine List.findSome?_eq_none_iff.mpr fun v hv => Option.bind_eq_none_iff.mpr fun x hx => if_pos ?_
  exact h v (List.mem_reverse.mp hv) x ((Way.entry?_eq_some _ x).mp hx)

/-! ### The lookup (R45 to R48) -/

section
variable {s : State} {b : Block} (i : TTIdx)

/-- R45: the block is held. -/
theorem State.lookup_held {w : WayIdx} {e : DirEntry} (h : (s.dirSet (setOf b)).findHeld b = some (w, e)) (new : Bool) :
    s.lookup i b new = (.held w (s.readHeld (setOf b) w e).1, (s.readHeld (setOf b) w e).2) := by
  unfold State.lookup
  simp only [h]

/-- R45: the block is not held, and the kind needs no way. -/
theorem State.lookup_notHeld (h : (s.dirSet (setOf b)).findHeld b = none) : s.lookup i b false = (.notHeld, s) := by
  unfold State.lookup
  simp only [h, Bool.not_false, if_true]

/-- R46: an EMPTY way is reserved. -/
theorem State.lookup_reserves {w : WayIdx} (h : (s.dirSet (setOf b)).findHeld b = none)
    (hw : (s.dirSet (setOf b)).firstEmpty = some w) : s.lookup i b true =
      (.reservedNew w, s.putSet (setOf b) ((s.dirSet (setOf b)).setWay w (.reserved i b))) := by
  unfold State.lookup
  simp only [h, hw, Bool.not_true, Bool.false_eq_true, if_false]

/-- R47: a victim is chosen, and the held requests for its block become WAITING. -/
theorem State.lookup_evicts {w : WayIdx} {e : DirEntry} (h : (s.dirSet (setOf b)).findHeld b = none)
    (hf : (s.dirSet (setOf b)).firstEmpty = none) (hv : s.chooseVictim (s.dirSet (setOf b)) = some (w, e)) :
    s.lookup i b true = (.victim w (s.readHeld (setOf b) w e).1,
      (s.readHeld (setOf b) w e).2.setHeldReady e.block false) := by
  unfold State.lookup
  simp only [h, hf, hv, Bool.not_true, Bool.false_eq_true, if_false]

/-- R48: no way can be had. -/
theorem State.lookup_setBusy (h : (s.dirSet (setOf b)).findHeld b = none) (hf : (s.dirSet (setOf b)).firstEmpty = none)
    (hv : s.chooseVictim (s.dirSet (setOf b)) = none) : s.lookup i b true = (.setBusy, s) := by
  unfold State.lookup
  simp only [h, hf, hv, Bool.not_true, Bool.false_eq_true, if_false]

end

/-- Settles O37: each outcome by its equation of the lookup, the holder check by what a HELD way read leaves. -/
theorem lookupOutcomes : Obligations.LookupOutcomes := by
  rintro s i b ds rfl
  refine ⟨fun new w e h => ?_, s.lookup_notHeld i, fun w h hw hlow => ?_, fun w e front back h hf hr hw hn hb => ?_,
    fun h hf hb => ?_⟩
  · rw [s.lookup_held i h new]
    refine ⟨by rw [s.readHeld_entry], s.readHeld_dir _ w e, fun hc canonical => ⟨?_, fun k hk => ?_⟩⟩
    · exact (s.readHeld_dirSet _ w e hc canonical _).trans (if_pos rfl)
    · exact (s.readHeld_dirSet _ w e hc canonical k).trans (if_neg hk)
  · exact s.lookup_reserves i h ((DirSet.firstEmpty_iff _ w).mpr ⟨hw, hlow⟩)
  · rw [s.lookup_evicts i h (DirSet.firstEmpty_none hf) (State.chooseVictim_some hr hw hn hb)]
    refine ⟨by rw [s.readHeld_entry], ?_, s.readHeld_dir _ w e, fun hc canonical => ⟨?_, fun k hk => ?_⟩⟩
    · exact congrArg _ (s.readHeld_hold _ w e)
    · exact (s.readHeld_dirSet _ w e hc canonical _).trans (if_pos rfl)
    · exact (s.readHeld_dirSet _ w e hc canonical k).trans (if_neg hk)
  · exact s.lookup_setBusy i h (DirSet.firstEmpty_none hf) (State.chooseVictim_none hb)

end Sys2Proof.Machine
end

section
/-! Holders and entries removed from the Directory, and the updates that its entries are given (chapter 3, sections 3.1 and 3.2;
R36, R38, R40, R42, R43). -/

namespace Sys2Proof.Machine

/-! ### Standing (R42) -/

section
variable {s : State} {n : NodeId} {b : Block}

theorem State.standing_none (h : s.dirEntry b = none) : s.standing n b = .notHolder := by
  unfold State.standing
  rw [h]

theorem State.standing_failed {e : DirEntry} (h : s.dirEntry b = some e) (hf : e.failed = true) :
    s.standing n b = .underRepair := by
  unfold State.standing
  simp only [h, hf, if_true]

theorem State.standing_owned {e : DirEntry} {o : NodeId} (h : s.dirEntry b = some e) (hf : e.failed = false)
    (hr : e.rights = .owned o) : s.standing n b = if o = n then .owner else .notHolder := by
  unfold State.standing
  simp only [h, hf, hr, Bool.false_eq_true, if_false]

theorem State.standing_shared {e : DirEntry} {hs : NodeSet} (h : s.dirEntry b = some e) (hf : e.failed = false)
    (hr : e.rights = .shared hs) : s.standing n b = if hs.has n = true then .sharer else .notHolder := by
  unfold State.standing
  simp only [h, hf, hr, Bool.false_eq_true, if_false]

end

/-! ### An entry removed whole (R43) -/

section
variable {s : State} {b : Block}

theorem State.removeEntry_none (h : (s.dirSet (setOf b)).findHeld b = none) : s.removeEntry b = s := by
  unfold State.removeEntry
  simp only [h]

theorem State.removeEntry_some {w : WayIdx} {e : DirEntry} (h : (s.dirSet (setOf b)).findHeld b = some (w, e)) :
    s.removeEntry b = s.putSet (setOf b) ((s.dirSet (setOf b)).vacate w (s.vacated b)) := by
  unfold State.removeEntry
  simp only [h]

variable (s b)

/-- A removal writes the Directory alone. -/
theorem State.removeEntry_dirOnly : s.removeEntry b = { s with dir := (s.removeEntry b).dir } := by
  unfold State.removeEntry
  dsimp only
  split <;> rfl

/-- R43: the removal of an entry. -/
theorem State.removeEntry_removes (hc : s.DirectoryCanonical) : s.Removes (s.removeEntry b) b := by
  cases h : (s.dirSet (setOf b)).findHeld b with
  | none =>
    rw [State.removeEntry_none h]
    exact ⟨fun _ _ => rfl, fun _ => rfl, fun w e hw => by rw [h] at hw; cases hw⟩
  | some p =>
    obtain ⟨w, e⟩ := p
    rw [State.removeEntry_some h]
    refine ⟨fun k hk => ?_, fun hn => (by rw [h] at hn; cases hn), fun v f hv => ?_⟩
    · rw [State.dirSet_putSet _ _ _ _ hc, if_neg hk]
    · rw [h] at hv
      cases hv
      rw [State.dirSet_putSet _ _ _ _ hc, if_pos rfl]
      rfl

/-- R43: what the way of a removed entry becomes when no entry claims its block. -/
theorem State.vacated_unclaimed (h : s.claimant b = none) : s.vacated b = .empty := by
  unfold State.vacated
  rw [h]

/-- R43: the block is the victim of an entry. -/
theorem State.vacated_victim {i : TTIdx} {e : TTEntry} (h : s.claimant b = some (i, .victim)) (he : s.entry i = some e) :
    s.vacated b = .reserved i e.block := by
  unfold State.vacated
  simp only [h, he]

/-- R43: the block is the primary block of an entry. -/
theorem State.vacated_primary {i : TTIdx} {e : TTEntry} (h : s.claimant b = some (i, .primary)) (he : s.entry i = some e) :
    s.vacated b = if e.kind.keepsWay = true then .reserved i b else .empty := by
  unfold State.vacated
  simp only [h, he]

end

theorem TTKind.keepsWay_iff (k : TTKind) :
    k.keepsWay = true ↔ k = .req .fetchS ∨ k = .req .fetchX ∨ k = .req .upgrade := by
  cases k with
  | req k => cases k <;> simp [TTKind.keepsWay]
  | reclaim => simp [TTKind.keepsWay]
  | poison => simp [TTKind.keepsWay]

/-! ### A holder removed (R42) -/

section
variable {s : State} {n : NodeId} {b : Block} {w : WayIdx} {e : DirEntry}
  (h : (s.dirSet (setOf b)).findHeld b = some (w, e))
include h

theorem State.removeHolder_ignored (k : e.failed = true ∨ e.rights.holders.has n = false) : s.removeHolder n b = s := by
  unfold State.removeHolder
  simp only [h]
  refine if_pos ?_
  rcases k with k | k <;> simp [k]

/-- R42: one of several sharers leaves. -/
theorem State.removeHolder_sharer {hs : NodeSet} (hf : e.failed = false) (hr : e.rights = .shared hs) (hn : hs.has n = true)
    (hd : hs.del n ≠ NodeSet.none) : s.removeHolder n b =
      s.putSet (setOf b) ((s.dirSet (setOf b)).setWay w (.held { e with rights := .shared (hs.del n) })) := by
  unfold State.removeHolder
  simp only [h, hf, hr, Rights.holders, hn, hd, Bool.not_true, Bool.or_self, Bool.false_eq_true, if_false]

/-- R42, R43: the entry goes with its last holder. -/
theorem State.removeHolder_last (hf : e.failed = false) (hr : e.rights = .owned n ∨ e.rights = .shared (NodeSet.only n)) :
    s.removeHolder n b = s.removeEntry b := by
  unfold State.removeHolder
  rcases hr with hr | hr <;>
    simp only [h, hf, hr, Rights.holders, NodeSet.has_only, NodeSet.del_only, Bool.not_true, Bool.or_self, Bool.false_eq_true,
      if_false, if_true]

end

/-- A removal of a holder writes the Directory alone. -/
theorem State.removeHolder_dirOnly (s : State) (n : NodeId) (b : Block) :
    s.removeHolder n b = { s with dir := (s.removeHolder n b).dir } := by
  unfold State.removeHolder
  dsimp only
  repeat' split
  · rfl
  · rfl
  · exact s.removeEntry_dirOnly b
  · exact s.removeEntry_dirOnly b
  · rfl

/-- R42: a node that stands as owner is the last holder of its entry. -/
theorem State.standing_owner {s : State} {n : NodeId} {b : Block} (h : s.standing n b = .owner) :
    ∃ w e, (s.dirSet (setOf b)).findHeld b = some (w, e) ∧ e.failed = false ∧ e.rights = .owned n := by
  unfold State.standing at h
  split at h
  · cases h
  · next e he =>
    obtain ⟨w, hw⟩ := (s.dirEntry_iff b e).mp he
    split at h
    · cases h
    · next hf =>
      split at h
      · next o hr =>
        split at h
        · next ho => exact ⟨w, e, hw, by simpa using hf, ho ▸ hr⟩
        · cases h
      · split at h <;> cases h

/-- Settles O38: standing by the four readings of an entry, a removal by what is left of the holders, the vacated way by the
claim. -/
theorem holdersAreRemoved : Obligations.HoldersAreRemoved := by
  refine ⟨fun s n b => ⟨State.standing_none, fun e => State.standing_failed, fun e o => State.standing_owned,
      fun e hs => State.standing_shared⟩,
    fun s n b w e hc h => ⟨State.removeHolder_ignored h, fun hs hf hr hn hd => ?_, fun hf hr => ?_⟩,
    fun s b => ⟨s.vacated_unclaimed b, fun i e => s.vacated_victim b, fun i e hp he => ⟨fun hk => ?_, fun hk => ?_⟩⟩,
    fun s b hc => ⟨s.removeEntry_removes b hc, ?_, ?_⟩, fun s k j v hc => s.dirSet_putSet k j v hc⟩
  · rw [State.removeHolder_sharer h hf hr hn hd, State.dirSet_putSet _ _ _ _ hc, if_pos rfl]
  · obtain ⟨-, -, gone⟩ := s.removeEntry_removes b hc
    rw [State.removeHolder_last h hf hr]
    exact gone w e h
  · rw [s.vacated_primary b hp he, if_pos ((TTKind.keepsWay_iff _).mpr hk)]
  · rw [s.vacated_primary b hp he, if_neg]
    rcases hk with hk | hk | hk | hk <;> simp [hk, TTKind.keepsWay]
  · rw [s.removeEntry_dirOnly b]
  · rw [s.removeEntry_dirOnly b]

/-! ### The steps of an update (R40) -/

section
variable (b : Block) (vac : Way) (e : DirEntry) (n : NodeId)

theorem Way.step_remove_ignored (h : e.rights.holders.has n = false ∨ e.failed = true) :
    Way.step b vac (.held e) (.remove n) = .held e := by
  unfold Way.step
  refine if_pos ?_
  rcases h with h | h <;> simp [h]

theorem Way.step_remove_sharer {hs : NodeSet} (hf : e.failed = false) (hn : hs.has n = true) (hd : hs.del n ≠ NodeSet.none) :
    Way.step b vac (.held { e with rights := .shared hs }) (.remove n) = .held { e with rights := .shared (hs.del n) } := by
  unfold Way.step
  simp only [hf, Rights.holders, hn, hd, Bool.not_true, Bool.or_self, Bool.false_eq_true, if_false]

/-- R42, R43: the way is vacated when its last holder leaves. -/
theorem Way.step_remove_last {r : Rights} (hf : e.failed = false) (hr : r.holders = NodeSet.only n) :
    Way.step b vac (.held { e with rights := r }) (.remove n) = vac := by
  unfold Way.step
  simp only [hf, hr, NodeSet.has_only, NodeSet.del_only, Bool.not_true, Bool.or_self, Bool.false_eq_true, if_false, if_true]

end

/-! ### The recency order (R38) -/

/-- R38: an update that adds a holder to a SHARED entry refreshes its way. -/
theorem Rights.grew_shared (hs ks : NodeSet) : (Rights.shared hs).grew (.shared ks) = true ↔ ¬ks &&& ~~~hs = 0#8 := by
  simp [Rights.grew]

/-- R38: a change of the owner, or of the state, refreshes the way. -/
theorem Rights.grew_owned {r q : Rights} (hne : r ≠ q) {o : NodeId} (h : r = .owned o ∨ q = .owned o) : r.grew q = true := by
  rcases h with rfl | rfl
  · simpa [Rights.grew] using hne
  · cases r with
    | shared hs => rfl
    | owned a => simpa [Rights.grew] using hne

theorem Rights.grew_self (r : Rights) : ¬r.grew r = true := by
  cases r with
  | shared hs => simp [Rights.grew]
  | owned o => simp [Rights.grew]

/-- What an update leaves of a set: its way as the steps leave it, and the recency order moved once. -/
def DirSet.updated (ds : DirSet) (w : WayIdx) (x : Way) : DirSet :=
  match (ds.way w).entry?, x.entry? with
  | some e, some e' => if e.rights.grew e'.rights then (ds.setWay w x).refresh w else ds.setWay w x
  | none, some _ => (ds.setWay w x).refresh w
  | some _, none => { ds.setWay w x with recency := (ds.setWay w x).recency.erase w }
  | none, none => ds.setWay w x

theorem State.applyUpdate_some {s : State} {i : TTIdx} {b : Block} {w : WayIdx}
    (h : (s.dirSet (setOf b)).updateWay i b = some w) (us : List UStep) : s.applyUpdate i b us =
      s.putSet (setOf b) ((s.dirSet (setOf b)).updated w (us.foldl (Way.step b (s.vacated b)) ((s.dirSet (setOf b)).way w))) := by
  unfold State.applyUpdate
  simp only [h]
  rfl

section
variable {ds : DirSet} {w : WayIdx} {x : Way}

theorem DirSet.updated_ways : (ds.updated w x).ways = ds.ways.set w x := by
  unfold DirSet.updated
  repeat' split
  all_goals rfl

theorem DirSet.updated_held {e f : DirEntry} (h : ds.way w = .held e) (hx : x = .held f) :
    (ds.updated w x).recency = if e.rights.grew f.rights = true then w :: ds.recency.erase w else ds.recency := by
  subst hx
  unfold DirSet.updated
  simp only [h, Way.entry?]
  split <;> rfl

theorem DirSet.updated_entered {f : DirEntry} (h : ∀ e, ds.way w ≠ .held e) (hx : x = .held f) :
    (ds.updated w x).recency = w :: ds.recency.erase w := by
  have old : (ds.way w).entry? = none := Option.eq_none_iff_forall_ne_some.mpr fun e k => h e ((Way.entry?_eq_some _ e).mp k)
  subst hx
  unfold DirSet.updated
  rw [old]
  rfl

theorem DirSet.updated_removed {e : DirEntry} (h : ds.way w = .held e) (hx : ∀ f, x ≠ .held f) :
    (ds.updated w x).recency = ds.recency.erase w := by
  have new : x.entry? = none := Option.eq_none_iff_forall_ne_some.mpr fun f k => hx f ((Way.entry?_eq_some _ f).mp k)
  unfold DirSet.updated
  rw [h, new]
  rfl

theorem DirSet.updated_aside (h : ∀ e, ds.way w ≠ .held e) (hx : ∀ f, x ≠ .held f) :
    (ds.updated w x).recency = ds.recency := by
  have old : (ds.way w).entry? = none := Option.eq_none_iff_forall_ne_some.mpr fun e k => h e ((Way.entry?_eq_some _ e).mp k)
  have new : x.entry? = none := Option.eq_none_iff_forall_ne_some.mpr fun f k => hx f ((Way.entry?_eq_some _ f).mp k)
  unfold DirSet.updated
  rw [old, new]
  rfl

end

/-- R40: the way of an update: the HELD way of the block, or the entry's own RESERVED way. -/
theorem DirSet.updateWay_some {ds : DirSet} {i : TTIdx} {b : Block} {w : WayIdx}
    (h : (∃ e, ds.findHeld b = some (w, e)) ∨ ds.findHeld b = none ∧ ds.findReserved i = some w) :
    ds.updateWay i b = some w := by
  unfold DirSet.updateWay
  rcases h with ⟨e, h⟩ | ⟨h, hr⟩
  · rw [h]
  · rw [h]
    exact hr

/-- R40: an update that finds no way changes nothing. -/
theorem State.applyUpdate_none {s : State} {i : TTIdx} {b : Block} (h : (s.dirSet (setOf b)).findHeld b = none)
    (hr : (s.dirSet (setOf b)).findReserved i = none) (us : List UStep) : s.applyUpdate i b us = s := by
  unfold State.applyUpdate DirSet.updateWay
  simp only [h, hr]

/-- Settles O39: the steps way by way, and the recency order by what the way was and what it becomes. -/
theorem updatesApplyTheirSteps : Obligations.UpdatesApplyTheirSteps := by
  refine ⟨fun b vac e hs o n i => ⟨rfl, rfl, rfl, rfl, rfl, rfl, rfl, Way.step_remove_sharer b vac e n,
      fun hf => Way.step_remove_last b vac e n hf rfl, fun hf => Way.step_remove_last b vac e n hf rfl,
      Way.step_remove_ignored b vac e n⟩, ?_, fun s i b us h hr => State.applyUpdate_none h hr us⟩
  rintro s i b us w ds hc rfl hw x hx
  have set : ∀ k, (s.applyUpdate i b us).dirSet k =
      if k = setOf b then (s.dirSet (setOf b)).updated w x else s.dirSet k := fun k => by
    rw [State.applyUpdate_some (DirSet.updateWay_some hw), State.dirSet_putSet _ _ _ _ hc, hx]
  rw [set (setOf b), if_pos rfl]
  refine ⟨DirSet.updated_ways, fun e f he hf hr => ?_, fun e f hs ks he hf hr hq => ?_, fun e f o he hf hne ho => ?_,
    fun j c f hj hf => DirSet.updated_entered (by rw [hj]; exact nofun) hf, fun e he hf => DirSet.updated_removed he hf,
    fun j c hj hf => DirSet.updated_aside (by rw [hj]; exact nofun) hf, fun k hk => (set k).trans (if_neg hk)⟩
  · rw [DirSet.updated_held he hf, hr, if_neg (Rights.grew_self _)]
  · rw [DirSet.updated_held he hf, hr, hq]
    simp only [Rights.grew_shared, ite_not]
  · rw [DirSet.updated_held he hf, if_pos (Rights.grew_owned hne ho)]

end Sys2Proof.Machine
end

section
/-! Returns that are taken: WRITEBACK, EVICT_CLEAN and RECALL_ACK (chapter 6, sections 6.2 to 6.4; R43, R52, R104 to R114). -/

namespace Sys2Proof.Machine

/-! ### What the readings of the state rest on -/

section
variable {s t : State}

theorem State.mapLookup_congr (h : t.regions = s.regions) (b : Block) : t.mapLookup b = s.mapLookup b := by
  unfold State.mapLookup
  simp only [State.region_congr h]

theorem State.locate_congr (h : t.regions = s.regions) (b : Block) : t.locate b = s.locate b := by
  unfold State.locate
  rw [State.mapLookup_congr h]

theorem State.claimant_congr (h : t.tt = s.tt) (b : Block) : t.claimant b = s.claimant b := by
  unfold State.claimant
  simp only [State.entry_congr h]

theorem State.memberOf_congr (h : t.tt = s.tt) (n : NodeId) (b : Block) : t.memberOf n b = s.memberOf n b := by
  unfold State.memberOf
  rw [State.claimant_congr h]
  simp only [State.entry_congr h]

theorem State.mp_congr (h0 : t.mp0 = s.mp0) (h1 : t.mp1 = s.mp1) : ∀ p, t.mp p = s.mp p
  | .mp0 => h0
  | .mp1 => h1

/-- The removal of an entry rests on the Directory that it leaves. -/
theorem State.Removes.congr {u : State} {b : Block} (h : s.Removes t b) (hu : u.dir = t.dir) : s.Removes u b := by
  have set : ∀ k, u.dirSet k = t.dirSet k := fun k => congrArg (fun d => Directory.get d k) hu
  obtain ⟨others, absent, gone⟩ := h
  exact ⟨fun k hk => (set k).trans (others k hk), fun hn => (set _).trans (absent hn), fun w e he => (set _).trans (gone w e he)⟩

end

theorem State.claimant_entry {s : State} {b : Block} {i : TTIdx} {r : Role} (h : s.claimant b = some (i, r)) :
    ∃ e, s.entry i = some e := by
  obtain ⟨⟨e, he, -⟩, -⟩ := (s.claimant_iff b i r).mp h
  exact ⟨e, he⟩

theorem State.memberOf_entry {s : State} {n : NodeId} {b : Block} {i : TTIdx} {r : Role} {e : TTEntry} {m : Member}
    (h : s.memberOf n b = some (i, r, e, m)) : s.entry i = some e := by
  obtain ⟨-, he, -⟩ := (s.memberOf_iff n b i r e m).mp h
  exact he

/-! ### Members marked (R52, R105, R107) -/

/-- An entry with its unresolved member for a node marked. -/
def TTEntry.marked (e : TTEntry) (r : Role) (n : NodeId) (x : MemberStatus) : TTEntry :=
  e.modMember r n fun m => if m.resolved = true then m else { m with status := x }

theorem TTEntry.setRecalls_self (e : TTEntry) (r : Role) : e.setRecalls r (e.recallsOf r) = e := by
  cases r with
  | primary => rfl
  | victim =>
    obtain ⟨_, _, _, _, _, _, _, v, _, _, _, _, _, _, _, _, _, _, _, _⟩ := e
    cases v <;> rfl

/-- An entry without an unresolved member for the node has none to mark. -/
theorem TTEntry.marked_of_unopened {e : TTEntry} {r : Role} {n : NodeId} (h : e.openMember r n = none) (x : MemberStatus) :
    e.marked r n x = e := by
  have same : (e.recallsOf r).map (fun m => if m.node = n then (if m.resolved = true then m else { m with status := x }) else m) =
      e.recallsOf r := by
    refine (List.map_congr_left fun m hm => ?_).trans (List.map_id _)
    have no := List.find?_eq_none.mp h m hm
    simp only [Bool.and_eq_true, beq_iff_eq, Bool.not_eq_true', not_and, Bool.not_eq_false] at no
    split
    · next hn => exact if_pos (no hn)
    · rfl
  unfold TTEntry.marked TTEntry.modMember
  rw [same, TTEntry.setRecalls_self]

/-- R105: an entry that has absorbed a WRITEBACK. -/
def TTEntry.absorbed (e : TTEntry) (r : Role) (n : NodeId) (d : BlockData) : TTEntry :=
  (e.setBuffer r (.full d .absorbed)).marked r n .absorbedWb

section
variable (s : State) (i : TTIdx) (r : Role) (n : NodeId)

theorem State.absorbWriteback_entry (d : BlockData) (j : TTIdx) : (s.absorbWriteback i r n d).entry j =
    if j = i then (s.entry i).map fun e => e.absorbed r n d else s.entry j := State.modEntry_entry s i j _

theorem State.markMember_entry (x : MemberStatus) (j : TTIdx) : (s.markMember i r n x).entry j =
    if j = i then (s.entry i).map fun e => e.marked r n x else s.entry j := State.modEntry_entry s i j _

end

/-! ### A Writeback Buffer entry with its write (R104, R114) -/

/-- A WRITEBACK has been accepted: its Writeback Buffer entry is made and its write placed, and all else stays. -/
structure WritebackMade (s t : State) (w : WBIdx) (n : NodeId) (b : Block) (d : BlockData) (l : Loc) : Prop where
  wbEntry : t.wbEntry w = some ⟨n, b, some ⟨l.port, l.addr, d, false⟩, false, .queued⟩
  places : s.PlacesWrite t (.wb w) l d
  dir : t.dir = s.dir
  tt : t.tt = s.tt
  slots : t.slots = s.slots
  ports : t.ports = s.ports

theorem State.makeWriteback_made {s : State} {b : Block} {l : Loc} (h : s.locate b = some l) (w : WBIdx) (n : NodeId)
    (d : BlockData) : WritebackMade s (s.makeWriteback w n b d) w n b d l := by
  have made : s.makeWriteback w n b d = (s.setWB w (some ⟨n, b, some ⟨l.port, l.addr, d, false⟩, false, .queued⟩)).placeWrite
      (.wb w) l.port l.addr d := by
    unfold State.makeWriteback
    rw [h]
  rw [made]
  refine ⟨?_, (State.placeWrite_places _ (.wb w) l d).congr (fun p => ?_) fun _ => rfl, State.modMP_dir _ _ _,
    State.modMP_tt _ _ _, State.modMP_slots _ _ _, State.modMP_ports _ _ _⟩
  · have wb := State.modMP_wb (s.setWB w (some ⟨n, b, some ⟨l.port, l.addr, d, false⟩, false, .queued⟩)) l.port
      fun p => (p.addWrite ⟨.wb w, l.addr, d, false, false⟩).queueOp ⟨.wb w, .write, l.addr, false⟩
    refine (congrArg (fun v : Vector (Option WBEntry) 8 => v[w]) wb).trans ?_
    exact (State.setWB_wbEntry s w w _).trans (if_pos rfl)
  · cases p <;> rfl

/-- A Writeback Buffer entry is made without the Directory and the capture slots, with a write or without. -/
theorem State.makeWriteback_beside (s : State) (w : WBIdx) (n : NodeId) (b : Block) (d : BlockData) :
    (s.makeWriteback w n b d).dir = s.dir ∧ (s.makeWriteback w n b d).slots = s.slots := by
  cases h : s.locate b with
  | some l =>
    have made := State.makeWriteback_made h w n d
    exact ⟨made.dir, made.slots⟩
  | none =>
    unfold State.makeWriteback
    rw [h]
    exact ⟨rfl, rfl⟩

/-! ### A stray WRITEBACK (R106) -/

/-- A WRITEBACK has been discarded, answered DONE and captured, and nothing has been written. -/
structure Strayed (s t : State) (w : WBIdx) (n : NodeId) (b : Block) : Prop where
  wbEntry : t.wbEntry w = some ⟨n, b, none, false, .donePending⟩
  queued : s.Queued t n ⟨.done 0#8 b, .wb w⟩
  record : s.HoldsRecord t ⟨.strayWriteback, some n, some b, none, none, none, s.timeBase⟩
  dir : t.dir = s.dir
  mp0 : t.mp0 = s.mp0
  mp1 : t.mp1 = s.mp1

section
variable {s t : State} {w : WBIdx} {n : NodeId} {b : Block}

/-- The entries of the Transaction Table are no part of it. -/
theorem Strayed.of_modEntry {i : TTIdx} {f : TTEntry → TTEntry} (h : Strayed (s.modEntry i f) t w n b) : Strayed s t w n b :=
  ⟨h.wbEntry, h.queued.before rfl, h.record.before rfl, h.dir, h.mp0, h.mp1⟩

/-- A further record offered leaves it so. -/
theorem Strayed.offer (h : Strayed s t w n b) (r : CaptureRecord) : Strayed s (t.offer r) w n b := by
  have same := t.offer_same r
  refine ⟨?_, h.queued.mono ((Gentle.offer t r).outbound n), h.record.mono (Gentle.offer t r).record, same.dir.trans h.dir,
    same.mp0.trans h.mp0, same.mp1.trans h.mp1⟩
  rw [← h.wbEntry]
  exact congrArg (fun v : Vector (Option WBEntry) 8 => v[w]) same.wb

variable (s w n b)

/-- The state in which a stray WRITEBACK is captured: its entry is made and its DONE queued. -/
def State.strayAnswered : State := (s.setWB w (some ⟨n, b, none, false, .donePending⟩)).enqueue n (.wb w) (.done 0#8 b)

theorem State.strayWriteback_eq : s.strayWriteback w n b =
    (s.strayAnswered w n b).offer ⟨.strayWriteback, some n, some b, none, none, none, s.timeBase⟩ := rfl

theorem State.strayWriteback_strayed : Strayed s (s.strayWriteback w n b) w n b := by
  rw [s.strayWriteback_eq]
  have same := (s.strayAnswered w n b).offer_same ⟨.strayWriteback, some n, some b, none, none, none, s.timeBase⟩
  have queued : s.Queued (s.strayAnswered w n b) n ⟨.done 0#8 b, .wb w⟩ :=
    (State.enqueue_queued (s.setWB w (some ⟨n, b, none, false, .donePending⟩)) n (.wb w) (.done 0#8 b)).before rfl
  refine ⟨?_, queued.mono ((Gentle.offer _ _).outbound n), (State.offer_holds _ _).before rfl, same.dir, same.mp0, same.mp1⟩
  have made := (State.setWB_wbEntry s w w (some ⟨n, b, none, false, .donePending⟩)).trans (if_pos rfl)
  exact (congrArg (fun v : Vector (Option WBEntry) 8 => v[w]) same.wb).trans made

theorem State.strayWriteback_tt : (s.strayWriteback w n b).tt = s.tt := State.offer_tt _ _

/-- A stray WRITEBACK is captured in the slot NODE. -/
theorem State.strayWriteback_directory : (s.strayWriteback w n b).slot .directory = s.slot .directory := by
  rw [s.strayWriteback_eq]
  exact (State.offer_slot _ _ _).trans (if_neg nofun)

theorem State.strayWriteback_timeBase : (s.strayWriteback w n b).timeBase = s.timeBase := by
  rw [s.strayWriteback_eq]
  exact (State.offer_same _ _).timeBase

end

/-! ### WRITEBACK by the standing of its node (R104 to R106) -/

section
variable {s : State} {w : WBIdx} {n : NodeId} {b : Block} {d : BlockData}

theorem State.takeWriteback_owner (h : s.standing n b = .owner) : s.takeWriteback w n b d = s.ownerWriteback w n b d := by
  unfold State.takeWriteback
  rw [h]

theorem State.takeWriteback_stray (h : s.standing n b = .sharer ∨ s.standing n b = .notHolder) :
    s.takeWriteback w n b d = s.strayWriteback w n b := by
  unfold State.takeWriteback
  rcases h with h | h <;> rw [h]

theorem State.takeWriteback_repair (h : s.standing n b = .underRepair) :
    s.takeWriteback w n b d = s.repairWriteback w n b d := by
  unfold State.takeWriteback
  rw [h]

/-- R104: the state in which the Writeback Buffer entry of an owner's WRITEBACK is made: the holder is removed, and a member
that waits for the node has absorbed the beats. -/
theorem State.ownerWriteback_eq (s : State) (w : WBIdx) (n : NodeId) (b : Block) (d : BlockData) : ∃ t : State,
    s.ownerWriteback w n b d = t.makeWriteback w n b d ∧ t.dir = (s.removeHolder n b).dir ∧ t.regions = s.regions ∧
      t.mp0 = s.mp0 ∧ t.mp1 = s.mp1 ∧ (s.memberOf n b = none → t.tt = s.tt) ∧
      ∀ i r e m, s.memberOf n b = some (i, r, e, m) →
        (∀ j, j ≠ i → t.entry j = s.entry j) ∧ t.entry i = some (e.absorbed r n d) := by
  have removed := s.removeHolder_dirOnly n b
  have tt : (s.removeHolder n b).tt = s.tt := by rw [removed]
  have regions : (s.removeHolder n b).regions = s.regions := by rw [removed]
  have mp0 : (s.removeHolder n b).mp0 = s.mp0 := by rw [removed]
  have mp1 : (s.removeHolder n b).mp1 = s.mp1 := by rw [removed]
  unfold State.ownerWriteback
  cases h : s.memberOf n b with
  | none =>
    exact ⟨_, rfl, rfl, regions, mp0, mp1, fun _ => tt, fun i r e m hm => (by cases hm)⟩
  | some p =>
    obtain ⟨i, r, e, m⟩ := p
    have absorbs := fun j => (s.removeHolder n b).absorbWriteback_entry i r n d j
    refine ⟨(s.removeHolder n b).absorbWriteback i r n d, rfl, rfl, regions, mp0, mp1, fun hn => (by cases hn),
      fun j q f x hx => ?_⟩
    cases hx
    refine ⟨fun k hk => ?_, ?_⟩
    · rw [absorbs, if_neg hk, State.entry_congr tt]
    · rw [absorbs, if_pos rfl, State.entry_congr tt, State.memberOf_entry h, Option.map_some]

/-- R42, R106: the entry that repairs a block. -/
theorem State.repairer_of_claimant {i : TTIdx} {r : Role} {e : TTEntry} (hc : s.claimant b = some (i, r))
    (he : s.entry i = some e) : s.repairer b = some (i, r, e) := by
  unfold State.repairer
  rw [hc, Option.bind_some, he, Option.map_some]

section
variable {i : TTIdx} {r : Role} {e : TTEntry} (h : s.repairer b = some (i, r, e))
include h

/-- R106: the repair has its data. -/
theorem State.repairWriteback_late (hd : (e.bufferOf r).source ≠ none) :
    s.repairWriteback w n b d = s.lateWriteback w n b i r e := by
  unfold State.repairWriteback
  rw [h]
  exact if_pos (Option.isSome_iff_ne_none.mpr hd)

/-- R52: the repair has no data, and waits for the node. -/
theorem State.repairWriteback_absorbs (hd : (e.bufferOf r).source = none) (hm : e.openMember r n ≠ none) :
    s.repairWriteback w n b d = (s.absorbWriteback i r n d).makeWriteback w n b d := by
  unfold State.repairWriteback
  rw [h]
  simp only [hd, Option.isSome_none, Bool.false_eq_true, if_false, Option.isSome_iff_ne_none.mpr hm, if_true]

/-- R106: the repair has no data, and does not wait for the node. -/
theorem State.repairWriteback_stray (hd : (e.bufferOf r).source = none) (hm : e.openMember r n = none) :
    s.repairWriteback w n b d = s.strayWriteback w n b := by
  unfold State.repairWriteback
  rw [h]
  simp only [hd, hm, Option.isSome_none, Bool.false_eq_true, if_false]

end

/-- R52, R106: a WRITEBACK that comes after the repair has its data. -/
theorem State.lateWriteback_spec {i : TTIdx} {r : Role} {e : TTEntry} (he : s.entry i = some e) :
    Strayed s (s.lateWriteback w n b i r e) w n b ∧
      (s.lateWriteback w n b i r e).entry i = some (e.marked r n .absorbedWb) ∧
      ((∃ m ∈ e.recallsOf r, m.node = n) → s.HoldsRecord (s.lateWriteback w n b i r e)
        ⟨.multipleData, some n, some b, none, some i, none, s.timeBase⟩) ∧
      ((∀ m ∈ e.recallsOf r, m.node ≠ n) → (s.lateWriteback w n b i r e).slot .directory = s.slot .directory) := by
  have strayed := (s.markMember i r n .absorbedWb).strayWriteback_strayed w n b
  have directory := (s.markMember i r n .absorbedWb).strayWriteback_directory w n b
  have time := (s.markMember i r n .absorbedWb).strayWriteback_timeBase w n b
  have entry : ((s.markMember i r n .absorbedWb).strayWriteback w n b).entry i = some (e.marked r n .absorbedWb) := by
    rw [State.entry_congr (State.strayWriteback_tt _ w n b), State.markMember_entry, if_pos rfl, he, Option.map_some]
  have member : ((e.recallsOf r).any fun m => m.node == n) = true ↔ ∃ m ∈ e.recallsOf r, m.node = n := by simp
  unfold State.lateWriteback
  dsimp only
  by_cases hm : ∃ m ∈ e.recallsOf r, m.node = n
  · rw [if_pos (member.mpr hm)]
    unfold State.multipleData
    refine ⟨(strayed.offer _).of_modEntry, ?_, fun _ => ?_, fun no => ?_⟩
    · rw [State.entry_congr (State.offer_tt _ _), entry]
    · have held := State.offer_holds ((s.markMember i r n .absorbedWb).strayWriteback w n b)
        ⟨.multipleData, some n, some b, none, some i, none, s.timeBase⟩
      unfold State.stamped
      rw [time]
      exact held.before (congrArg _ directory.symm)
    · obtain ⟨m, hm, hn⟩ := hm
      exact absurd hn (no m hm)
  · rw [if_neg fun k => hm (member.mp k)]
    exact ⟨strayed.of_modEntry, entry, fun k => absurd k hm, fun _ => directory⟩

end

/-- Settles O28: the owner's WRITEBACK by the state in which its entry is made, the stray one by `Strayed`, and the one on a
block under repair by its three courses. -/
theorem writebacks : Obligations.Writebacks := by
  refine ⟨fun s w n b d l v x hc hs hl hv => ?_, fun s w n b d hs => ?_, ?_⟩
  · obtain ⟨u, y, hf, good, owned⟩ := State.standing_owner hs
    have removed := State.removeHolder_last (n := n) hf good (.inl owned)
    obtain ⟨t, writeback, dir, regions, mp0, mp1, unclaimed, fed⟩ := s.ownerWriteback_eq w n b d
    have made := State.makeWriteback_made ((State.locate_congr regions b).trans hl) w n d
    have dir' : (s.takeWriteback w n b d).dir = (s.removeHolder n b).dir := by
      rw [State.takeWriteback_owner hs, writeback, made.dir, dir]
    have removes : s.Removes (s.takeWriteback w n b d) b :=
      (s.removeEntry_removes b hc).congr (dir'.trans (congrArg State.dir removed))
    obtain ⟨issued, newest, -⟩ := made.places.congr (fun p => (State.mp_congr mp0 mp1 p).symm) fun _ => rfl
    refine ⟨?_, removes.1, dir', removes, ?_⟩
    · rw [removes.2.2 v x hv]
      exact (DirSet.way_setWay (s.dirSet (setOf b)) v v _).trans (if_pos rfl)
    · rw [State.takeWriteback_owner hs, writeback]
      refine ⟨made.wbEntry, issued, newest, fun hn i => ?_, fun i r e m hm => ?_⟩
      · exact State.entry_congr (made.tt.trans (unclaimed hn)) i
      · obtain ⟨others, absorbs⟩ := fed i r e m hm
        exact ⟨fun j hj => (State.entry_congr made.tt j).trans (others j hj), (State.entry_congr made.tt i).trans absorbs⟩
  · rw [State.takeWriteback_stray hs]
    have strayed := s.strayWriteback_strayed w n b
    exact ⟨strayed.wbEntry, strayed.queued, strayed.record, strayed.dir, s.strayWriteback_tt w n b, strayed.mp0, strayed.mp1⟩
  · rintro s t w n b d i r e hs hc he rfl
    rw [State.takeWriteback_repair hs]
    have repairer := State.repairer_of_claimant hc he
    by_cases hd : (e.bufferOf r).source = none
    · by_cases hm : e.openMember r n = none
      · have strayed := s.strayWriteback_strayed w n b
        have entry : (s.strayWriteback w n b).entry i = some (e.marked r n .absorbedWb) := by
          rw [State.entry_congr (s.strayWriteback_tt w n b), he, TTEntry.marked_of_unopened hm]
        rw [State.repairWriteback_stray repairer hd hm]
        exact ⟨strayed.dir, fun m l _ hn => absurd (hm.symm.trans hn) nofun,
          fun _ => ⟨strayed.wbEntry, strayed.queued, strayed.record, strayed.mp0, strayed.mp1, entry⟩, fun h => absurd hd h,
          fun _ => s.strayWriteback_directory w n b⟩
      · obtain ⟨dir, slots⟩ := (s.absorbWriteback i r n d).makeWriteback_beside w n b d
        rw [State.repairWriteback_absorbs repairer hd hm]
        refine ⟨dir, fun m l _ _ hl => ?_, fun h => (h.elim (absurd hd) (absurd · hm)), fun h => absurd hd h,
          fun _ => State.slot_congr slots _⟩
        have made := State.makeWriteback_made (s := s.absorbWriteback i r n d) hl w n d
        refine ⟨?_, made.wbEntry, made.places.congr (State.mp_congr rfl rfl) fun _ => rfl, slots, made.ports⟩
        rw [State.entry_congr made.tt, State.absorbWriteback_entry, if_pos rfl, he]
        rfl
    · obtain ⟨strayed, entry, member, other⟩ := State.lateWriteback_spec (w := w) (n := n) (b := b) (r := r) he
      rw [State.repairWriteback_late repairer hd]
      exact ⟨strayed.dir, fun m l hn => absurd hn hd,
        fun _ => ⟨strayed.wbEntry, strayed.queued, strayed.record, strayed.mp0, strayed.mp1, entry⟩, fun _ => member,
        fun h => other (h.resolve_left hd)⟩

end Sys2Proof.Machine
end

section
/-! EVICT_CLEAN and RECALL_ACK (chapter 6, sections 6.3 and 6.4; R52, R107 to R113). -/

namespace Sys2Proof.Machine

/-! ### EVICT_CLEAN (R107) -/

section
variable (s : State) (n : NodeId) (b : Block)

/-- R107: an absorbed EVICT_CLEAN marks the claimant's member, and writes nothing but the Transaction Table. -/
theorem State.absorbEvict_ttOnly : s.absorbEvict n b = { s with tt := (s.absorbEvict n b).tt } := by
  unfold State.absorbEvict
  split <;> rfl

theorem State.absorbEvict_none (h : s.memberOf n b = none) : s.absorbEvict n b = s := by
  unfold State.absorbEvict
  rw [h]

theorem State.absorbEvict_entry {i : TTIdx} {r : Role} {e : TTEntry} {m : Member} (h : s.memberOf n b = some (i, r, e, m)) :
    (s.absorbEvict n b).entry i = some (e.marked r n .absorbedEvict) := by
  unfold State.absorbEvict
  rw [h]
  exact (s.markMember_entry i r n .absorbedEvict i).trans (by rw [if_pos rfl, State.memberOf_entry h, Option.map_some])

/-- R107: the state in which the member that waits for the node is marked: its standing as a holder is removed. -/
def State.evictFrom : State := if s.standing n b = .underRepair then s else s.removeHolder n b

theorem State.evictFrom_dirOnly : s.evictFrom n b = { s with dir := (s.evictFrom n b).dir } := by
  unfold State.evictFrom
  split
  · rfl
  · exact s.removeHolder_dirOnly n b

theorem State.takeEvict_ignored (h : s.standing n b = .notHolder) : s.takeEvict n b = s := by
  unfold State.takeEvict
  rw [h]

theorem State.takeEvict_absorbs (h : s.standing n b ≠ .notHolder) : s.takeEvict n b = (s.evictFrom n b).absorbEvict n b := by
  unfold State.takeEvict State.evictFrom
  cases hs : s.standing n b with
  | owner => rfl
  | sharer => rfl
  | notHolder => exact absurd hs h
  | underRepair => rfl

theorem State.takeEvict_dir (h : s.standing n b ≠ .notHolder) : (s.takeEvict n b).dir = (s.evictFrom n b).dir := by
  rw [s.takeEvict_absorbs n b h, State.absorbEvict_ttOnly]

theorem State.evictFrom_tt : (s.evictFrom n b).tt = s.tt := by rw [State.evictFrom_dirOnly]

/-- R107: an EVICT_CLEAN concerns the Directory and the Transaction Table. -/
theorem State.takeEvict_beside : (s.takeEvict n b).ports = s.ports ∧ (s.takeEvict n b).nodes = s.nodes ∧
    (s.takeEvict n b).slots = s.slots ∧ (s.takeEvict n b).wb = s.wb ∧ (s.takeEvict n b).mp0 = s.mp0 ∧
    (s.takeEvict n b).mp1 = s.mp1 := by
  by_cases h : s.standing n b = .notHolder
  · rw [s.takeEvict_ignored n b h]
    exact ⟨rfl, rfl, rfl, rfl, rfl, rfl⟩
  · rw [s.takeEvict_absorbs n b h, State.absorbEvict_ttOnly, State.evictFrom_dirOnly]
    exact ⟨rfl, rfl, rfl, rfl, rfl, rfl⟩

end

/-! ### RECALL_ACK (R52, R108 to R113) -/

/-- R108: an acknowledgement that matches no member whose RECALL has departed. -/
theorem State.takeAck_unexpected {s : State} {n : NodeId} {b : Block}
    (h : s.memberOf n b = none ∨ ∃ i r e m, s.memberOf n b = some (i, r, e, m) ∧ m.sent ≠ .departed) (a : AckResult) :
    s.takeAck n b a = s.offer ⟨.unexpectedAck, some n, some b, none, none, none, s.timeBase⟩ := by
  unfold State.takeAck
  rcases h with h | ⟨i, r, e, m, h, hd⟩
  · rw [h]
    rfl
  · rw [h]
    exact if_pos hd

section
variable {s : State} {n : NodeId} {b : Block} {i : TTIdx} {r : Role} {e : TTEntry} {m : Member}
  (h : s.memberOf n b = some (i, r, e, m)) (hd : m.sent = .departed)
include h hd

/-- R108: an acknowledgement that matches, by the member's status, its recall set and the recorded owner. -/
theorem State.takeAck_matched (a : AckResult) : s.takeAck n b a =
    if m.status ≠ .awaiting then s.ackAbsorbed i r n b a else if e.repairs r = true then s.ackRepair i r e n b a
    else if e.ownerOf r = some n then s.ackOwner i r n b a else s.ackSharer i r n b a := by
  unfold State.takeAck
  rw [h]
  exact if_neg (not_not.mpr hd)

theorem State.takeAck_absorbed (hs : m.status ≠ .awaiting) (a : AckResult) : s.takeAck n b a = s.ackAbsorbed i r n b a :=
  (State.takeAck_matched h hd a).trans (if_pos hs)

theorem State.takeAck_repair (hs : m.status = .awaiting) (hr : e.repairs r = true) (a : AckResult) :
    s.takeAck n b a = s.ackRepair i r e n b a := by
  rw [State.takeAck_matched h hd, if_neg (not_not.mpr hs), if_pos hr]

theorem State.takeAck_owner (hs : m.status = .awaiting) (hr : e.repairs r = false) (ho : e.ownerOf r = some n) (a : AckResult) :
    s.takeAck n b a = s.ackOwner i r n b a := by
  rw [State.takeAck_matched h hd, if_neg (not_not.mpr hs), hr, if_neg Bool.false_ne_true, if_pos ho]

theorem State.takeAck_sharer (hs : m.status = .awaiting) (hr : e.repairs r = false) (ho : e.ownerOf r ≠ some n) (a : AckResult) :
    s.takeAck n b a = s.ackSharer i r n b a := by
  rw [State.takeAck_matched h hd, if_neg (not_not.mpr hs), hr, if_neg Bool.false_ne_true, if_neg ho]

end

section
variable {s : State} {i : TTIdx} {e : TTEntry} (he : s.entry i = some e) (r : Role) (n : NodeId) (x : Resolution)
include he

theorem State.resolveBy_entry : (s.resolveBy i r n x).entry i = some (e.resolveMember r n x) := by
  unfold State.resolveBy
  rw [State.modEntry_entry, if_pos rfl, he, Option.map_some]

theorem State.resolveWith_entry (d : BlockData) :
    (s.resolveWith i r n x d).entry i = some ((e.resolveMember r n x).setBuffer r (.full d .node)) := by
  unfold State.resolveWith
  rw [State.modEntry_entry, if_pos rfl, he, Option.map_some]

end

/-- An entry after the offer of a record. -/
theorem State.offer_entry (s : State) (x : CaptureRecord) (i : TTIdx) : (s.offer x).entry i = s.entry i :=
  State.entry_congr (State.offer_tt _ _) i

section
variable {s : State} {i : TTIdx} {e : TTEntry} (he : s.entry i = some e) (r : Role) (n : NodeId) (b : Block)
include he

/-- R111: an acknowledgement behind an absorbed return resolves its member ABSENT; one with data is captured. -/
theorem State.ackAbsorbed_spec (d : BlockData) :
    (∀ a, (s.ackAbsorbed i r n b a).entry i = some (e.resolveMember r n .absent)) ∧
      s.HoldsRecord (s.ackAbsorbed i r n b (.data d)) ⟨.ackMismatch, some n, some b, none, some i, none, s.timeBase⟩ ∧
      (s.ackAbsorbed i r n b .clean).slots = s.slots ∧ (s.ackAbsorbed i r n b .absent).slots = s.slots := by
  refine ⟨fun a => ?_, (State.offer_holds (s.resolveBy i r n .absent) _).before rfl, rfl, rfl⟩
  cases a with
  | data d => exact (State.offer_entry _ _ i).trans (State.resolveBy_entry he r n .absent)
  | clean => exact State.resolveBy_entry he r n .absent
  | absent => exact State.resolveBy_entry he r n .absent

/-- R109: an acknowledgement of the recorded owner. -/
theorem State.ackOwner_spec (d : BlockData) :
    (s.ackOwner i r n b (.data d)).entry i = some ((e.resolveMember r n .data).setBuffer r (.full d .node)) ∧
      (s.ackOwner i r n b .clean).entry i = some (e.resolveMember r n .clean) ∧
      (s.ackOwner i r n b .absent).entry i = some ((e.resolveMember r n .ownerLost).setBuffer r (.full .ownerLost .node)) ∧
      s.HoldsRecord (s.ackOwner i r n b .absent) ⟨.absentOwner, some n, some b, none, some i, none, s.timeBase⟩ :=
  ⟨State.resolveWith_entry he r n .data d, State.resolveBy_entry he r n .clean,
    (State.offer_entry _ _ i).trans (State.resolveWith_entry he r n .ownerLost .ownerLost),
    (State.offer_holds (s.resolveWith i r n .ownerLost .ownerLost) _).before rfl⟩

/-- R110: an acknowledgement of a sharer; one with data is captured. -/
theorem State.ackSharer_spec (d : BlockData) :
    (s.ackSharer i r n b (.data d)).entry i = some (e.resolveMember r n .clean) ∧
      s.HoldsRecord (s.ackSharer i r n b (.data d)) ⟨.ackMismatch, some n, some b, none, some i, none, s.timeBase⟩ ∧
      (s.ackSharer i r n b .clean).entry i = some (e.resolveMember r n .clean) ∧
      (s.ackSharer i r n b .absent).entry i = some (e.resolveMember r n .absent) :=
  ⟨(State.offer_entry _ _ i).trans (State.resolveBy_entry he r n .clean),
    (State.offer_holds (s.resolveBy i r n .clean) _).before rfl, State.resolveBy_entry he r n .clean,
    State.resolveBy_entry he r n .absent⟩

/-- R52, R112: an acknowledgement of a member of a repair; a second data is captured. -/
theorem State.ackRepair_spec (d : BlockData) :
    ((e.bufferOf r).source = none →
      (s.ackRepair i r e n b (.data d)).entry i = some ((e.resolveMember r n .data).setBuffer r (.full d .node))) ∧
    ((e.bufferOf r).source ≠ none →
      (s.ackRepair i r e n b (.data d)).entry i = some (e.resolveMember r n .data) ∧
      s.HoldsRecord (s.ackRepair i r e n b (.data d)) ⟨.multipleData, some n, some b, none, some i, none, s.timeBase⟩) ∧
    (s.ackRepair i r e n b .clean).entry i = some (e.resolveMember r n .clean) ∧
    (s.ackRepair i r e n b .absent).entry i = some (e.resolveMember r n .absent) := by
  refine ⟨fun hs => ?_, fun hs => ?_, State.resolveBy_entry he r n .clean, State.resolveBy_entry he r n .absent⟩
  · have first : s.ackRepair i r e n b (.data d) = s.resolveWith i r n .data d := if_pos (by rw [hs]; rfl)
    rw [first]
    exact State.resolveWith_entry he r n .data d
  · have second : s.ackRepair i r e n b (.data d) = (s.resolveBy i r n .data).multipleData i n b := if_neg (by simpa using hs)
    rw [second]
    exact ⟨(State.offer_entry _ _ i).trans (State.resolveBy_entry he r n .data),
      (State.offer_holds (s.resolveBy i r n .data) _).before rfl⟩

end

/-- R113: the changed-state mark is set in a primary recall set that is no repair's. -/
theorem TTEntry.resolveMember_changed (e : TTEntry) (r : Role) (n : NodeId) (x : Resolution) :
    (e.resolveMember r n x).changed = (e.changed || decide (r = .primary ∧ e.repairs r = false)) := by
  rw [Bool.eq_iff_iff, (e.resolveMember_marks r n x).1, Bool.or_eq_true, decide_eq_true_iff]

/-- The buffer of a block that the entry works on is replaced. -/
theorem TTEntry.setBuffer_bufferOf_of_block {e : TTEntry} {r : Role} (h : r = .primary ∨ e.victim ≠ none) (b : DataBuffer) :
    (e.setBuffer r b).bufferOf r = b := by
  cases r with
  | primary => rfl
  | victim =>
    obtain ⟨v, hv⟩ := Option.ne_none_iff_exists'.mp (h.resolve_left nofun)
    simp [TTEntry.setBuffer, TTEntry.bufferOf, hv]

/-- Settles O29: an EVICT_CLEAN by the standing of its node, an acknowledgement by its course, and the members by what is no
part of their change. -/
theorem evictCleansAndAcknowledgements : Obligations.EvictCleansAndAcknowledgements := by
  refine ⟨fun s n b => ⟨s.takeEvict_ignored n b, fun h => ?_, fun h => ?_, fun h hm i => ?_, fun h i r e m hm => ?_,
      s.takeEvict_beside n b⟩,
    fun s n b a h => State.takeAck_unexpected h a, fun s n b i r e m d h hd => ⟨fun hs => ?_, fun hs hr ho => ?_,
      fun hs hr ho => ?_, fun hs hr => ?_⟩,
    fun e r n x => ⟨e.resolveMember_recallsOf r n x, e.resolveMember_bufferOf r r n x, (e.resolveMember_marks r n x).2,
      e.resolveMember_changed r n x⟩,
    fun e r n f b => ⟨e.modMember_recallsOf r n f, e.modMember_bufferOf r r n f, e.setBuffer_recallsOf r r b,
      fun h => TTEntry.setBuffer_bufferOf_of_block h b⟩⟩
  · have holder : s.standing n b ≠ .notHolder ∧ s.standing n b ≠ .underRepair := by rcases h with h | h <;> simp [h]
    rw [s.takeEvict_dir n b holder.1]
    exact congrArg State.dir (if_neg holder.2)
  · rw [s.takeEvict_dir n b (by rw [h]; exact nofun)]
    exact congrArg State.dir (if_pos h)
  · have waits : (s.evictFrom n b).memberOf n b = none := (State.memberOf_congr (s.evictFrom_tt n b) n b).trans hm
    rw [s.takeEvict_absorbs n b h, State.absorbEvict_none _ n b waits, State.entry_congr (s.evictFrom_tt n b)]
  · have waits := (State.memberOf_congr (s.evictFrom_tt n b) n b).trans hm
    rw [s.takeEvict_absorbs n b h]
    exact State.absorbEvict_entry _ n b waits
  · simp only [State.takeAck_absorbed h hd hs]
    exact State.ackAbsorbed_spec (State.memberOf_entry h) r n b d
  · simp only [State.takeAck_owner h hd hs hr ho]
    exact State.ackOwner_spec (State.memberOf_entry h) r n b d
  · simp only [State.takeAck_sharer h hd hs hr ho]
    exact State.ackSharer_spec (State.memberOf_entry h) r n b d
  · simp only [State.takeAck_repair h hd hs hr]
    exact State.ackRepair_spec (State.memberOf_entry h) r n b d

end Sys2Proof.Machine
end

section
/-! The beginning of an entry: how it is filled, its lookup, and the first phase of its flow (chapter 4, section 4.2; chapter 5;
R45, R48, R57, R61, R78, R82, R85 to R93, R99). -/

namespace Sys2Proof.Machine

/-! ### The Region Map (R23, R25) -/

theorem State.locate_iff (s : State) (b : Block) (l : Loc) : s.locate b = some l ↔ ∃ x, s.mapLookup b = .region l x := by
  unfold State.locate
  cases s.mapLookup b <;> simp

theorem State.tracked_iff (s : State) (b : Block) :
    s.tracked b = true ↔ ∃ l, s.mapLookup b = .region l .coherent ∨ s.mapLookup b = .region l .closing := by
  unfold State.tracked
  cases s.mapLookup b with
  | region l st => cases st <;> simp
  | closedRegion r => simp
  | noRegion => simp

/-! ### Situations and needs (R78, R84 to R93) -/

section
variable {e : TTEntry}

theorem TTEntry.situation_shared {w : WayIdx} {d : DirEntry} {hs : NodeSet} (h : e.lookup = some (.held w d))
    (hf : d.failed = false) (hr : d.rights = .shared hs) : e.situation = .shared hs := by
  unfold TTEntry.situation
  simp only [h, hf, hr, Bool.false_eq_true, if_false]

theorem TTEntry.situation_owned {w : WayIdx} {d : DirEntry} {o : NodeId} (h : e.lookup = some (.held w d))
    (hf : d.failed = false) (hr : d.rights = .owned o) : e.situation = .owned o := by
  unfold TTEntry.situation
  simp only [h, hf, hr, Bool.false_eq_true, if_false]

/-- R50, R54: the flow behind a repair finds its block not held. -/
theorem TTEntry.situation_failed {w : WayIdx} {d : DirEntry} (h : e.lookup = some (.held w d)) (hf : d.failed = true) :
    e.situation = .notHeld := by
  unfold TTEntry.situation
  simp only [h, hf, if_true]

theorem TTEntry.situation_setBusy (h : e.lookup = some .setBusy) : e.situation = .setBusy := by
  unfold TTEntry.situation
  rw [h]

theorem TTEntry.situation_notHeld (h : e.lookup = none ∨ e.lookup = some .notHeld ∨ ∃ w, e.lookup = some (.reservedNew w)) :
    e.situation = .notHeld := by
  unfold TTEntry.situation
  rcases h with h | h | ⟨w, h⟩ <;> rw [h]

theorem TTEntry.situation_victim {w : WayIdx} {d : DirEntry} (h : e.lookup = some (.victim w d)) : e.situation = .notHeld := by
  unfold TTEntry.situation
  rw [h]

/-- R85 to R93: a block that is not held, or a set without a way, calls for no recall. -/
theorem TTEntry.planned_of_unheld (h : e.situation = .notHeld ∨ e.situation = .setBusy) : e.planned = [] := by
  unfold TTEntry.planned
  rcases h with h | h <;>
    (rw [h]
     cases e.kind with
     | req k => cases k <;> rfl
     | reclaim => rfl
     | poison => rfl)

/-- R87: a conflict is one of a FETCH_S or FETCH_X with the owner that its lookup recorded. -/
theorem TTEntry.conflicts_owned (h : e.conflicts = true) :
    (e.kind = .req .fetchS ∨ e.kind = .req .fetchX) ∧ ∃ o, e.situation = .owned o := by
  unfold TTEntry.conflicts at h
  simp only [Bool.and_eq_true, Bool.or_eq_true, beq_iff_eq] at h
  obtain ⟨kind, owned⟩ := h
  refine ⟨kind, ?_⟩
  split at owned
  · next o hs => exact ⟨o, hs⟩
  · cases owned

theorem TTEntry.conflicts_false (h : ∀ o, e.situation ≠ .owned o) : ¬e.conflicts = true := fun hc => by
  obtain ⟨-, o, ho⟩ := TTEntry.conflicts_owned hc
  exact h o ho

/-- R84 to R93: the flows that need the block's data are these. -/
theorem TTEntry.needsData_iff : e.needsData = true ↔ e.kind = .req .fetchS ∨ e.kind = .req .fetchX ∨
    e.kind = .req .upgrade ∧ e.grantsUp = false ∨ e.kind = .req .readOnce ∨
    e.kind = .req .writeThru ∧ ∀ w, e.write = some w → w.mask ≠ BitVec.allOnes 64 := by
  refine ⟨fun h => by_contra fun no => ?_, TTEntry.needsData_of_kind⟩
  simp only [not_or, not_and, Bool.not_eq_false, not_forall, not_not, exists_prop] at no
  obtain ⟨notS, notX, up, notOnce, full⟩ := no
  have needless : e.needsData = false := TTEntry.needsData_false <| by
    cases hk : e.kind with
    | reclaim => exact .inl rfl
    | poison => exact .inr (.inl rfl)
    | req k => cases k with
      | fetchS => exact absurd hk notS
      | fetchX => exact absurd hk notX
      | readOnce => exact absurd hk notOnce
      | upgrade => exact .inr (.inr (.inl ⟨rfl, up hk⟩))
      | writeThru => exact .inr (.inr (.inr ⟨rfl, full hk⟩))
  exact Bool.false_ne_true (needless.symm.trans h)

/-- R88, R93: the read that is issued at the start. -/
theorem TTEntry.readsAtStart_iff : e.readsAtStart = true ↔
    e.needsData = true ∧ (e.situation = .notHeld ∨ ∃ hs, e.situation = .shared hs) := by
  unfold TTEntry.readsAtStart
  rw [Bool.and_eq_true]
  refine and_congr_right fun _ => ?_
  cases e.situation <;> simp

end

/-! ### The first phase of a flow (R48, R78, R82, R87) -/

/-- R61: an entry that turns to its primary block. -/
def TTEntry.turned (e : TTEntry) : TTEntry := { e with recalls := [], buffer := .empty, opened := false }

section
variable {s : State} {i : TTIdx} {e : TTEntry} (he : s.entry i = some e)
include he

theorem State.beginFlow_eq : s.beginFlow i = (s.setEntry i (some e.turned)).enterFlow i e := by
  unfold State.beginFlow
  rw [he]
  dsimp only
  rw [State.modEntry_of_entry he]
  rfl

/-- R48: the FAULT SET_BUSY is decided. -/
theorem State.beginFlow_setBusy (h : e.situation = .setBusy) :
    s.beginFlow i = s.setEntry i (some { e.turned with phase := .responding, verdict := some .setBusy }) := by
  rw [State.beginFlow_eq he]
  unfold State.enterFlow
  rw [if_pos h, State.setEntry_modEntry]

/-- R87: the FAULT OWNER_CONFLICT is decided. -/
theorem State.beginFlow_conflicts (h : e.conflicts = true) : s.beginFlow i =
    s.setEntry i (some { e.turned with phase := .responding, verdict := some .ownerConflict, changed := true }) := by
  obtain ⟨-, o, owned⟩ := TTEntry.conflicts_owned h
  rw [State.beginFlow_eq he]
  unfold State.enterFlow
  rw [if_neg (by rw [owned]; exact nofun), if_pos h, State.setEntry_modEntry]

section
variable (hb : e.situation ≠ .setBusy) (hc : ¬e.conflicts = true)
include hb hc

/-- R78: a flow without recalls reads memory, or has its data complete. -/
theorem State.beginFlow_unplanned (hp : e.planned = []) : s.beginFlow i =
    if e.readsAtStart = true then (s.setEntry i (some e.turned)).beginRead i else (s.setEntry i (some e.turned)).complete i := by
  rw [State.beginFlow_eq he]
  unfold State.enterFlow
  rw [if_neg hb, if_neg hc, if_pos hp]

/-- R78: a flow with recalls sends them in RECALLING. -/
theorem State.beginFlow_recalls (hp : e.planned ≠ []) : s.beginFlow i =
    ((s.setEntry i (some { e.turned with phase := .recalling })).formRecalls i .primary e.block e.planned).readBeside i e := by
  rw [State.beginFlow_eq he]
  unfold State.enterFlow
  rw [if_neg hb, if_neg hc, if_neg hp, State.setEntry_modEntry]

/-- R82: the read of a flow without recalls. -/
theorem State.beginFlow_reads {l : Loc} (hp : e.planned = []) (hr : e.readsAtStart = true) (hl : e.loc = some l) :
    s.beginFlow i = (s.setEntry i (some { e.turned with phase := .reading })).placeRead i l.port l.addr false := by
  have place : e.turned.loc = some l := hl
  rw [State.beginFlow_unplanned he hb hc hp, if_pos hr, State.beginRead_eq (State.setEntry_self _ _ _) place,
    State.setEntry_setEntry]

end
end

/-! ### The place of an entry's block through its recalls (R63, R65) -/

theorem TTEntry.onRecall_loc (e : TTEntry) (m : Msg) (n : NodeId) (f : Member → Member) : (e.onRecall m n f).loc = e.loc := by
  have members : ∀ r, (e.modMember r n f).loc = e.loc := fun r => by cases r <;> rfl
  unfold TTEntry.onRecall
  repeat' split
  · exact members _
  · rfl
  · rfl

theorem TTEntry.resolvedAtFence_loc (e : TTEntry) (r : Role) (n : NodeId) : (e.resolvedAtFence r n).loc = e.loc := by
  have frame := e.resolvedAtFence_frame r n
  simp only [TTEntry.frame, Prod.mk.injEq] at frame
  obtain ⟨-, -, -, -, loc, -⟩ := frame
  exact loc

section
variable (s : State) (i : TTIdx)

theorem State.sendTT_loc (n : NodeId) (m : Msg) : ((s.sendTT i n m).entry i).map TTEntry.loc = (s.entry i).map TTEntry.loc := by
  unfold State.sendTT
  split
  · rw [State.modEntry_entry, if_pos rfl, Option.map_map]
    rfl
  · have entry : (s.queueTT i n m).entry i = (s.entry i).map fun e => e.onRecall m n fun x => { x with sent := .queued } := by
      unfold State.entry
      rw [State.queueTT_ttSlot, if_pos rfl]
    rw [entry, Option.map_map]
    exact congrArg (fun f => (s.entry i).map f) (funext fun e => e.onRecall_loc m n _)

theorem State.sendRecall_loc (r : Role) (b : Block) (m : NodeId × RecallKind) :
    ((s.sendRecall i r b m).entry i).map TTEntry.loc = (s.entry i).map TTEntry.loc := by
  unfold State.sendRecall
  split
  · rw [State.resolveAtFence_entry, if_pos rfl, Option.map_map]
    exact congrArg (fun f => (s.entry i).map f) (funext fun e => e.resolvedAtFence_loc r m.1)
  · exact s.sendTT_loc i m.1 _

theorem State.formRecalls_loc (r : Role) (b : Block) (ms : List (NodeId × RecallKind)) :
    ((s.formRecalls i r b ms).entry i).map TTEntry.loc = (s.entry i).map TTEntry.loc := by
  have sent : ∀ (l : List (NodeId × RecallKind)) (t : State),
      ((l.foldl (fun u m => u.sendRecall i r b m) t).entry i).map TTEntry.loc = (t.entry i).map TTEntry.loc := fun l => by
    induction l with
    | nil => exact fun _ => rfl
    | cons m l ih => exact fun t => (ih _).trans (t.sendRecall_loc i r b m)
  unfold State.formRecalls
  rw [sent, State.modEntry_entry, if_pos rfl, Option.map_map]
  refine congrArg (fun f => (s.entry i).map f) (funext fun e => ?_)
  cases r <;> rfl

/-- R63: the read of an entry whose place is known. -/
theorem State.readTT_placed {l : Loc} (h : (s.entry i).map TTEntry.loc = some (some l)) :
    s.readTT i = s.placeRead i l.port l.addr false := by
  obtain ⟨e, he, hl⟩ := Option.map_eq_some_iff.mp h
  unfold State.readTT
  rw [he]
  simp only [Option.bind_some, hl]

end

/-! ### The start of an entry (R45, R61) -/

section
variable {s : State} {i : TTIdx} {e : TTEntry}

theorem State.lookup_tt (s : State) (i : TTIdx) (b : Block) (new : Bool) : (s.lookup i b new).2.tt = s.tt := by
  have check : s.takeCheck.2.tt = s.tt := by
    unfold State.takeCheck
    split <;> rfl
  have read : ∀ k w e, (s.readHeld k w e).2.tt = s.tt := fun k w e => by
    cases h : s.now.checks.headD false with
    | false => rw [s.readHeld_passes k w e h, check]
    | true => rw [s.readHeld_fails k w e h]; exact check
  unfold State.lookup
  dsimp only
  repeat' split
  · exact read _ _ _
  · rfl
  · rfl
  · rfl
  · exact read _ _ _

/-- R61: an UNTRACKED block is not looked up. -/
theorem State.startEntry_untracked (h : s.tracked e.block = false) :
    s.startEntry i e = (s.setEntry i (some e)).beginFlow i := by
  have untracked : ¬(s.setEntry i (some e)).tracked e.block = true := fun k => Bool.false_ne_true (h.symm.trans k)
  exact if_neg untracked

/-- R61: the first phase of an entry by the result of its lookup. -/
theorem State.startEntry_tracked {r : LookupResult} {t : State} (h : s.tracked e.block = true)
    (hl : (s.setEntry i (some e)).lookup i e.block e.kind.keepsWay = (r, t)) :
    s.startEntry i e = (t.setEntry i (some { e with lookup := some r })).afterLookup i e.block r := by
  have tracked : (s.setEntry i (some e)).tracked e.block = true := h
  have entry : t.entry i = some e := by
    have tt := (s.setEntry i (some e)).lookup_tt i e.block e.kind.keepsWay
    rw [hl] at tt
    exact (State.entry_congr tt i).trans (State.setEntry_self _ _ _)
  unfold State.startEntry State.beginEntry
  rw [if_pos tracked, hl]
  dsimp only
  rw [State.modEntry_of_entry entry]

end

/-- Settles O41: the filling and the lookup by their equations, the first phase by the situation and the plan of the flow. -/
theorem entriesBegin : Obligations.EntriesBegin := by
  refine ⟨fun _ _ _ _ _ _ => rfl, fun _ _ _ => rfl, fun _ _ _ _ => rfl, fun s b => ⟨s.tracked_iff b, s.locate_iff b⟩,
    fun s i e => ⟨State.startEntry_untracked, fun new r t ht hn hl => ?_⟩, fun _ _ _ => ⟨fun _ => rfl, rfl, rfl⟩,
    fun e => ⟨fun _ _ _ => TTEntry.situation_shared, fun _ _ _ => TTEntry.situation_owned, TTEntry.situation_setBusy,
      TTEntry.situation_notHeld⟩, ?_⟩
  · have keeps : new = e.kind.keepsWay := Bool.eq_iff_iff.mpr (hn.trans (TTKind.keepsWay_iff _).symm)
    exact State.startEntry_tracked ht (keeps ▸ hl)
  · rintro s i e f needs he rfl hneeds
    have needs_iff : needs ↔ e.needsData = true := hneeds.trans TTEntry.needsData_iff.symm
    refine ⟨State.beginFlow_setBusy he, State.beginFlow_conflicts he, fun l hn hl hp hs => ?_, fun hn hp hs => ?_,
      fun l hs hn hl hp hsh => ?_, fun hp hc h => ?_⟩
    · have unbusy : e.situation ≠ .setBusy := by rcases hs with hs | ⟨x, hs⟩ <;> rw [hs] <;> exact nofun
      have unowned : ∀ o, e.situation ≠ .owned o := fun o => by rcases hs with hs | ⟨x, hs⟩ <;> rw [hs] <;> exact nofun
      exact State.beginFlow_reads he unbusy (TTEntry.conflicts_false unowned) hp
        (TTEntry.readsAtStart_iff.mpr ⟨needs_iff.mp hn, hs⟩) hl
    · have agrees : ¬e.conflicts = true := fun hc => hn (hneeds.mpr (by
        obtain ⟨hk | hk, -⟩ := TTEntry.conflicts_owned hc
        · exact .inl hk
        · exact .inr (.inl hk)))
      refine (State.beginFlow_unplanned he hs agrees hp).trans (if_neg fun hr => hn ?_)
      exact needs_iff.mpr (TTEntry.readsAtStart_iff.mp hr).1
    · have placed := (State.formRecalls_loc (s.setEntry i (some { e.turned with phase := .recalling })) i .primary e.block
        e.planned).trans (congrArg (Option.map TTEntry.loc) (State.setEntry_self s i (some { e.turned with phase := .recalling })))
      rw [State.beginFlow_recalls he (by rw [hsh]; exact nofun) (TTEntry.conflicts_false fun o => by rw [hsh]; exact nofun) hp]
      unfold State.readBeside
      rw [if_pos (TTEntry.readsAtStart_iff.mpr ⟨needs_iff.mp hn, .inr ⟨hs, hsh⟩⟩)]
      exact State.readTT_placed _ i (placed.trans (congrArg some hl))
    · have unbusy : e.situation ≠ .setBusy := fun hs => hp (TTEntry.planned_of_unheld (.inr hs))
      have silent : ¬e.readsAtStart = true := fun hr => by
        obtain ⟨hd, hs⟩ := TTEntry.readsAtStart_iff.mp hr
        rcases h with ⟨o, ho⟩ | hn
        · rcases hs with hs | ⟨x, hs⟩ <;> (rw [ho] at hs; cases hs)
        · exact hn (needs_iff.mpr hd)
      rw [State.beginFlow_recalls he unbusy (by rw [hc]; exact Bool.false_ne_true) hp]
      exact if_neg silent

end Sys2Proof.Machine
end

section
/-! RESPONDING of a request entry: its update, its answer, its capture and the pacing of its messages (chapters 4 and 5; R40,
R41, R64, R70, R74, R79, R80, R87, R95, R97, R101). -/

namespace Sys2Proof.Machine

/-! ### The answer (R101) -/

section
variable {e : TTEntry} (tag : ReqTag)

theorem TTEntry.answer_fault {r : FaultReason} (h : e.verdict = some r) : e.answer tag = .fault tag e.block r (!e.changed) := by
  unfold TTEntry.answer
  rw [h]

/-- R101: the message that answers a request without a FAULT. -/
theorem TTEntry.answer_served (h : e.verdict = none) :
    (e.kind = .req .fetchS → e.answer tag = .grantS tag e.block e.buffer.beats) ∧
    (e.kind = .req .fetchX → e.answer tag = .grantX tag e.block e.buffer.beats) ∧
    (e.kind = .req .upgrade → e.grantsUp = true → e.answer tag = .grantUp tag e.block) ∧
    (e.kind = .req .upgrade → e.grantsUp = false → e.answer tag = .grantX tag e.block e.buffer.beats) ∧
    (e.kind = .req .readOnce → e.answer tag = .data tag e.block e.buffer.beats) ∧
    (e.kind = .req .writeThru → e.answer tag = .done tag e.block) := by
  unfold TTEntry.answer
  rw [h]
  refine ⟨fun hk => ?_, fun hk => ?_, fun hk hg => ?_, fun hk hg => ?_, fun hk => ?_, fun hk => ?_⟩ <;> rw [hk]
  · exact if_pos hg
  · exact if_neg (by rw [hg]; exact Bool.false_ne_true)

end

/-! ### The update (R79, R80) -/

section
variable {e : TTEntry} {n : NodeId} {tag : ReqTag}

theorem TTEntry.skipsRequester_iff (e : TTEntry) : e.skipsRequester = true ↔ e.orphaned = true ∨ e.verdict = some .poisoned := by
  simp [TTEntry.skipsRequester]

theorem TTEntry.update_served (ho : e.orphaned = false) (hv : e.verdict ≠ some .poisoned) :
    e.update = e.recalls.map Member.step ++ e.requesterStep := by
  refine if_neg fun h => ?_
  rcases e.skipsRequester_iff.mp h with h | h
  · exact Bool.false_ne_true (ho.symm.trans h)
  · exact hv h

theorem TTEntry.requestedBy_eq (hr : e.requester = some (n, tag)) (m : NodeId) : e.requestedBy m = (n == m) := by
  unfold TTEntry.requestedBy
  rw [hr]
  rfl

/-- R79: an update that names no step of the requester. -/
theorem TTEntry.update_unserved (hr : e.requester = some (n, tag)) (h : e.orphaned = true ∨ e.verdict = some .poisoned) :
    e.update = (e.recalls.filter fun m => m.node != n).map Member.step := by
  refine (if_pos (e.skipsRequester_iff.mpr h)).trans (congrArg _ (List.filter_congr fun m _ => ?_))
  rw [TTEntry.requestedBy_eq hr, bne, Bool.beq_comm]

theorem TTEntry.requesterStep_of_kind (hr : e.requester = some (n, tag)) :
    (e.kind = .req .fetchS → e.requesterStep = [.addSharer n]) ∧
    (e.kind = .req .fetchX ∨ e.kind = .req .upgrade → e.requesterStep = [.makeOwner n]) ∧
    (e.kind = .req .readOnce → e.requesterStep = []) := by
  unfold TTEntry.requesterStep
  rw [hr]
  exact ⟨fun h => by rw [h], fun h => by rcases h with h | h <;> rw [h], fun h => by rw [h]⟩

theorem Member.keepsCopy_iff (m : Member) : m.keepsCopy = true ↔
    m.kind = .downgrade ∧ m.status = .awaiting ∧ (m.resolution = some .data ∨ m.resolution = some .clean) := by
  simp [Member.keepsCopy, and_assoc]

end

/-- R79: the verdicts whose entries apply no update. -/
theorem State.respondUpdate_skips (s : State) (i : TTIdx) {e : TTEntry} (h : e.verdict ∈ [some .setBusy, some .ownerConflict,
    some .noRegion, some .regionClosed, some .notTracked, some .notPermitted]) : s.respondUpdate i e = s := by
  simp only [List.mem_cons, List.not_mem_nil, or_false] at h
  unfold State.respondUpdate
  rcases h with h | h | h | h | h | h <;> rw [h]

/-- R79: the other verdicts apply the update of the kind. -/
theorem State.respondUpdate_applies (s : State) (i : TTIdx) {e : TTEntry}
    (h : e.verdict = none ∨ e.verdict = some .poisoned ∨ e.verdict = some .writeFailed) : s.respondUpdate i e =
      if e.kind = .req .writeThru then s.removeEntry e.block
      else if e.update = [] then s
      else (s.applyUpdate i e.block e.update).modEntry i fun x => { x with changed := true } := by
  unfold State.respondUpdate
  rcases h with h | h | h <;> rw [h]

/-! ### Messages that are sent or held (R64) -/

section
variable {s : State} {i : TTIdx} {n : NodeId} (m : Msg)

theorem State.sendTT_held (h : (s.ttSlot i).pacing.has n = true) :
    s.sendTT i n m = s.modEntry i fun e => { e with held := e.held ++ [(n, m)] } := if_pos h

theorem State.sendTT_queued (h : (s.ttSlot i).pacing.has n = false) : s.sendTT i n m = s.queueTT i n m :=
  if_neg (by rw [h]; exact Bool.false_ne_true)

end

/-! ### The answer is sent, and captures follow it (R70, R74, R87) -/

section
variable (s : State) (i : TTIdx)

theorem State.sendAnswer_timeBase (e : TTEntry) (n : NodeId) (tag : ReqTag) :
    (s.sendAnswer i e n tag).timeBase = s.timeBase := by
  unfold State.sendAnswer
  split
  · rfl
  · exact (Gentle.work (.sendTT s i n _)).timeBase

variable {s i} {e : TTEntry} {n : NodeId} {tag : ReqTag} (he : s.entry i = some e) (hr : e.requester = some (n, tag))
include he hr

theorem State.answer_eq : s.answer i = (s.sendAnswer i e n tag).captureVerdict i e n := by
  unfold State.answer
  rw [he]
  dsimp only
  rw [hr]

/-- R70: an answer that no capture follows. -/
theorem State.answer_uncaptured (h1 : e.verdict ≠ some .ownerConflict) (h2 : e.verdict ≠ some .notPermitted) :
    s.answer i = s.sendAnswer i e n tag := by
  rw [State.answer_eq he hr]
  unfold State.captureVerdict
  split
  · next h => exact absurd h h1
  · next h => exact absurd h h2
  · rfl

/-- R87: OWNER_CONFLICT is captured behind its FAULT. -/
theorem State.answer_ownerConflict (h : e.verdict = some .ownerConflict) : s.answer i =
    (s.sendAnswer i e n tag).offer ⟨.ownerConflict, some n, some e.block, none, some i, none, s.timeBase⟩ := by
  rw [State.answer_eq he hr, ← s.sendAnswer_timeBase i e n tag]
  unfold State.captureVerdict
  rw [h]
  rfl

/-- R74: NOT_PERMITTED is captured behind its FAULT. -/
theorem State.answer_notPermitted (h : e.verdict = some .notPermitted) : s.answer i =
    (s.sendAnswer i e n tag).offer ⟨.notPermitted, some n, some e.block, none, none, none, s.timeBase⟩ := by
  rw [State.answer_eq he hr, ← s.sendAnswer_timeBase i e n tag]
  unfold State.captureVerdict
  rw [h]
  rfl

end

/-- Settles O45: the answer and the update by the entry's kind and verdict, the answer's captures, and the pacing. -/
theorem answersAndPacing : Obligations.AnswersAndPacing := by
  refine ⟨fun e tag => ⟨fun r => TTEntry.answer_fault tag, TTEntry.answer_served tag⟩, fun e n tag hr ho hv => ?_,
    fun e n tag hr h => TTEntry.update_unserved hr h, fun m => ?_,
    fun s i e => ⟨fun k hk => ?_, s.respondUpdate_skips i, fun hk hv => ?_, fun hk hv => ?_⟩,
    fun s i e n tag he hr => ⟨fun ho h1 h2 => ?_, fun ho => ?_⟩, fun s i n m e he => ⟨fun h => ?_, fun h => ?_⟩⟩
  · obtain ⟨shares, owns, reads⟩ := TTEntry.requesterStep_of_kind hr
    rw [TTEntry.update_served ho hv]
    exact ⟨fun h => by rw [shares h], fun h => by rw [owns h], fun h => by rw [reads h, List.append_nil]⟩
  · unfold Member.step
    simp only [Member.keepsCopy_iff]
  · unfold State.respondKind
    rw [hk]
  · exact (s.respondUpdate_applies i (hv.imp_right .inr)).trans (if_pos hk)
  · have coherent : e.kind ≠ .req .writeThru := by rcases hk with hk | hk | hk | hk <;> rw [hk] <;> exact nofun
    rw [s.respondUpdate_applies i hv, if_neg coherent]
    exact ⟨fun h => if_pos h, fun h => if_neg h⟩
  · exact (State.answer_uncaptured he hr h1 h2).trans (if_pos ho)
  · have sent : s.sendAnswer i e n tag = s.sendTT i n (e.answer tag) := if_neg (by rw [ho]; exact Bool.false_ne_true)
    rw [← sent]
    exact ⟨State.answer_uncaptured he hr, State.answer_ownerConflict he hr, State.answer_notPermitted he hr⟩
  · rw [State.sendTT_held m h]
    exact ⟨by rw [State.modEntry_entry, if_pos rfl, he, Option.map_some], rfl⟩
  · rw [State.sendTT_queued m h]
    exact ⟨by rw [State.queueTT_port, if_pos rfl]; rfl, by rw [State.queueTT_ttSlot, if_pos rfl]⟩

end Sys2Proof.Machine
end

section
/-! The grants of the allocator, and the retirement and handoff of an entry (chapter 4, sections 4.2 and 4.5; R44, R60, R70,
R71, R73, R74, R181). -/

namespace Sys2Proof.Machine

/-! ### The Hold Queue (R70, R71, R73) -/

/-- The first element that passes a test, and the list without it. -/
theorem find?_eraseP_first {α : Type} {p : α → Bool} {front back : List α} {x : α} (hf : ∀ y ∈ front, p y = false)
    (hx : p x = true) : (front ++ x :: back).find? p = some x ∧ (front ++ x :: back).eraseP p = front ++ back := by
  refine ⟨List.find?_eq_some_iff_append.mpr ⟨hx, front, back, rfl, fun y hy => by rw [hf y hy]; rfl⟩, ?_⟩
  rw [List.eraseP_append_right _ fun y hy => by rw [hf y hy]; exact Bool.false_ne_true]
  simp [hx]

theorem HoldEntry.waitsFor_iff (b : Block) (h : HoldEntry) : h.waitsFor b = true ↔ h.req.block = b ∧ h.ready = false := by
  simp [HoldEntry.waitsFor]

section
variable {s : State} {i : TTIdx} {b : Block}

/-- R70: with no WAITING request for its block an entry becomes free. -/
theorem State.handOff_free (h : ∀ x ∈ s.hold, ¬(x.req.block = b ∧ x.ready = false)) : s.handOff i b = s.setEntry i none := by
  have none : s.hold.find? (HoldEntry.waitsFor b) = none :=
    List.find?_eq_none.mpr fun x hx k => h x hx ((HoldEntry.waitsFor_iff b x).mp k)
  unfold State.handOff
  rw [none]

/-- R71: the oldest WAITING request for the block takes the entry over. -/
theorem State.handOff_request {front back : List HoldEntry} {h : HoldEntry} (hs : s.hold = front ++ h :: back)
    (hf : ∀ x ∈ front, ¬(x.req.block = b ∧ x.ready = false)) (hb : h.req.block = b) (hr : h.ready = false) :
    s.handOff i b = State.startHeld { s with hold := front ++ back } i h.req := by
  obtain ⟨found, rest⟩ := find?_eraseP_first (p := HoldEntry.waitsFor b) (front := front) (back := back) (x := h)
    (fun x hx => Bool.eq_false_iff.mpr fun k => hf x hx ((HoldEntry.waitsFor_iff b x).mp k))
    ((HoldEntry.waitsFor_iff b h).mpr ⟨hb, hr⟩)
  unfold State.handOff
  rw [hs, found, rest]

end

/-! ### The allocator (R60, R73, R181) -/

theorem State.allocStep_full {s : State} (h : ∀ i, s.entry i ≠ none) : s.allocStep = none := by
  have full : s.freeTT = none := List.find?_eq_none.mpr fun i _ => by simpa using h i
  unfold State.allocStep
  rw [full]

theorem State.find?_ready_none {s : State} (hn : ∀ x ∈ s.hold, x.ready = false) : s.hold.find? (·.ready) = none :=
  List.find?_eq_none.mpr fun x hx => by rw [hn x hx]; exact Bool.false_ne_true

section
variable {s : State} {i : TTIdx} (hi : s.freeTT = some i)
include hi

/-- R73: the oldest READY request is granted before the walk and the agent. -/
theorem State.allocStep_held {front back : List HoldEntry} {h : HoldEntry} (hs : s.hold = front ++ h :: back)
    (hf : ∀ x ∈ front, x.ready = false) (hr : h.ready = true) : s.allocStep =
      some (State.startHeld { s with hold := (front ++ back).map fun x =>
        if x.req.block = h.req.block then { x with ready := false } else x } i h.req) := by
  obtain ⟨found, rest⟩ := find?_eraseP_first (p := fun x : HoldEntry => x.ready) (back := back) hf hr
  unfold State.allocStep State.grantHeld
  rw [hi, hs]
  dsimp only
  rw [found]
  dsimp only
  rw [rest]
  rfl

variable (hn : ∀ x ∈ s.hold, x.ready = false)
include hn

/-- R60: with no READY request the walk is granted. -/
theorem State.allocStep_sweep {k : JobKind} {w : Walk} (h : s.sweepClaim = some (k, w)) :
    s.allocStep = some (s.grantSweep i k w) := by
  unfold State.allocStep
  simp only [hi, State.find?_ready_none hn, h]

/-- R60: behind the walk, the agent is granted. -/
theorem State.allocStep_agent (h : s.sweepClaim = none) :
    s.allocStep = s.agentClaim.map fun c => s.grantAgent i c := by
  unfold State.allocStep
  simp only [hi, State.find?_ready_none hn, h]

end

/-- R181: a grant to the agent whose block is no longer tracked is answered NOT_HELD. -/
theorem State.grantAgent_untracked {s : State} {c : ReclaimCmd} (h : s.tracked c.block = false) (i : TTIdx) :
    s.grantAgent i c = s.reply c.sender c.tag .ok [0#32] :=
  (if_neg (by rw [h]; exact Bool.false_ne_true)).trans (by rw [(reclaimWord_eq false i).2]; rfl)

/-! ### A held request checked again (R61, R74) -/

theorem State.startHeld_passes {s : State} {q : Request} {l : Loc} (h : s.regionCheck q.node q.kind q.block = .pass l)
    (i : TTIdx) : s.startHeld i q = s.startEntry i (.ofRequest q .hold (some l)) := by
  unfold State.startHeld
  rw [h]

theorem State.startHeld_fails {s : State} {q : Request} {r : FaultReason} (h : s.regionCheck q.node q.kind q.block = .fail r)
    (i : TTIdx) : s.startHeld i q = s.setEntry i (some { TTEntry.ofRequest q .hold none with verdict := some r }) := by
  unfold State.startHeld
  rw [h]

/-! ### Retirement (R44, R70) -/

section
variable (s : State) (i : TTIdx) (e : TTEntry)

theorem State.reply_fields (n : NodeId) (tag : ReqTag) (st : Status) (ws : List Word) : s.reply n tag st ws =
    { s with ports := (s.reply n tag st ws).ports, agent := (s.reply n tag st ws).agent } := by
  unfold State.reply
  split <;> rfl

theorem State.reportReclaim_fields : s.reportReclaim i e =
    { s with ports := (s.reportReclaim i e).ports, agent := (s.reportReclaim i e).agent } := by
  unfold State.reportReclaim
  split
  · split
    · exact s.reply_fields _ _ _ _
    · rfl
  · rfl

theorem State.reportReclaim_unasked (h : ∀ c, s.agent ≠ .reclaiming c i) : s.reportReclaim i e = s := by
  unfold State.reportReclaim
  split
  · next c j ha =>
    refine if_neg fun hj => h c ?_
    rw [ha, hj]
  · rfl

/-- R181: the completion of a RECLAIM is reported with the index and the outcome. -/
theorem State.reportReclaim_asked {c : ReclaimCmd} (h : s.agent = .reclaiming c i) : s.reportReclaim i e =
    s.reply c.sender c.tag .ok [BitVec.ofNat 32 (2 + 256 * i.val + if e.reclaimed = true then 1 else 0)] := by
  unfold State.reportReclaim
  rw [h, ← (reclaimWord_eq e.reclaimed i).1]
  exact if_pos rfl

theorem State.giveBack_dirOnly (b : Block) : s.giveBack i b = { s with dir := (s.giveBack i b).dir } := by
  unfold State.giveBack
  dsimp only
  split <;> rfl

/-- R44: the way that an entry gives back becomes EMPTY; every other way and set is as it was. -/
theorem State.giveBack_dirSet (b : Block) (hc : s.DirectoryCanonical) (k : SetIdx) : (s.giveBack i b).dirSet k =
    if k = setOf b then ((s.dirSet k).findReserved i).elim (s.dirSet k) (fun w => (s.dirSet k).setWay w .empty)
    else s.dirSet k := by
  unfold State.giveBack
  dsimp only
  split
  · next h =>
    split
    · next hk => rw [hk, h]; rfl
    · rfl
  · next w h =>
    rw [State.dirSet_putSet _ _ _ _ hc]
    split
    · next hk => rw [hk, h]; rfl
    · rfl

theorem State.freeVictim_fields : s.freeVictim e = { s with hold := (s.freeVictim e).hold } := by
  unfold State.freeVictim
  split <;> rfl

theorem State.freeVictim_none (h : e.victim = none) : s.freeVictim e = s := by
  have block : e.blockOf .victim = none := by rw [TTEntry.blockOf, h]; rfl
  unfold State.freeVictim
  rw [block]

theorem State.freeVictim_some {v : Victim} (h : e.victim = some v) :
    s.freeVictim e = s.setHeldReady v.entry.block true := by
  have block : e.blockOf .victim = some v.entry.block := by rw [TTEntry.blockOf, h]; rfl
  unfold State.freeVictim
  rw [block]

/-- R70: the state in which a retiring entry is handed off: its RECLAIM is reported, its way given back, the claim on its
victim ended and the walk told. -/
def State.released : State := (((s.reportReclaim i e).giveBack i e.block).freeVictim e).tellWalk i e

/-- R70: what the release of an entry writes. -/
theorem State.released_fields : s.released i e = { s with
    ports := (s.reportReclaim i e).ports
    agent := (s.reportReclaim i e).agent
    dir := (s.giveBack i e.block).dir
    hold := (s.freeVictim e).hold
    jobs := (s.tellWalk i e).jobs } := by
  have report := s.reportReclaim_fields i e
  have give : (s.reportReclaim i e).giveBack i e.block =
      { s.reportReclaim i e with dir := (s.giveBack i e.block).dir } := by
    rw [State.giveBack_dirOnly]
    have dir : ∀ t : State, t.dir = s.dir → (t.giveBack i e.block).dir = (s.giveBack i e.block).dir := fun t ht => by
      have set : t.dirSet (setOf e.block) = s.dirSet (setOf e.block) := congrArg (fun d => Directory.get d _) ht
      unfold State.giveBack
      dsimp only
      rw [set]
      split
      · exact ht
      · exact congrArg (fun d => Directory.put d _ _) ht
    rw [dir (s.reportReclaim i e) (by rw [report])]
  have hold : ∀ t : State, t.hold = s.hold → (t.freeVictim e).hold = (s.freeVictim e).hold := fun t ht => by
    unfold State.freeVictim
    split
    · simp only [State.setHeldReady, ht]
    · exact ht
  unfold State.released State.tellWalk
  rw [State.freeVictim_fields, hold _ (by rw [give, report]), give, report]

variable {s i e}

theorem State.entryStep_retires (he : s.entry i = some e) (hm : e.memOp = none) (hp : e.phase = .responding)
    (ho : e.opened = true) (hh : e.held = []) : s.entryStep i = some ((s.released i e).handOff i e.block) := by
  unfold State.entryStep
  simp only [he, hm, hp, ho, hh, Option.isSome_none, Bool.false_eq_true, if_false, Bool.not_true, if_true]
  rfl

end

/-- Settles O46: the handoff by the first WAITING request, the grants by the claimant of highest priority, and the retirement by
what the release of an entry writes. -/
theorem handoffAndAllocation : Obligations.HandoffAndAllocation := by
  refine ⟨fun s i b => State.handOff_free, fun s i b front back h => State.handOff_request, fun s i he hlow => ?_,
    fun s => State.allocStep_full, fun s i q => ⟨fun l h => State.startHeld_passes h i, fun r h => ?_⟩,
    fun s i e ds hc hds he hm hp ho hh => ⟨s.released i e, State.entryStep_retires he hm hp ho hh, ?_⟩⟩
  · have free := (s.freeTT_iff i).mpr ⟨he, hlow⟩
    refine ⟨fun front back h => State.allocStep_held free, fun hn k w => State.allocStep_sweep free hn,
      fun hn hs c ha hb => ?_, fun hn hs ha => ?_⟩
    · have grants : s.allocStep = some (s.grantAgent i c) := by
        rw [State.allocStep_agent free hn hs, (s.agentClaim_iff c).mpr ⟨ha, hb⟩, Option.map_some]
      rw [grants]
      exact ⟨fun ht => congrArg some (if_pos ht), fun ht => congrArg some (State.grantAgent_untracked ht i)⟩
    · rw [State.allocStep_agent free hn hs, ha, Option.map_none]
  · rw [State.startHeld_fails h]
    exact ⟨_, State.setEntry_self _ _ _, rfl, rfl, rfl, rfl, rfl⟩
  · subst hds
    have fields := s.released_fields i e
    have set : ∀ k, (s.released i e).dirSet k = (s.giveBack i e.block).dirSet k := fun k => by rw [fields]; rfl
    have own := s.giveBack_dirSet i e.block hc (setOf e.block)
    rw [if_pos rfl] at own
    refine ⟨fun k hk => ?_, fun w c hw hlow => ?_, fun hn => ?_, fun hv => ?_, fun v hv => ?_, ?_⟩
    · rw [set, s.giveBack_dirSet i e.block hc, if_neg hk]
    · rw [set, own, (DirSet.findReserved_iff _ i w).mpr ⟨⟨c, hw⟩, hlow⟩]
      rfl
    · have none : (s.dirSet (setOf e.block)).findReserved i = none := Option.eq_none_iff_forall_ne_some.mpr fun w hw => by
        obtain ⟨⟨c, hw⟩, -⟩ := (DirSet.findReserved_iff _ i w).mp hw
        exact hn w c hw
      rw [set, own, none]
      rfl
    · rw [fields, s.freeVictim_none e hv]
    · rw [fields, s.freeVictim_some e hv]
      rfl
    · rw [fields]
      refine ⟨rfl, rfl, rfl, rfl, rfl, rfl, rfl, rfl, fun h => ?_, fun c h => ⟨_, rfl, ?_⟩⟩
      · rw [s.reportReclaim_unasked i e h]
        exact ⟨rfl, rfl⟩
      · rw [s.reportReclaim_asked i e h]
        exact ⟨rfl, rfl⟩

end Sys2Proof.Machine
end

section
/-! The recall set of an entry and the RECALLs that are sent for it (chapter 4, section 4.4; chapter 6; R58, R64, R65). -/

namespace Sys2Proof.Machine

/-! ### The recall set formed (R58) -/

theorem TTEntry.setRecalls_claims (e : TTEntry) (r : Role) (ms : List Member) (b : Block) :
    (e.setRecalls r ms).claims b = e.claims b := by
  cases r with
  | primary => rfl
  | victim => cases hv : e.victim <;> simp [TTEntry.claims, TTEntry.blockOf, TTEntry.setRecalls, hv]

theorem TTEntry.setRecalls_held (e : TTEntry) (r : Role) (ms : List Member) : (e.setRecalls r ms).held = e.held := by
  cases r <;> rfl

/-- An entry that claims a block in a role has a recall set for the role. -/
theorem TTEntry.setRecalls_recallsOf {e : TTEntry} {b : Block} {r : Role} (h : e.claims b = some r) (ms : List Member) :
    (e.setRecalls r ms).recallsOf r = ms := by
  cases r with
  | primary => rfl
  | victim =>
    obtain ⟨-, v, hv, -⟩ := (e.claims_victim b).mp h
    simp [TTEntry.setRecalls, TTEntry.recallsOf, hv]

/-! ### One RECALL sent (R64, R65) -/

/-- R64, R65: an entry once a RECALL has been sent for it: held while the pacing mark of its node is set, and else queued. -/
def TTEntry.sending (r : Role) (b : Block) (paced : NodeId → Bool) (e : TTEntry) (m : NodeId × RecallKind) : TTEntry :=
  if paced m.1 = true then { e with held := e.held ++ [(m.1, .recall b m.2)] }
  else e.modMember r m.1 fun x => { x with sent := .queued }

theorem TTEntry.sending_claims (r : Role) (b c : Block) (paced : NodeId → Bool) (e : TTEntry) (m : NodeId × RecallKind) :
    (e.sending r b paced m).claims c = e.claims c := by
  unfold TTEntry.sending
  split
  · rfl
  · exact e.modMember_claims r m.1 _ c

theorem State.sendRecall_unfenced {s : State} {m : NodeId × RecallKind} (h : (s.node m.1).state ≠ .fenced) (i : TTIdx) (r : Role)
    (b : Block) : s.sendRecall i r b m = s.sendTT i m.1 (.recall b m.2) := if_neg h

section
variable (s : State) (i : TTIdx) (n : NodeId) (m : Msg)

theorem State.sendTT_port (k : NodeId) : ((s.sendTT i n m).port k).outbound = (s.port k).outbound ++
    if k = n ∧ (s.ttSlot i).pacing.has n = false then [⟨m, .tt i⟩] else [] := by
  cases hp : (s.ttSlot i).pacing.has n with
  | true => rw [State.sendTT_held m hp]; simp
  | false =>
    rw [State.sendTT_queued m hp, State.queueTT_port]
    by_cases hk : k = n
    · simp [hk]
    · simp [hk]

theorem State.sendTT_pacing : ((s.sendTT i n m).ttSlot i).pacing =
    if (s.ttSlot i).pacing.has n = true then (s.ttSlot i).pacing else (s.ttSlot i).pacing.add n := by
  cases hp : (s.ttSlot i).pacing.has n with
  | true =>
    rw [State.sendTT_held m hp]
    unfold State.modEntry
    rw [State.modTT_ttSlot_self]
    rfl
  | false =>
    rw [State.sendTT_queued m hp, State.queueTT_ttSlot, if_pos rfl]
    rfl

/-- A message of an entry concerns its index and the port of its node. -/
theorem State.sendTT_beside : (s.sendTT i n m).dir = s.dir ∧ (s.sendTT i n m).slots = s.slots ∧
    (s.sendTT i n m).nodes = s.nodes := by
  unfold State.sendTT State.queueTT
  repeat' split
  all_goals exact ⟨rfl, rfl, rfl⟩

variable {s i}

theorem State.sendTT_recall {e : TTEntry} {b : Block} {r : Role} (he : s.entry i = some e) (hr : e.claims b = some r)
    (k : RecallKind) : (s.sendTT i n (.recall b k)).entry i = some (e.sending r b (s.ttSlot i).pacing.has (n, k)) := by
  unfold TTEntry.sending
  cases hp : (s.ttSlot i).pacing.has n with
  | true =>
    rw [State.sendTT_held _ hp, State.modEntry_entry, if_pos rfl, he, Option.map_some]
    rfl
  | false =>
    have work : (s.ttSlot i).work = some e := he
    rw [State.sendTT_queued _ hp, State.entry, State.queueTT_ttSlot, if_pos rfl, work, Option.map_some,
      TTEntry.onRecall_claims rfl hr]
    rfl

end

/-! ### All RECALLs sent (R65) -/

/-- R64, R65: what the RECALLs of a recall set, sent in order, make of their entry and of the ports. -/
structure RecallsSent (i : TTIdx) (r : Role) (b : Block) (paced : NodeId → Bool) (ms : List (NodeId × RecallKind)) (e : TTEntry)
    (s t : State) : Prop where
  entry : t.entry i = some (ms.foldl (TTEntry.sending r b paced) e)
  port : ∀ n, (t.port n).outbound = (s.port n).outbound ++
    (ms.filter fun m => m.1 == n && !paced m.1).map fun m => ⟨.recall b m.2, .tt i⟩
  dir : t.dir = s.dir
  slots : t.slots = s.slots

/-- Each RECALL is to a node of its own, so that none paces another. -/
theorem State.sendRecalls_sent {i : TTIdx} {r : Role} {b : Block} {paced : NodeId → Bool} {ms : List (NodeId × RecallKind)} :
    ∀ {s : State} {e : TTEntry}, s.entry i = some e → e.claims b = some r → (ms.map (·.1)).Nodup →
      (∀ m ∈ ms, (s.node m.1).state ≠ .fenced) → (∀ m ∈ ms, (s.ttSlot i).pacing.has m.1 = paced m.1) →
      RecallsSent i r b paced ms e s (ms.foldl (fun t m => t.sendRecall i r b m) s) := by
  induction ms with
  | nil => exact fun he _ _ _ _ => ⟨he, fun n => (List.append_nil _).symm, rfl, rfl⟩
  | cons m ms ih =>
    intro s e he hr hd hf hp
    obtain ⟨apart, distinct⟩ := List.nodup_cons.mp hd
    have mark : (s.ttSlot i).pacing.has m.1 = paced m.1 := hp m List.mem_cons_self
    have sent : s.sendRecall i r b m = s.sendTT i m.1 (.recall b m.2) :=
      State.sendRecall_unfenced (hf m List.mem_cons_self) i r b
    obtain ⟨dir, slots, nodes⟩ := s.sendTT_beside i m.1 (.recall b m.2)
    have entry : (s.sendTT i m.1 (.recall b m.2)).entry i = some (e.sending r b paced m) := by
      rw [State.sendTT_recall m.1 he hr]
      unfold TTEntry.sending
      dsimp only
      rw [mark]
    have rest : ∀ x ∈ ms, ((s.sendTT i m.1 (.recall b m.2)).ttSlot i).pacing.has x.1 = paced x.1 := fun x hx => by
      have other : x.1 ≠ m.1 := fun h => apart (List.mem_map.mpr ⟨x, hx, h⟩)
      rw [State.sendTT_pacing, ← hp x (List.mem_cons_of_mem _ hx)]
      split
      · rfl
      · exact Bool.eq_iff_iff.mpr ((NodeSet.has_add_iff _ _ _).trans (or_iff_left other))
    rw [List.foldl_cons, sent]
    have later := ih entry ((e.sending_claims r b b paced m).trans hr) distinct
      (fun x hx => by rw [State.node_congr nodes]; exact hf x (List.mem_cons_of_mem _ hx)) rest
    refine ⟨later.entry, fun n => ?_, later.dir.trans dir, later.slots.trans slots⟩
    rw [later.port, State.sendTT_port, mark, List.append_assoc, List.filter_cons]
    congr 1
    by_cases hn : n = m.1
    · subst hn
      cases paced m.1 <;> simp
    · simp [hn, Ne.symm hn]

/-- R64: the messages that an entry holds once its RECALLs have been sent. -/
theorem TTEntry.foldl_sending_held (r : Role) (b : Block) (paced : NodeId → Bool) (ms : List (NodeId × RecallKind)) (e : TTEntry) :
    (ms.foldl (TTEntry.sending r b paced) e).held =
      e.held ++ (ms.filter fun m => paced m.1).map fun m => (m.1, .recall b m.2) := by
  induction ms generalizing e with
  | nil => exact (List.append_nil _).symm
  | cons m ms ih =>
    rw [List.foldl_cons, ih, List.filter_cons]
    unfold TTEntry.sending
    split
    · simp
    · exact congrArg (· ++ _) (e.modMember_held r m.1 _)

/-- R65: the members whose RECALLs have been queued. -/
theorem TTEntry.foldl_sending_recallsOf (r : Role) (b : Block) (paced : NodeId → Bool) (ms : List (NodeId × RecallKind))
    (e : TTEntry) : (ms.foldl (TTEntry.sending r b paced) e).recallsOf r = (e.recallsOf r).map fun x =>
      if x.node ∈ ms.map (·.1) ∧ paced x.node = false then { x with sent := .queued } else x := by
  induction ms generalizing e with
  | nil => simp
  | cons m ms ih =>
    have one : (e.sending r b paced m).recallsOf r = (e.recallsOf r).map fun x =>
        if x.node = m.1 ∧ paced x.node = false then { x with sent := .queued } else x := by
      unfold TTEntry.sending
      split
      · next hp =>
        refine ((List.map_congr_left fun x _ => if_neg ?_).trans (List.map_id _)).symm
        rintro ⟨hx, no⟩
        rw [hx, hp] at no
        cases no
      · next hp =>
        rw [e.modMember_recallsOf]
        refine List.map_congr_left fun x _ => ?_
        by_cases hx : x.node = m.1
        · rw [if_pos hx, if_pos ⟨hx, by rw [hx]; exact Bool.eq_false_iff.mpr hp⟩]
        · rw [if_neg hx, if_neg fun h => hx h.1]
    rw [List.foldl_cons, ih, one, List.map_map]
    refine List.map_congr_left fun x _ => ?_
    dsimp only [Function.comp]
    by_cases hx : x.node = m.1 ∧ paced x.node = false
    · have named : x.node ∈ (m :: ms).map (·.1) := List.mem_map.mpr ⟨m, List.mem_cons_self, hx.1.symm⟩
      simp only [if_pos hx, if_pos (And.intro named hx.2), ite_self]
    · have same : (x.node ∈ ms.map (·.1) ∧ paced x.node = false) ↔ (x.node ∈ (m :: ms).map (·.1) ∧ paced x.node = false) := by
        rw [List.map_cons, List.mem_cons]
        exact ⟨fun h => ⟨.inr h.1, h.2⟩, fun h => ⟨h.1.resolve_left fun k => hx ⟨k, h.2⟩, h.2⟩⟩
      simp only [if_neg hx]
      exact ite_congr (propext same) (fun _ => rfl) fun _ => rfl

/-- R58, R65: the recall set of an entry whose RECALLs have been sent. -/
theorem TTEntry.foldl_sending_formed {e : TTEntry} {b : Block} {r : Role} (h : e.claims b = some r) (paced : NodeId → Bool)
    (ms : List (NodeId × RecallKind)) :
    (ms.foldl (TTEntry.sending r b paced) (e.setRecalls r (ms.map fun m => Member.formed m.1 m.2))).recallsOf r =
      ms.map fun m => ⟨m.1, m.2, if paced m.1 = true then .notQueued else .queued, none, .awaiting, none⟩ := by
  rw [TTEntry.foldl_sending_recallsOf, TTEntry.setRecalls_recallsOf h, List.map_map]
  refine List.map_congr_left fun m hm => ?_
  have named : m.1 ∈ ms.map (·.1) := List.mem_map_of_mem hm
  cases hp : paced m.1 with
  | true => exact if_neg fun k => Bool.false_ne_true (k.2.symm.trans hp)
  | false => exact if_pos ⟨named, hp⟩

/-- R65: the recall set of an entry is formed and its RECALLs are sent in the order of the set. -/
theorem State.formRecalls_sent {s : State} {i : TTIdx} {e : TTEntry} {b : Block} {r : Role} {ms : List (NodeId × RecallKind)}
    (he : s.entry i = some e) (hr : e.claims b = some r) (hd : (ms.map (·.1)).Nodup)
    (hf : ∀ m ∈ ms, (s.node m.1).state ≠ .fenced) : RecallsSent i r b (s.ttSlot i).pacing.has ms
      (e.setRecalls r (ms.map fun m => Member.formed m.1 m.2)) s (s.formRecalls i r b ms) := by
  have pacing : ((s.modEntry i fun e => e.setRecalls r (ms.map fun m => Member.formed m.1 m.2)).ttSlot i).pacing =
      (s.ttSlot i).pacing := by
    unfold State.modEntry
    rw [State.modTT_ttSlot_self]
  have formed : (s.modEntry i fun e => e.setRecalls r (ms.map fun m => Member.formed m.1 m.2)).entry i =
      some (e.setRecalls r (ms.map fun m => Member.formed m.1 m.2)) := by
    rw [State.modEntry_entry, if_pos rfl, he, Option.map_some]
  have sent := State.sendRecalls_sent (paced := (s.ttSlot i).pacing.has) formed ((e.setRecalls_claims r _ b).trans hr) hd hf
    fun m _ => by rw [pacing]
  exact ⟨sent.entry, sent.port, sent.dir, sent.slots⟩

end Sys2Proof.Machine
end

section
/-! The course and the end of a repair and of an eviction (chapters 3 to 5; R50 to R54, R61, R63, R65, R83). -/

namespace Sys2Proof.Machine

/-! ### The first phase behind a lookup (R50, R51, R61, R83) -/

/-- R51: the nodes that a repair recalls. -/
theorem NodeState.counted_eq (x : NodeState) : x.counted = (x == .active || x == .quiescing) := by cases x <;> rfl

theorem State.recallAll_eq {s t : State} (h : t.nodes = s.nodes) (i : TTIdx) (r : Role) (b : Block) :
    t.recallAll i r b = t.formRecalls i r b
      ((allNodes.filter fun n => (s.node n).state == .active || (s.node n).state == .quiescing).map
        fun n => (n, .invalidate)) := by
  unfold State.recallAll
  simp only [NodeState.counted_eq, State.node_congr h]

section
variable {s : State} {i : TTIdx} {e : TTEntry} (he : s.entry i = some e)

include he

theorem State.afterLookup_repairs {d : DirEntry} (hf : d.failed = true) (b : Block) (w : WayIdx) :
    s.afterLookup i b (.held w d) =
      (s.setEntry i (some { e with phase := .repairing })).formRecalls i .primary b
        ((allNodes.filter fun n => (s.node n).state == .active || (s.node n).state == .quiescing).map
          fun n => (n, .invalidate)) := by
  unfold State.afterLookup State.beginRepair
  dsimp only
  rw [if_pos hf, State.modEntry_of_entry he]
  exact State.recallAll_eq (s := s) (t := s.setEntry i (some { e with phase := .repairing })) rfl i .primary b

theorem State.afterLookup_victim (b : Block) (w : WayIdx) (d : DirEntry) :
    s.afterLookup i b (.victim w d) =
      (s.setEntry i (some { e with
        victim := some ⟨w, d, s.locate d.block, [], ⟨BlockData.zero, 0#4, none⟩⟩, phase := .evicting })).recallVictim i d := by
  unfold State.afterLookup State.beginEviction
  dsimp only
  rw [State.modEntry_of_entry he]
  rfl

end

theorem State.recallVictim_failed {s t : State} (h : t.nodes = s.nodes) (i : TTIdx) {d : DirEntry} (hf : d.failed = true) :
    t.recallVictim i d = t.formRecalls i .victim d.block
      ((allNodes.filter fun n => (s.node n).state == .active || (s.node n).state == .quiescing).map
        fun n => (n, .invalidate)) :=
  (if_pos hf).trans (State.recallAll_eq h i .victim d.block)

theorem State.recallVictim_held (t : State) (i : TTIdx) {d : DirEntry} (hf : d.failed = false) :
    t.recallVictim i d = t.formRecalls i .victim d.block
      ((allNodes.filter fun n => d.rights.holders.has n).map fun n => (n, .invalidate)) :=
  if_neg (Bool.eq_false_iff.mp hf)

/-- R65: an entry forms its recall set in the role in which it recalls. -/
theorem State.formRecalls_formed {s : State} {i : TTIdx} {e : TTEntry} (he : s.entry i = some e) (r : Role) (b : Block)
    (ms : List (NodeId × RecallKind)) : s.formRecalls i r b ms = ms.foldl (fun t m => t.sendRecall i r b m)
      (s.setEntry i (some (e.setRecalls r (ms.map fun m => Member.formed m.1 m.2)))) := by
  unfold State.formRecalls
  rw [State.modEntry_of_entry he]

/-! ### Waiting and going on (R61, R62) -/

section
variable {s : State} {i : TTIdx} {e : TTEntry}

theorem State.entryStep_none (h : s.entry i = none) : s.entryStep i = none := by
  unfold State.entryStep
  rw [h]

/-- R62: an entry waits for its memory operation. -/
theorem State.entryStep_atWork {o : OpNote} (he : s.entry i = some e) (hm : e.memOp = some o) : s.entryStep i = none := by
  unfold State.entryStep
  simp only [he, hm, Option.isSome_some, if_true]

theorem State.entryStep_opened (he : s.entry i = some e) (hm : e.memOp = none)
    (hp : e.phase = .repairing ∨ e.phase = .evicting) (ho : e.opened = true) : s.entryStep i = some (s.beginFlow i) := by
  unfold State.entryStep
  rcases hp with hp | hp <;> simp only [he, hm, hp, ho, Option.isSome_none, Bool.false_eq_true, if_false, if_true]

theorem State.entryStep_repairing (he : s.entry i = some e) (hm : e.memOp = none) (hp : e.phase = .repairing)
    (ho : e.opened = false) : s.entryStep i =
      if fullyResolved e.recalls = true then some (s.endRepair i .primary e e.block) else none := by
  unfold State.entryStep
  simp only [he, hm, hp, ho, Option.isSome_none, Bool.false_eq_true, if_false]

theorem State.entryStep_evicting {v : Victim} (he : s.entry i = some e) (hm : e.memOp = none) (hp : e.phase = .evicting)
    (ho : e.opened = false) (hv : e.victim = some v) : s.entryStep i =
      if fullyResolved v.recalls = true then some (s.endVictim i e v) else none := by
  unfold State.entryStep
  simp only [he, hm, hp, ho, hv, Option.isSome_none, Bool.false_eq_true, if_false]

end

theorem fullyResolved_false {ms : List Member} (h : ∃ m ∈ ms, m.resolution = none) : ¬fullyResolved ms = true := fun full => by
  obtain ⟨m, hm, unresolved⟩ := h
  exact (fullyResolved_iff ms).mp full m hm unresolved

/-! ### What an entry does on its own slot and memory (R63) -/

theorem State.ttSlot_congr {s t : State} (h : t.tt = s.tt) (j : TTIdx) : t.ttSlot j = s.ttSlot j := by
  unfold State.ttSlot
  rw [h]

/-- What a change of one entry, or a write of its own, leaves of a state. -/
structure OwnWork (i : TTIdx) (s t : State) : Prop where
  dir : t.dir = s.dir
  slots : t.slots = s.slots
  ports : t.ports = s.ports
  hold : t.hold = s.hold
  nodes : t.nodes = s.nodes
  others : ∀ j, j ≠ i → t.ttSlot j = s.ttSlot j

namespace OwnWork

theorem refl (i : TTIdx) (s : State) : OwnWork i s s := ⟨rfl, rfl, rfl, rfl, rfl, fun _ _ => rfl⟩

theorem trans {i : TTIdx} {s t u : State} (h : OwnWork i s t) (k : OwnWork i t u) : OwnWork i s u :=
  ⟨k.dir.trans h.dir, k.slots.trans h.slots, k.ports.trans h.ports, k.hold.trans h.hold, k.nodes.trans h.nodes,
    fun j hj => (k.others j hj).trans (h.others j hj)⟩

theorem setEntry (i : TTIdx) (s : State) (o : Option TTEntry) : OwnWork i s (s.setEntry i o) :=
  ⟨rfl, rfl, rfl, rfl, rfl, fun j hj => (State.modTT_ttSlot s i j _).trans (if_neg hj)⟩

theorem placeWrite (i : TTIdx) (s : State) (o : OpOwner) (p : MPort) (a : MemAddr) (d : BlockData) :
    OwnWork i s (s.placeWrite o p a d) :=
  ⟨State.modMP_dir _ _ _, State.modMP_slots _ _ _, State.modMP_ports _ _ _, State.modMP_hold _ _ _, State.modMP_nodes _ _ _,
    fun _ _ => by unfold State.ttSlot; rw [State.placeWrite, State.modMP_tt]⟩

end OwnWork

/-- An entry has issued the write of a block for one of its roles. -/
structure EntryWrote (i : TTIdx) (r : Role) (l : Loc) (d : BlockData) (e : TTEntry) (s t : State) : Prop where
  entry : t.entry i = some { e with memOp := some ⟨.write, r, none⟩ }
  places : s.PlacesWrite t (.tt i r) l d
  own : OwnWork i s t

/-- R63: the write of an entry for the block of a role. -/
theorem State.writeTT_wrote {s : State} {i : TTIdx} {e : TTEntry} {r : Role} {l : Loc} (he : s.entry i = some e)
    (hl : e.locOf r = some l) (d : BlockData) : EntryWrote i r l d e s (s.writeTT i r d) := by
  have place : (s.entry i).bind (·.locOf r) = some l := by rw [he]; exact hl
  have writes : s.writeTT i r d = (s.placeWrite (.tt i r) l.port l.addr d).setEntry i
      (some { e with memOp := some ⟨.write, r, none⟩ }) := by
    unfold State.writeTT
    rw [place]
    exact State.modEntry_of_entry ((s.modMP_entry i _ _).trans he) _
  rw [writes]
  exact ⟨State.setEntry_self _ _ _, (s.placeWrite_places _ l d).congr (fun _ => rfl) (State.setEntry_mp _ _ _),
    (OwnWork.placeWrite i s _ _ _ d).trans (OwnWork.setEntry i _ _)⟩

/-- The write of an entry is that of every state with the same ports before. -/
theorem EntryWrote.places_from {i : TTIdx} {r : Role} {l : Loc} {d : BlockData} {e : TTEntry} {s s' t : State}
    (h : EntryWrote i r l d e s t) (h0 : s.mp0 = s'.mp0) (h1 : s.mp1 = s'.mp1) : s'.PlacesWrite t (.tt i r) l d :=
  h.places.congr (fun p => (State.mp_congr h0 h1 p).symm) fun _ => rfl

/-! ### The end of a repair (R53, R54) -/

/-- R53, steps 1 and 2: the entry of the block has been removed and the failure captured, before memory is settled. -/
def State.repairRemoved (s : State) (i : TTIdx) (b : Block) (f : TTEntry) : State :=
  ((s.removeEntry b).offer { s.stamped .holderCheck with block := some b, tt := some i }).setEntry i (some f)

/-- What the end of a repair leaves however it settles memory. -/
structure RepairEnded (i : TTIdx) (b : Block) (s t : State) : Prop where
  removes : s.Removes t b
  record : s.HoldsRecord t ⟨.holderCheck, none, some b, none, some i, none, s.timeBase⟩
  others : ∀ j, j ≠ i → t.ttSlot j = s.ttSlot j
  hold : t.hold = s.hold
  nodes : t.nodes = s.nodes

theorem RepairEnded.then_own {i : TTIdx} {b : Block} {s t u : State} (h : RepairEnded i b s t) (k : OwnWork i t u) :
    RepairEnded i b s u :=
  ⟨h.removes.congr k.dir, h.record.mono fun c x hx => by rw [State.slot_congr k.slots]; exact hx,
    fun j hj => (k.others j hj).trans (h.others j hj), k.hold.trans h.hold, k.nodes.trans h.nodes⟩

theorem RepairEnded.then_offer {i : TTIdx} {b : Block} {s t : State} (h : RepairEnded i b s t) (x : CaptureRecord) :
    RepairEnded i b s (t.offer x) :=
  have same := t.offer_same x
  ⟨h.removes.congr same.dir, h.record.mono (Gentle.offer t x).record,
    fun j hj => (State.ttSlot_congr (State.offer_tt t x) j).trans (h.others j hj), same.hold.trans h.hold,
    same.nodes.trans h.nodes⟩

section
variable (s : State) (i : TTIdx) (b : Block)

/-- A removal leaves the entries, the Memory Ports and the capture slots. -/
theorem State.removeEntry_fields : (s.removeEntry b).tt = s.tt ∧ (s.removeEntry b).mp0 = s.mp0 ∧
    (s.removeEntry b).mp1 = s.mp1 ∧ (s.removeEntry b).slots = s.slots ∧ (s.removeEntry b).timeBase = s.timeBase := by
  rw [State.removeEntry_dirOnly]
  exact ⟨rfl, rfl, rfl, rfl, rfl⟩

theorem State.removeEntry_besides : (s.removeEntry b).ports = s.ports ∧ (s.removeEntry b).hold = s.hold ∧
    (s.removeEntry b).nodes = s.nodes := by
  rw [State.removeEntry_dirOnly]
  exact ⟨rfl, rfl, rfl⟩

end

section
variable {s : State} {i : TTIdx} {b : Block} (f : TTEntry)

/-- R53: the removal with its capture. -/
theorem State.repairRemoved_ended (hc : s.DirectoryCanonical) : RepairEnded i b s (s.repairRemoved i b f) := by
  obtain ⟨tt, -, -, slots, -⟩ := s.removeEntry_fields b
  obtain ⟨-, hold, nodes⟩ := s.removeEntry_besides b
  have removed : RepairEnded i b s ((s.removeEntry b).offer { s.stamped .holderCheck with block := some b, tt := some i }) :=
    have same := (s.removeEntry b).offer_same { s.stamped .holderCheck with block := some b, tt := some i }
    ⟨(State.removeEntry_removes s b hc).congr same.dir, (State.offer_holds _ _).before (by rw [State.slot_congr slots]),
      fun j _ => State.ttSlot_congr ((State.offer_tt _ _).trans tt) j, same.hold.trans hold, same.nodes.trans nodes⟩
  exact removed.then_own (OwnWork.setEntry i _ _)

theorem State.repairRemoved_ports : (s.repairRemoved i b f).mp0 = s.mp0 ∧ (s.repairRemoved i b f).mp1 = s.mp1 ∧
    (s.repairRemoved i b f).slot .dataLoss = s.slot .dataLoss ∧ (s.repairRemoved i b f).timeBase = s.timeBase := by
  obtain ⟨-, mp0, mp1, slots, timeBase⟩ := s.removeEntry_fields b
  have same := (s.removeEntry b).offer_same { s.stamped .holderCheck with block := some b, tt := some i }
  have slot := (s.removeEntry b).offer_slot { s.stamped .holderCheck with block := some b, tt := some i } .dataLoss
  exact ⟨same.mp0.trans mp0, same.mp1.trans mp1, slot.trans (State.slot_congr slots _), same.timeBase.trans timeBase⟩

theorem State.endRepair_eq {e : TTEntry} (he : s.entry i = some e) (r : Role) (b : Block) : s.endRepair i r e b =
    (s.repairRemoved i b { e with opened := true, reclaimed := e.kind == .reclaim }).settleRepair i r e b := by
  obtain ⟨tt, -⟩ := s.removeEntry_fields b
  unfold State.endRepair
  rw [State.modEntry_of_entry ((State.offer_entry _ _ i).trans ((State.entry_congr tt i).trans he))]
  rfl

end

/-! ### What settles memory (R53, step 3) -/

section
variable {s : State} {i : TTIdx} {r : Role} {e : TTEntry} {b : Block}

theorem State.settleRepair_node (h : (e.bufferOf r).source = some .node) :
    s.settleRepair i r e b = s.writeTT i r (e.bufferOf r).beats := by
  unfold State.settleRepair
  rw [h]

/-- Data of another source, or none without a lost owner, leaves memory as it is. -/
theorem State.settleRepair_unwritten
    (h : (∃ x, (e.bufferOf r).source = some x ∧ x ≠ .node) ∨ (e.bufferOf r).source = none ∧ e.repairNote = none) :
    s.settleRepair i r e b = s := by
  unfold State.settleRepair
  rcases h with ⟨x, hx, other⟩ | ⟨hs, hn⟩
  · rw [hx]
    cases x with
    | node => exact absurd rfl other
    | _ => rfl
  · rw [hs, hn]

theorem State.settleRepair_lost {n : NodeId} (hs : (e.bufferOf r).source = none) (hn : e.repairNote = some n) :
    s.settleRepair i r e b = (s.writeTT i r (Vector.replicate 4 ⟨0#128, true⟩)).offer
      { s.stamped .ownerLost with block := some b, node := some n } := by
  unfold State.settleRepair
  rw [hs, hn]
  rfl

end

section
variable {s : State} {i : TTIdx} {e : TTEntry} {b : Block} (he : s.entry i = some e) (hm : e.memOp = none)
  (ho : e.opened = false)
include he hm ho

/-- R53, R54: a repair whose recalls are resolved ends. -/
theorem State.entryStep_endsRepair {r : Role} (hr : ∀ m ∈ e.recallsOf r, m.resolution ≠ none)
    (hp : r = .primary ∧ e.phase = .repairing ∧ e.block = b ∨
      r = .victim ∧ e.phase = .evicting ∧ ∃ v, e.victim = some v ∧ v.entry.failed = true ∧ v.entry.block = b) :
    s.entryStep i = some (s.endRepair i r e b) := by
  have full := (fullyResolved_iff _).mpr hr
  rcases hp with ⟨rfl, phase, rfl⟩ | ⟨rfl, phase, v, hv, failed, rfl⟩
  · rw [State.entryStep_repairing he hm phase ho]
    exact if_pos full
  · have own : e.recallsOf .victim = v.recalls := by unfold TTEntry.recallsOf; rw [hv]; rfl
    have course : s.endVictim i e v = s.endRepair i .victim e v.entry.block := if_pos failed
    rw [State.entryStep_evicting he hm phase ho hv, ← own, if_pos full, course]

/-- R83: an eviction whose recalls are resolved ends. -/
theorem State.entryStep_endsEviction {v : Victim} (hp : e.phase = .evicting) (hv : e.victim = some v)
    (hf : v.entry.failed = false) (hr : ∀ m ∈ v.recalls, m.resolution ≠ none) :
    s.entryStep i = some (s.endEviction i e v.entry.block) := by
  have course : s.endVictim i e v = s.endEviction i e v.entry.block := if_neg (Bool.eq_false_iff.mp hf)
  rw [State.entryStep_evicting he hm hp ho hv, if_pos ((fullyResolved_iff _).mpr hr), course]

end

/-! ### The end of an eviction (R83) -/

/-- R83: the entry of the victim has been removed, before its data is written. -/
def State.victimRemoved (s : State) (i : TTIdx) (b : Block) (f : TTEntry) : State := (s.removeEntry b).setEntry i (some f)

section
variable {s : State} {i : TTIdx} {e : TTEntry} (he : s.entry i = some e)
include he

theorem State.endEviction_eq {v : Victim} (hv : e.victim = some v) (b : Block) : s.endEviction i e b =
    if v.buffer.source = some .node then (s.victimRemoved i b { e with opened := true }).writeTT i .victim v.buffer.beats
    else s.victimRemoved i b { e with opened := true } := by
  obtain ⟨tt, -⟩ := s.removeEntry_fields b
  have own : e.bufferOf .victim = v.buffer := by unfold TTEntry.bufferOf; rw [hv]; rfl
  unfold State.endEviction State.writeVictim
  rw [State.modEntry_of_entry ((State.entry_congr tt i).trans he), own]
  rfl

end

/-! ### The flow behind a repair or an eviction (R54, R78, R82, R93, R99) -/

/-- R94: a beat whose flags are all set is the written one. -/
theorem mergeBeat_allOnes (base write : Beat) : mergeBeat (BitVec.allOnes 16) base write = write := if_pos rfl

/-- R93, R94: a full byte mask writes the whole block. -/
theorem mergeBlock_allOnes {w : WriteData} (h : w.mask = BitVec.allOnes 64) (base : BlockData) : mergeBlock w base = w.beats := by
  have flags : w.mask.extractLsb' 0 16 = BitVec.allOnes 16 ∧ w.mask.extractLsb' 16 16 = BitVec.allOnes 16 ∧
      w.mask.extractLsb' 32 16 = BitVec.allOnes 16 ∧ w.mask.extractLsb' 48 16 = BitVec.allOnes 16 := by
    rw [h]
    decide
  obtain ⟨f0, f1, f2, f3⟩ := flags
  unfold mergeBlock
  simp only [f0, f1, f2, f3, mergeBeat_allOnes]
  refine Vector.ext fun k hk => ?_
  match k, hk with
  | 0, _ | 1, _ | 2, _ | 3, _ => rfl

/-- R96: an answer without data is not refused for poison. -/
theorem State.refusesPoison_dataless (s : State) {e : TTEntry} (h : e.kind = .req .writeThru ∨ e.kind = .reclaim) :
    s.refusesPoison e = false := by
  refine Bool.eq_false_iff.mpr fun refuses => ?_
  obtain ⟨kind, -⟩ := (State.refusesPoison_iff s e).mp refuses
  rcases h with h | h <;> simp [h] at kind

/-- R90: the upgrade of a block that is not held is served as a FETCH_X. -/
theorem TTEntry.grantsUp_notHeld {e : TTEntry} (h : e.situation = .notHeld) : e.grantsUp = false := by
  refine Bool.eq_false_iff.mpr fun up => ?_
  obtain ⟨-, -, n, tag, -, holds⟩ := (TTEntry.grantsUp_iff e).mp up
  simp [h] at holds

section
variable {s : State} {i : TTIdx} {e : TTEntry} (he : s.entry i = some e) (hs : e.situation = .notHeld)
include he hs

/-- R82: the flow that needs data reads memory. -/
theorem State.beginFlow_reads_notHeld {l : Loc} (hn : e.needsData = true) (hl : e.loc = some l)
    (hw : (s.mp l.port).writesAt l.addr = []) : ∃ u, s.beginFlow i =
      ((s.setEntry i u).modMP l.port fun q => q.queueOp ⟨.tt i .primary, .read, l.addr, false⟩).setEntry i
        (some { e.turned with phase := .reading, memOp := some ⟨.read, .primary, none⟩ }) := by
  rw [State.beginFlow_reads he (by rw [hs]; exact nofun) (TTEntry.conflicts_false fun o => by rw [hs]; exact nofun)
    (TTEntry.planned_of_unheld (.inl hs)) (TTEntry.readsAtStart_iff.mpr ⟨hn, .inl hs⟩) hl]
  exact ⟨_, State.placeRead_queued (State.setEntry_self _ _ _) (by rw [State.setEntry_mp]; exact hw) false⟩

/-- R78: the flow that needs no data has it complete. -/
theorem State.beginFlow_completes_notHeld (hn : e.needsData ≠ true) :
    s.beginFlow i = (s.setEntry i (some e.turned)).complete i :=
  (State.beginFlow_unplanned he (by rw [hs]; exact nofun) (TTEntry.conflicts_false fun o => by rw [hs]; exact nofun)
    (TTEntry.planned_of_unheld (.inl hs))).trans (if_neg fun hr => hn (TTEntry.readsAtStart_iff.mp hr).1)

/-- R93: a WRITE_THRU with a full mask writes its block. -/
theorem State.beginFlow_writeThru {l : Loc} {w : WriteData} (hk : e.kind = .req .writeThru) (hw : e.write = some w)
    (hf : w.mask = BitVec.allOnes 64) (hl : e.loc = some l) : ∃ u, s.beginFlow i =
      ((s.setEntry i u).placeWrite (.tt i .primary) l.port l.addr w.beats).setEntry i
        (some { e.turned with phase := .writing, changed := true, memOp := some ⟨.write, .primary, none⟩ }) := by
  have needless : e.needsData ≠ true := fun needs => by
    have others := TTEntry.needsData_iff.mp needs
    simp [hk, hw, hf] at others
  have kind : e.turned.kind = .req .writeThru := hk
  have writes : ∀ poisoned, e.turned.toWrite poisoned = some w.beats := fun poisoned => by
    rw [TTEntry.toWrite_writeThru kind hw poisoned, mergeBlock_allOnes hf]
  have place : e.turned.loc = some l := hl
  obtain ⟨u, complete⟩ := State.complete_writes (s.setEntry_self i (some e.turned)) place (writes _)
  rw [State.refusesPoison_dataless _ (.inl kind), State.setEntry_setEntry] at complete
  exact ⟨u, (State.beginFlow_completes_notHeld he hs needless).trans complete⟩

/-- R99: a RECLAIM has nothing to write. -/
theorem State.beginFlow_reclaim (hk : e.kind = .reclaim) :
    s.beginFlow i = s.setEntry i (some { e.turned with phase := .responding }) := by
  have needless : e.needsData ≠ true := fun needs => by
    have others := TTEntry.needsData_iff.mp needs
    simp [hk] at others
  have kind : e.turned.kind = .reclaim := hk
  have writes : ∀ poisoned, e.turned.toWrite poisoned = none := fun poisoned =>
    (TTEntry.toWrite_source (.inr (.inr kind)) poisoned).trans (if_neg nofun)
  have complete := State.complete_responds (s.setEntry_self i (some e.turned)) (writes _)
  rw [State.refusesPoison_dataless _ (.inr kind), State.setEntry_setEntry] at complete
  exact (State.beginFlow_completes_notHeld he hs needless).trans complete

end

/-! ### The end of a repair and of an eviction, whatever their data (R53, R83) -/

/-- What a repair's end does to memory, by the data that it collected and the owner that it lost. -/
structure RepairSettled (s : State) (i : TTIdx) (r : Role) (b : Block) (l : Loc) (e f : TTEntry) (t : State) : Prop where
  ended : RepairEnded i b s t
  node : (e.bufferOf r).source = some .node → t.entry i = some { f with memOp := some ⟨.write, r, none⟩ } ∧
    s.PlacesWrite t (.tt i r) l (e.bufferOf r).beats
  kept : (∃ x, (e.bufferOf r).source = some x ∧ x ≠ .node) ∨ (e.bufferOf r).source = none ∧ e.repairNote = none →
    t.entry i = some f ∧ t.mp0 = s.mp0 ∧ t.mp1 = s.mp1
  lost : ∀ n, (e.bufferOf r).source = none → e.repairNote = some n →
    t.entry i = some { f with memOp := some ⟨.write, r, none⟩ } ∧
    s.PlacesWrite t (.tt i r) l (Vector.replicate 4 ⟨0#128, true⟩) ∧
    s.HoldsRecord t ⟨.ownerLost, some n, some b, none, none, none, s.timeBase⟩
  quiet : ¬((e.bufferOf r).source = none ∧ e.repairNote ≠ none) → t.slot .dataLoss = s.slot .dataLoss

section
variable {s : State} {i : TTIdx} {r : Role} {b : Block} {l : Loc} {e f : TTEntry} (hc : s.DirectoryCanonical)
include hc

/-- R53: memory is settled. -/
theorem State.settleRepair_settled (hl : f.locOf r = some l) :
    RepairSettled s i r b l e f ((s.repairRemoved i b f).settleRepair i r e b) := by
  have removed : RepairEnded i b s (s.repairRemoved i b f) := State.repairRemoved_ended f hc
  obtain ⟨mp0, mp1, loss, time⟩ := State.repairRemoved_ports (s := s) (i := i) (b := b) f
  have entry : (s.repairRemoved i b f).entry i = some f := State.setEntry_self _ _ _
  cases hs : (e.bufferOf r).source with
  | some x =>
    by_cases hx : x = .node
    · subst hx
      have wrote := State.writeTT_wrote entry hl (e.bufferOf r).beats
      rw [State.settleRepair_node hs]
      refine ⟨removed.then_own wrote.own, fun _ => ⟨wrote.entry, wrote.places_from mp0 mp1⟩, fun h => ?_, fun n h => ?_,
        fun _ => (State.slot_congr wrote.own.slots _).trans loss⟩
      · simp [hs] at h
      · rw [hs] at h
        cases h
    · rw [State.settleRepair_unwritten (.inl ⟨x, hs, hx⟩)]
      refine ⟨removed, fun h => ?_, fun _ => ⟨entry, mp0, mp1⟩, fun n h => ?_, fun _ => loss⟩ <;> rw [hs] at h
      · exact absurd (Option.some.inj h) hx
      · cases h
  | none =>
    cases hn : e.repairNote with
    | none =>
      rw [State.settleRepair_unwritten (.inr ⟨hs, hn⟩)]
      refine ⟨removed, fun h => ?_, fun _ => ⟨entry, mp0, mp1⟩, fun n _ h => ?_, fun _ => loss⟩
      · rw [hs] at h
        cases h
      · rw [hn] at h
        cases h
    | some n =>
      have wrote := State.writeTT_wrote entry hl (Vector.replicate 4 ⟨0#128, true⟩)
      have slots := (State.slot_congr wrote.own.slots .dataLoss).trans loss
      have stamp : { (s.repairRemoved i b f).stamped .ownerLost with block := some b, node := some n } =
          (⟨.ownerLost, some n, some b, none, none, none, s.timeBase⟩ : CaptureRecord) := by
        unfold State.stamped
        rw [time]
      rw [State.settleRepair_lost hs hn, stamp]
      refine ⟨(removed.then_own wrote.own).then_offer _, fun h => ?_, fun h => ?_, fun m _ hm => ?_,
        fun h => absurd ⟨hs, by rw [hn]; exact nofun⟩ h⟩
      · rw [hs] at h
        cases h
      · simp [hs, hn] at h
      · obtain rfl : n = m := Option.some.inj (hn.symm.trans hm)
        refine ⟨(State.offer_entry _ _ i).trans wrote.entry,
          (wrote.places_from mp0 mp1).congr (fun _ => rfl) (State.offer_same _ _).mp, ?_⟩
        exact (State.offer_holds _ _).before (congrArg CaptureSlot.record slots.symm)

end

/-- What an eviction's end leaves, and whether it writes. -/
structure EvictionEnded (s : State) (i : TTIdx) (v : Victim) (l : Loc) (f : TTEntry) (t : State) : Prop where
  removes : s.Removes t v.entry.block
  node : v.buffer.source = some .node → t.entry i = some { f with memOp := some ⟨.write, .victim, none⟩ } ∧
    s.PlacesWrite t (.tt i .victim) l v.buffer.beats
  kept : v.buffer.source ≠ some .node → t.entry i = some f ∧ t.mp0 = s.mp0 ∧ t.mp1 = s.mp1
  own : OwnWork i (s.removeEntry v.entry.block) t

/-- R83: the removal of the victim's entry and the write of its data. -/
theorem State.endEviction_ended {s : State} {i : TTIdx} {e : TTEntry} {v : Victim} {l : Loc} (hc : s.DirectoryCanonical)
    (he : s.entry i = some e) (hv : e.victim = some v) (hl : v.loc = some l) :
    EvictionEnded s i v l { e with opened := true } (s.endEviction i e v.entry.block) := by
  obtain ⟨-, mp0, mp1, -, -⟩ := s.removeEntry_fields v.entry.block
  have removed := State.removeEntry_removes s v.entry.block hc
  have cleared : OwnWork i (s.removeEntry v.entry.block) (s.victimRemoved i v.entry.block { e with opened := true }) :=
    OwnWork.setEntry i _ _
  have entry : (s.victimRemoved i v.entry.block { e with opened := true }).entry i = some { e with opened := true } :=
    State.setEntry_self _ _ _
  have place : TTEntry.locOf { e with opened := true } .victim = some l := by
    unfold TTEntry.locOf
    dsimp only
    rw [hv]
    exact hl
  rw [State.endEviction_eq he hv]
  by_cases hs : v.buffer.source = some .node
  · have wrote := State.writeTT_wrote entry place v.buffer.beats
    have own := cleared.trans wrote.own
    rw [if_pos hs]
    exact ⟨removed.congr own.dir, fun _ => ⟨wrote.entry, wrote.places_from mp0 mp1⟩, fun h => absurd hs h, own⟩
  · rw [if_neg hs]
    exact ⟨removed.congr cleared.dir, fun h => absurd h hs, fun _ => ⟨entry, mp0, mp1⟩, cleared⟩

/-- Settles O42: the recall set as it is formed and sent, the waits of an entry, the ends of a repair and of an eviction by the
data that they collected, and the flow behind them. -/
theorem repairsAndEvictions : Obligations.RepairsAndEvictions := by
  refine ⟨fun s i b w d e he => ⟨fun hf => State.afterLookup_repairs he hf b w, fun hf => if_neg (Bool.eq_false_iff.mp hf), ?_⟩,
    fun s i r b ms e he hr hd hf => ?_, fun s i r b ms e f v he hf => ?_, fun s i r b n k hf => State.sendRecall_unfenced hf i r b,
    fun s i => State.entryStep_none, fun s i e he => ⟨fun o => State.entryStep_atWork he, fun hm hp ho h => ?_,
      fun v hm hp ho hv h => ?_, fun hm hp => State.entryStep_opened he hm hp⟩,
    fun s i r e b l f hc he hm ho hr hp hl hf => ?_, fun s i e v l hc he hm ho hp hv hf hr hl => ?_,
    fun e w d => ⟨TTEntry.situation_failed, TTEntry.situation_victim⟩,
    fun s i e f he hs hf => ⟨fun l hk hl hw => ?_, fun l w hk hw hm hl => ?_, fun hk => ?_⟩⟩
  · rintro v rfl
    rw [State.afterLookup_victim he]
    exact ⟨fun hf => State.recallVictim_failed (s := s) (t := s.setEntry i _) rfl i hf, fun hf => State.recallVictim_held _ i hf⟩
  · have sent := State.formRecalls_sent he hr hd hf
    refine ⟨_, sent.entry, TTEntry.foldl_sending_formed hr _ ms, ?_, sent.port, sent.dir, sent.slots⟩
    rw [TTEntry.foldl_sending_held, TTEntry.setRecalls_held]
  · rw [State.formRecalls_formed he]
    rcases hf with ⟨rfl, rfl⟩ | ⟨rfl, hv, rfl⟩
    · rfl
    · have formed : e.setRecalls .victim (ms.map fun m => Member.formed m.1 m.2) =
          { e with victim := some { v with recalls := ms.map fun m => Member.formed m.1 m.2 } } := by
        unfold TTEntry.setRecalls
        rw [hv]
        rfl
      rw [formed]
      rfl
  · exact (State.entryStep_repairing he hm hp ho).trans (if_neg (fullyResolved_false h))
  · exact (State.entryStep_evicting he hm hp ho hv).trans (if_neg (fullyResolved_false h))
  · have place : f.locOf r = some l := by
      subst hf
      cases r <;> exact hl
    have settled : RepairSettled s i r b l e f _ := State.settleRepair_settled (i := i) (b := b) (e := e) hc place
    have step := State.entryStep_endsRepair he hm ho hr hp
    rw [State.endRepair_eq he, ← hf] at step
    obtain ⟨ended, node, kept, lost, quiet⟩ := settled
    exact ⟨_, step, ended.removes, ended.record, node, fun x hx other => kept (.inl ⟨x, hx, other⟩), lost,
      fun h hn => kept (.inr ⟨h, hn⟩), quiet, ended.others, ended.hold, ended.nodes⟩
  · have ended := State.endEviction_ended hc he hv hl
    obtain ⟨tt, -, -, slots, -⟩ := s.removeEntry_fields v.entry.block
    obtain ⟨ports, hold, nodes⟩ := s.removeEntry_besides v.entry.block
    obtain ⟨removes, node, kept, own⟩ := ended
    exact ⟨_, State.entryStep_endsEviction he hm ho hp hv hf hr, removes, node, kept,
      fun j hj => (own.others j hj).trans (State.ttSlot_congr tt j), own.slots.trans slots, own.ports.trans ports,
      own.hold.trans hold, own.nodes.trans nodes⟩
  · have needs : e.needsData = true := by
      have up := TTEntry.grantsUp_notHeld hs
      rw [TTEntry.needsData_iff]
      rcases hk with hk | hk | hk | hk | hk
      · exact .inl hk
      · exact .inr (.inl hk)
      · exact .inr (.inr (.inl ⟨hk, up⟩))
      · exact .inr (.inr (.inr (.inl hk)))
      · exact .inr (.inr (.inr (.inr hk)))
    obtain ⟨u, reads⟩ := State.beginFlow_reads_notHeld he hs needs hl hw
    rw [reads, hf, State.setEntry_mp, State.modMP_mp, if_pos rfl]
    exact ⟨State.setEntry_self _ _ _, by rw [MemPort.queueOp, State.setEntry_mp]⟩
  · obtain ⟨u, writes⟩ := State.beginFlow_writeThru he hs hk hw hm hl
    rw [writes, hf]
    exact ⟨State.setEntry_self _ _ _, ((s.setEntry i u).placeWrite_places _ l w.beats).congr
      (fun p => (State.setEntry_mp _ _ _ p).symm) (State.setEntry_mp _ _ _)⟩
  · rw [State.beginFlow_reclaim he hs hk, hf]
    exact ⟨State.setEntry_self _ _ _, rfl, rfl⟩

end Sys2Proof.Machine
end

section
/-! The capacities of the Control Queue and the Hold Queue (R72, R176). -/

namespace Sys2Proof.Machine

/-- Queues that have grown no longer stay within their capacities. -/
theorem State.QueuesBounded.mono {s t : State} (h : s.QueuesBounded) (control : t.controlQ.length ≤ s.controlQ.length)
    (hold : t.hold.length ≤ s.hold.length) : t.QueuesBounded := by
  obtain ⟨controlFits, holdFits⟩ := h
  exact ⟨control.trans controlFits, hold.trans holdFits⟩

/-- The capacities bound the two queues alone. -/
theorem State.QueuesBounded.congr {s t : State} (h : s.QueuesBounded) (control : t.controlQ = s.controlQ)
    (hold : t.hold = s.hold) : t.QueuesBounded :=
  h.mono (congrArg _ control).le (congrArg _ hold).le

/-- R142: a fence only removes requests from the two queues. -/
theorem State.QueuesBounded.fence {s : State} (h : s.QueuesBounded) (n : NodeId) (why : FenceReason) :
    (s.fence n why).QueuesBounded := by
  have fenced := s.fence_fenced n why
  refine h.mono ?_ ?_
  · rw [fenced.controlQ]
    exact List.length_filter_le _ _
  · rw [fenced.hold]
    exact List.length_filter_le _ _

/-- R176: a request joins a Control Queue that has room. -/
theorem State.QueuesBounded.ask {s : State} (h : s.QueuesBounded) (c : ControlReq)
    (room : s.controlQ.length < Config.controlCapacity) : { s with controlQ := s.controlQ ++ [c] }.QueuesBounded := by
  obtain ⟨-, holdFits⟩ := h
  refine ⟨?_, holdFits⟩
  rw [List.length_append, List.length_singleton]
  exact room

/-- R72: a request joins a Hold Queue that has room. -/
theorem State.QueuesBounded.hold {s : State} (h : s.QueuesBounded) (x : HoldEntry)
    (room : s.hold.length < Config.holdCapacity) : { s with hold := s.hold ++ [x] }.QueuesBounded := by
  obtain ⟨controlFits, -⟩ := h
  refine ⟨controlFits, ?_⟩
  rw [List.length_append, List.length_singleton]
  exact room

/-- Every update of the commands keeps the two queues within their capacities: two lengthen a queue, each one with room. -/
theorem Deed.queuesBounded {fr : Prop} {s t : State} (d : Deed fr s t) : s.QueuesBounded → t.QueuesBounded := by
  induction d with
  | work w =>
    have calm := Calm.of_work w
    exact fun h => h.mono (congrArg _ calm.controlQ).le calm.hold
  | trans _ _ h k => exact fun x => k (h x)
  | aside e =>
    simp only [State.guarded, Prod.mk.injEq] at e
    obtain ⟨-, -, -, -, -, -, hold, -, -, control⟩ := e
    exact fun h => h.congr control hold
  | fence s n why => exact fun h => h.fence n why
  | control s l le => exact fun h => h.mono le le_rfl
  | ask s c room => exact fun h => h.ask c room
  | hold s x room => exact fun h => h.hold x room
  | accept | taken | outbound | link | record | makeActive | quiesce | release | close | write | opened | slot | free
  | leave => exact fun h => h.congr rfl rfl

/-- R77, R188: both resets empty the two queues. -/
theorem State.queuesBounded_empty {s : State} (control : s.controlQ = []) (hold : s.hold = []) : s.QueuesBounded := by
  unfold State.QueuesBounded
  rw [control, hold]
  exact ⟨Nat.zero_le _, Nat.zero_le _⟩

/-- Settles O10: by induction over the updates of which a command is made; only a request that finds room lengthens a queue. -/
theorem queuesStayBounded : Obligations.QueuesStayBounded := fun s t hs h =>
  step_keeps (P := State.QueuesBounded) (fun _ _ k => k.congr rfl rfl) (fun _ _ _ d => d.queuesBounded)
    (fun _ _ => State.queuesBounded_empty rfl rfl) (fun _ => State.queuesBounded_empty rfl rfl) (fun _ _ k => k.congr rfl rfl)
    s t hs h

end Sys2Proof.Machine
end

section
/-! The expiry of a recall deadline (chapter 4, section 4.5; R66). -/

namespace Sys2Proof.Machine

/-! ### Members whose deadline has been reached -/

/-- R66: the unresolved member for a node in the recall set of a role has a deadline that has been reached. -/
def State.overdue (s : State) (e : TTEntry) (n : NodeId) (r : Role) : Bool :=
  ((e.openMember r n).bind (·.deadline)).any s.reached

section
variable {s : State} {e : TTEntry} {n : NodeId} {r : Role}

theorem State.overdue_iff : s.overdue e n r = true ↔
    ∃ m d, e.openMember r n = some m ∧ m.deadline = some d ∧ s.reached d = true := by
  unfold State.overdue
  rw [Option.any_eq_true]
  constructor
  · rintro ⟨d, hd, reached⟩
    obtain ⟨m, hm, hd⟩ := Option.bind_eq_some_iff.mp hd
    exact ⟨m, d, hm, hd, reached⟩
  · rintro ⟨m, d, hm, hd, reached⟩
    exact ⟨d, Option.bind_eq_some_iff.mpr ⟨m, hm, hd⟩, reached⟩

/-- The search for an expired member, the primary recall set before the victim's. -/
theorem State.expired_eq : s.expired e n = [Role.primary, Role.victim].find? (s.overdue e n) := by
  unfold State.expired
  congr 1
  funext r
  unfold State.overdue
  split
  · next d hd => rw [hd]; rfl
  · next hd => rw [hd]; rfl

theorem State.expired_none (h : ∀ r, s.overdue e n r = false) : s.expired e n = none := by
  rw [State.expired_eq, List.find?_eq_none]
  intro r _
  rw [h r]
  exact nofun

/-- The member of a role has expired; of two, the primary recall set's is named. -/
theorem State.expired_some (h : s.overdue e n r = true) (first : r = .victim → s.overdue e n .primary = false) :
    s.expired e n = some r := by
  rw [State.expired_eq]
  cases r with
  | primary => exact List.find?_cons_of_pos h
  | victim =>
    rw [List.find?_cons_of_neg (by rw [first rfl]; exact nofun)]
    exact List.find?_cons_of_pos h

end

/-! ### The expiry -/

theorem exec_recallDeadlineExpiry {s : State} (hr : s.running = true) (i : TTIdx) (n : NodeId) :
    exec (.recallDeadlineExpiry i n) s = .next (s.beginStep.expireRecall i n) := run_running (fun s => s.expireRecall i n) s hr

/-- No entry, or no member of it whose deadline has been reached. -/
theorem State.expireRecall_none {s : State} {i : TTIdx} {n : NodeId}
    (h : ∀ e, s.entry i = some e → s.expired e n = none) : s.expireRecall i n = s := by
  unfold State.expireRecall
  split
  · rfl
  · next e he => rw [h e he]

/-- R66: the expiry, captured, of the deadline of an ACTIVE or QUIESCING node fences it; the offer of the record has left its
node record as it was. -/
theorem State.expireRecall_fences {s : State} {i : TTIdx} {n : NodeId} {e : TTEntry} {r : Role} (he : s.entry i = some e)
    (hx : s.expired e n = some r) (hc : (s.node n).state.counted = true) : s.expireRecall i n =
      ((s.offer ⟨.recallTimeout, some n, e.blockOf r, none, some i, none, s.timeBase⟩).fence n .recallTimeout).settle := by
  have counted : ((s.offer ⟨.recallTimeout, some n, e.blockOf r, none, some i, none, s.timeBase⟩).node n).state.counted = true := by
    rw [State.node_congr (s.offer_quiet _).nodes n]
    exact hc
  unfold State.expireRecall
  simp only [he, hx, State.stamped, counted, if_true]

/-- R66, R142: what the capture of a record and the fence behind it leave of the node, its port and the record, once the
bridge's own work is done. -/
theorem Fenced.settle_captured {s u t : State} {n : NodeId} {why : FenceReason} {x : CaptureRecord} (h : Fenced n why u t)
    (quiet : Quiet s u) (record : s.HoldsRecord u x) : t.settle.node n = (s.node n).fence why ∧
      (t.settle.port n).requests = [] ∧ (t.settle.port n).returns = [] ∧ (t.settle.port n).requestCredits = 0 ∧
      (t.settle.port n).returnCredits = 0 ∧ s.HoldsRecord t.settle x := by
  obtain ⟨node, requests, returns, requestCredits, returnCredits, -⟩ := h.settle
  rw [State.node_congr quiet.nodes n] at node
  exact ⟨node, requests, returns, requestCredits, returnCredits, (record.mono h.record).mono (Calm.settle t).record⟩

/-- Settles O30: the search finds the role of the member that has expired; the fence is `Fenced`, and the bridge's own work
behind it leaves the fenced node and the locked record as they are. -/
theorem recallExpiryFences : Obligations.RecallExpiryFences := by
  refine ⟨fun s i n hr h => ?_, fun s i n e r m d hr he hm hd reached first hc => ?_⟩
  · have early : ∀ e, s.entry i = some e → ∀ r, s.overdue e n r = false := fun e he r =>
      Bool.eq_false_iff.mpr fun overdue => by
        obtain ⟨m, d, hm, hd, reached⟩ := State.overdue_iff.mp overdue
        exact Bool.false_ne_true ((h e r m d he hm hd).symm.trans reached)
    rw [exec_recallDeadlineExpiry hr, State.expireRecall_none (s := s.beginStep) fun e he => State.expired_none (early e he)]
  · have primary : r = .victim → s.overdue e n .primary = false := fun hv =>
      Bool.eq_false_iff.mpr fun overdue => by
        obtain ⟨x, c, hx, hc, reached⟩ := State.overdue_iff.mp overdue
        exact Bool.false_ne_true ((first hv x c hx hc).symm.trans reached)
    have expired : s.beginStep.expired e n = some r := State.expired_some (State.overdue_iff.mpr ⟨m, d, hm, hd, reached⟩) primary
    rw [exec_recallDeadlineExpiry hr, State.expireRecall_fences (s := s.beginStep) he expired hc]
    have record := s.beginStep.offer_holds ⟨.recallTimeout, some n, e.blockOf r, none, some i, none, s.timeBase⟩
    have quiet := s.beginStep.offer_quiet ⟨.recallTimeout, some n, e.blockOf r, none, some i, none, s.timeBase⟩
    refine ⟨_, rfl, rfl, ?_⟩
    simp only [show s.beginStep.timeBase = s.timeBase from rfl]
    generalize s.beginStep.offer _ = u at record quiet
    obtain ⟨node, requests, returns, requestCredits, returnCredits, record⟩ :=
      (u.fence_fenced n .recallTimeout).settle_captured quiet record
    exact ⟨node, requests, returns, requestCredits, returnCredits, record.before rfl⟩

end Sys2Proof.Machine
end

section
/-! The merged block of a WRITE_THRU, byte by byte (chapter 5, section 5.6; R94). -/

namespace Sys2Proof.Machine

/-! ### One beat -/

section
variable (flags : BitVec 16) (base write : Beat)

theorem mergeBeat_zero : mergeBeat 0#16 base write = base := (if_neg (by decide)).trans (if_pos rfl)

/-- R94: a beat whose flags are neither all set nor all clear takes its bits by the bytes that the flags select. -/
theorem mergeBeat_mixed {flags : BitVec 16} (hs : ¬flags = BitVec.allOnes 16) (hc : ¬flags = 0#16) :
    mergeBeat flags base write = ⟨(write.data &&& byteSelect flags) ||| (base.data &&& ~~~(byteSelect flags)),
      base.poison || write.poison⟩ := (if_neg hs).trans (if_neg hc)

/-- R94: each bit of a merged beat is the write's where the flag of its byte is set, and the base's where it is clear. -/
theorem mergeBeat_getLsbD {j : Nat} (hj : j < 128) : (mergeBeat flags base write).data.getLsbD j =
    if flags.getLsbD (j / 8) = true then write.data.getLsbD j else base.data.getLsbD j := by
  by_cases hs : flags = BitVec.allOnes 16
  · have flag : flags.getLsbD (j / 8) = true := by
      rw [hs, BitVec.getLsbD_allOnes]
      exact decide_eq_true (by omega)
    rw [hs, mergeBeat_allOnes, if_pos (hs ▸ flag)]
  · by_cases hc : flags = 0#16
    · rw [hc, mergeBeat_zero, BitVec.getLsbD_zero, if_neg Bool.false_ne_true]
    · rw [mergeBeat_mixed base write hs hc]
      simp only [BitVec.getLsbD_or, BitVec.getLsbD_and, BitVec.getLsbD_not, byteSelect_getLsbD flags j hj, hj, decide_true,
        Bool.true_and]
      cases flags.getLsbD (j / 8) <;> simp

/-- R94: each byte of a merged beat. -/
theorem mergeBeat_byte (k : Fin 16) : (mergeBeat flags base write).data.extractLsb' (8 * k.val) 8 =
    if flags.getLsbD k.val = true then write.data.extractLsb' (8 * k.val) 8 else base.data.extractLsb' (8 * k.val) 8 := by
  refine BitVec.eq_of_getLsbD_eq fun j hj => ?_
  have byte : (8 * k.val + j) / 8 = k.val := by omega
  rw [apply_ite (fun x : BitVec 8 => x.getLsbD j)]
  simp only [BitVec.getLsbD_extractLsb', mergeBeat_getLsbD flags base write (show 8 * k.val + j < 128 by omega), byte, hj,
    decide_true, Bool.true_and]

end

/-! ### The flags of a beat, and the block -/

/-- A flag of the byte mask, as a flag of its beat. -/
theorem beatFlag (mask : BitVec 64) (b : Fin 4) (k : Fin 16) :
    (mask.extractLsb' (16 * b.val) 16).getLsbD k.val = mask.getLsbD (16 * b.val + k.val) := by
  rw [BitVec.getLsbD_extractLsb', decide_eq_true k.isLt, Bool.true_and]

section
variable {mask : BitVec 64} {b : Fin 4}

theorem beatFlags_allOnes (h : ∀ k : Fin 16, mask.getLsbD (16 * b.val + k.val) = true) :
    mask.extractLsb' (16 * b.val) 16 = BitVec.allOnes 16 :=
  BitVec.eq_of_getLsbD_eq fun k hk => by
    rw [beatFlag mask b ⟨k, hk⟩, h, BitVec.getLsbD_allOnes, decide_eq_true hk]

theorem beatFlags_zero (h : ∀ k : Fin 16, mask.getLsbD (16 * b.val + k.val) = false) :
    mask.extractLsb' (16 * b.val) 16 = 0#16 :=
  BitVec.eq_of_getLsbD_eq fun k hk => by rw [beatFlag mask b ⟨k, hk⟩, h, BitVec.getLsbD_zero]

end

/-- R94: the block is merged beat by beat. -/
theorem mergeBlock_beat (w : WriteData) (base : BlockData) (b : Fin 4) :
    (mergeBlock w base)[b] = mergeBeat (w.mask.extractLsb' (16 * b.val) 16) base[b] w.beats[b] := by
  match b with
  | 0 | 1 | 2 | 3 => rfl

/-- Settles O44: the bytes by `mergeBeat_byte`, the mark by the three cases of a beat's flags. -/
theorem mergedBlock : Obligations.MergedBlock := by
  intro w base b
  simp only [mergeBlock_beat]
  refine ⟨fun k => ?_, fun hs => ?_, fun hc => ?_, ?_⟩
  · rw [mergeBeat_byte, beatFlag]
  · rw [beatFlags_allOnes hs, mergeBeat_allOnes]
  · rw [beatFlags_zero hc, mergeBeat_zero]
  · rintro ⟨k, hk⟩ ⟨m, hm⟩
    rw [mergeBeat_mixed]
    · intro hs
      rw [← beatFlag, hs, BitVec.getLsbD_allOnes, decide_eq_true m.isLt] at hm
      exact Bool.false_ne_true hm.symm
    · intro hc
      rw [← beatFlag, hc, BitVec.getLsbD_zero] at hk
      exact Bool.false_ne_true hk

end Sys2Proof.Machine
end

section
/-! The recalls of each flow, by its kind and its situation (chapter 5; R84 to R93, R99). -/

namespace Sys2Proof.Machine

/-! ### Recalls of a set of nodes -/

/-- The holders but one, in ascending order. -/
theorem NodeSet.toList_del (hs : NodeSet) (n : NodeId) :
    (NodeSet.del hs n).toList = allNodes.filter fun k => NodeSet.has hs k && k != n := by
  refine List.filter_congr fun k _ => ?_
  rw [Bool.eq_iff_iff, NodeSet.has_del_iff, Bool.and_eq_true, bne_iff_ne]

section
variable {e : TTEntry} {n : NodeId} {tag : ReqTag}

/-! ### The recalls by the situation -/

/-- R85, R88, R92: a SHARED block is read beside its holders. -/
theorem TTEntry.planned_shared_reads {hs : NodeSet} (h : e.situation = .shared hs)
    (hk : e.kind = .req .fetchS ∨ e.kind = .req .readOnce) : e.planned = [] := by
  unfold TTEntry.planned
  rcases hk with hk | hk <;> rw [hk, h]

/-- R88, R90: every holder but the requester. -/
theorem TTEntry.planned_shared_owns {hs : NodeSet} (h : e.situation = .shared hs)
    (hk : e.kind = .req .fetchX ∨ e.kind = .req .upgrade) (hr : e.requester = some (n, tag)) :
    e.planned = (allNodes.filter fun k => hs.has k && k != n).map fun k => (k, .invalidate) := by
  rw [← NodeSet.toList_del]
  unfold TTEntry.planned
  rcases hk with hk | hk <;> (rw [hk, h, hr]; rfl)

/-- R93, R99: every holder. -/
theorem TTEntry.planned_shared_clears {hs : NodeSet} (h : e.situation = .shared hs)
    (hk : e.kind = .req .writeThru ∨ e.kind = .reclaim) :
    e.planned = (allNodes.filter fun k => hs.has k).map fun k => (k, .invalidate) := by
  unfold TTEntry.planned
  rcases hk with hk | hk <;> (rw [hk, h]; rfl)

/-- R86, R92: an owner that may keep a copy. -/
theorem TTEntry.planned_owned_downgrades {o : NodeId} (h : e.situation = .owned o)
    (hk : e.kind = .req .fetchS ∨ e.kind = .req .readOnce) : e.planned = [(o, .downgrade)] := by
  unfold TTEntry.planned
  rcases hk with hk | hk <;> rw [hk, h]

/-- R89, R93, R99: an owner that gives the block up. -/
theorem TTEntry.planned_owned_invalidates {o : NodeId} (h : e.situation = .owned o)
    (hk : e.kind = .req .fetchX ∨ e.kind = .req .writeThru ∨ e.kind = .reclaim) : e.planned = [(o, .invalidate)] := by
  unfold TTEntry.planned
  rcases hk with hk | hk | hk <;> rw [hk, h]

/-- R90: the owner, unless it is the requester. -/
theorem TTEntry.planned_owned_upgrade {o : NodeId} (h : e.situation = .owned o) (hk : e.kind = .req .upgrade)
    (hr : e.requester = some (n, tag)) : e.planned = if o = n then [] else [(o, .invalidate)] := by
  unfold TTEntry.planned
  rw [hk, h]
  simp only [TTEntry.requestedBy_eq hr, beq_iff_eq, @eq_comm _ n o]

/-- R100: a POISON recalls nobody. -/
theorem TTEntry.planned_poison (h : e.kind = .poison) : e.planned = [] := by
  unfold TTEntry.planned
  rw [h]

/-! ### The owner's own request (R87) -/

theorem TTEntry.conflicts_iff : e.conflicts = true ↔ (e.kind = .req .fetchS ∨ e.kind = .req .fetchX) ∧
    ∃ o g, e.situation = .owned o ∧ e.requester = some (o, g) := by
  unfold TTEntry.conflicts
  rw [Bool.and_eq_true, Bool.or_eq_true, beq_iff_eq, beq_iff_eq]
  refine and_congr_right fun _ => ?_
  cases e.situation with
  | notHeld => simp
  | shared hs => simp
  | owned o => simp [TTEntry.requestedBy_iff]
  | setBusy => simp

/-- R87: a conflict is decided in the entry. -/
theorem State.enterFlow_conflicts (s : State) (i : TTIdx) (h : e.conflicts = true) : s.enterFlow i e =
    s.modEntry i fun x => { x with phase := .responding, verdict := some .ownerConflict, changed := true } := by
  obtain ⟨-, o, owned⟩ := TTEntry.conflicts_owned h
  unfold State.enterFlow
  rw [if_neg (by rw [owned]; exact nofun), if_pos h]

end

/-- Settles O40: situation by situation, each from the lemma about the flow's recalls there; a conflict changes its entry
alone. -/
theorem recallsAreThoseOfTheFlow : Obligations.RecallsAreThoseOfTheFlow := by
  intro e n tag
  refine ⟨TTEntry.planned_of_unheld,
    fun hs h => ⟨TTEntry.planned_shared_reads h, TTEntry.planned_shared_owns h, TTEntry.planned_shared_clears h⟩,
    fun o h => ⟨fun hk _ _ => TTEntry.planned_owned_downgrades h (.inl hk),
      fun hk _ _ => TTEntry.planned_owned_invalidates h (.inl hk), fun hk => TTEntry.planned_owned_downgrades h (.inr hk),
      fun hk => TTEntry.planned_owned_invalidates h (.inr hk), TTEntry.planned_owned_upgrade h⟩,
    TTEntry.planned_poison, TTEntry.conflicts_iff, fun s i x hc hx => ?_⟩
  rw [State.enterFlow_conflicts s i hc, State.modEntry_of_entry hx]
  exact ⟨State.setEntry_self _ _ _, rfl, rfl, rfl⟩

end Sys2Proof.Machine
end

section
/-! The failures of a write in flight: superseded, first and second, and their ends at the owner (chapter 5, R95; chapter 6, R115;
chapter 7, section 7.4; R82, R131, R132). -/

namespace Sys2Proof.Machine

/-! ### Commands for an operation in flight (R121, R131) -/

section
variable {s : State} {p : MPort} {t : MemTag} {op : MemOp} {d : Time} {got : Vector (Option Beat) 4}

/-- R121: what a response meets under a tag in flight. -/
theorem State.tagView_flight (h : (s.mp p).tags[t] = .inFlight op d got) : s.tagView p t.val = .flight t op d got := by
  have tag : tagOf t.val = some t := dif_pos t.isLt
  unfold State.tagView
  simp only [tag, h]

section
variable (h : (s.mp p).tags[t] = .inFlight op d got) (hk : op.kind = .write)
include h hk

theorem State.memFault_write : s.memFault p t.val = s.failWrite p t op .writeFault .free := by
  unfold State.memFault
  simp only [State.tagView_flight h, hk]

theorem State.memRefuse_write : s.memRefuse p t.val = s.failWrite p t op .portRefused .free := by
  unfold State.memRefuse
  simp only [State.tagView_flight h, hk]

theorem State.memExpire_write (hr : s.reached d = true) :
    s.memExpire p t = (s.failWrite p t op .writeTimeout (.stale .write 0#4)).settle := by
  unfold State.memExpire
  simp only [h, hk, hr, if_true]

end

theorem exec_mfault (hr : s.running = true) (p : MPort) (k : Nat) : exec (.mfault p k) s = .next (s.beginStep.memFault p k).settle :=
  run_running (fun s => (s.memFault p k).settle) s hr

theorem exec_mrefuse (hr : s.running = true) (p : MPort) (k : Nat) :
    exec (.mrefuse p k) s = .next (s.beginStep.memRefuse p k).settle :=
  run_running (fun s => (s.memRefuse p k).settle) s hr

theorem exec_memoryDeadlineExpiry (hr : s.running = true) (p : MPort) (t : MemTag) :
    exec (.memoryDeadlineExpiry p t) s = .next (s.beginStep.memExpire p t) :=
  run_running (fun s => s.memExpire p t) s hr

end

/-! ### The records of a Memory Port (R164) -/

/-- R164: the record of a fault rests on the owner's own record. -/
theorem State.memRecord_congr {s u : State} (tt : u.tt = s.tt) (wb : u.wb = s.wb) (time : u.timeBase = s.timeBase)
    (why : CaptureReason) (p : MPort) (t : MemTag) (o : OpOwner) : u.memRecord why p t o =
      ⟨why, s.opWriter o, s.opBlock o, some (p, t), o.ttIndex, none, s.timeBase⟩ := by
  have entry : ∀ g, u.wbEntry g = s.wbEntry g := fun g => by unfold State.wbEntry; rw [wb]
  have writer : u.opWriter o = s.opWriter o := by
    cases o with
    | tt i r => rfl
    | wb g => unfold State.opWriter; simp only [entry]
  have block : u.opBlock o = s.opBlock o := by
    cases o with
    | tt i r => unfold State.opBlock; simp only [State.entry_congr tt]
    | wb g => unfold State.opBlock; simp only [entry]
  unfold State.memRecord State.stamped
  rw [writer, block, time]

/-! ### The end of a write at its owner (R82, R95, R115) -/

/-- R95: a final failure decides the FAULT of a WRITE_THRU in WRITING. -/
theorem TTEntry.writeEnded_eq (e : TTEntry) (success : Bool) : e.writeEnded success = { e with
    memOp := none
    verdict := if success = false ∧ e.phase = .writing ∧ e.kind = .req .writeThru then some .writeFailed else e.verdict } := by
  simp [TTEntry.writeEnded, and_assoc]

section
variable {s : State} {g : WBIdx} {e : WBEntry} (he : s.wbEntry g = some e)
include he

/-- R115: a fenced Writeback Buffer entry leaves the buffer. -/
theorem State.deliverWrite_fenced (hf : e.fenced = true) (success : Bool) : s.deliverWrite (.wb g) success = s.setWB g none := by
  unfold State.deliverWrite State.donePending
  simp only [he, hf, if_true]

/-- R115: a Writeback Buffer entry answers DONE. -/
theorem State.deliverWrite_answers (hf : e.fenced = false) (success : Bool) : s.deliverWrite (.wb g) success =
    (s.setWB g (some { e with state := .donePending })).modPort e.writer fun p =>
      { p with outbound := p.outbound ++ [⟨.done 0#8 e.block, .wb g⟩] } := by
  unfold State.deliverWrite State.donePending
  simp only [he, hf, Bool.false_eq_true, if_false]
  rfl

end

section
variable (s : State) (o : OpOwner)

/-- The end of a write changes its owner's record and an Outbound Queue. -/
theorem State.deliverWrite_beside (success : Bool) :
    (s.deliverWrite o success).slots = s.slots ∧ ∀ p, (s.deliverWrite o success).mp p = s.mp p := by
  cases o with
  | tt i r => exact ⟨rfl, State.mp_congr rfl rfl⟩
  | wb g =>
    unfold State.deliverWrite State.donePending
    dsimp only
    repeat' split
    all_goals exact ⟨rfl, State.mp_congr rfl rfl⟩

/-- A write that is placed again changes its owner's record. -/
theorem State.noteRetry_beside : (s.noteRetry o).slots = s.slots ∧ ∀ p, (s.noteRetry o).mp p = s.mp p := by
  cases o <;> exact ⟨rfl, State.mp_congr rfl rfl⟩

end

/-- R131: a Writeback Buffer entry returns to QUEUED for its second attempt. -/
theorem State.noteRetry_wbEntry {s : State} {g : WBIdx} {e : WBEntry} (he : s.wbEntry g = some e) :
    (s.noteRetry (.wb g)).wbEntry g =
      some { e with state := .queued, write := e.write.map fun y => { y with second := true } } := by
  unfold State.noteRetry State.noteOp
  dsimp only
  rw [State.setWB_wbEntry, if_pos rfl, State.setWB_wbEntry, if_pos rfl, he]
  rfl

/-! ### The failure captured (R131, R132) -/

/-- A write in flight has failed: its tag has its new state, and records may have been offered. -/
structure WriteFailing (s u : State) (p : MPort) (t : MemTag) (x : TagState) : Prop where
  mp : u.mp p = (s.mp p).setTag t x
  tt : u.tt = s.tt
  wb : u.wb = s.wb
  timeBase : u.timeBase = s.timeBase
  outbound : ∀ n, ∃ ms, (u.port n).outbound = (s.port n).outbound ++ ms

namespace WriteFailing

variable {s u : State} {p : MPort} {t : MemTag} {x : TagState}

theorem tagged (s : State) (p : MPort) (t : MemTag) (x : TagState) : WriteFailing s (s.modMP p fun y => y.setTag t x) p t x :=
  ⟨(State.modMP_mp s p p _).trans (if_pos rfl), State.modMP_tt _ _ _, State.modMP_wb _ _ _, State.modMP_timeBase _ _ _,
    (Gentle.modMP s p _).outbound⟩

theorem offer (h : WriteFailing s u p t x) (r : CaptureRecord) : WriteFailing s (u.offer r) p t x := by
  have same := u.offer_same r
  refine ⟨(same.mp p).trans h.mp, (u.offer_tt r).trans h.tt, same.wb.trans h.wb, same.timeBase.trans h.timeBase, fun n => ?_⟩
  obtain ⟨a, ha⟩ := h.outbound n
  obtain ⟨b, hb⟩ := (Gentle.offer u r).outbound n
  exact ⟨a ++ b, by rw [hb, ha, List.append_assoc]⟩

theorem wbEntry (h : WriteFailing s u p t x) (g : WBIdx) : u.wbEntry g = s.wbEntry g := by
  unfold State.wbEntry
  rw [h.wb]

end WriteFailing

/-- R131: the record of a failure. -/
def State.failRecord (s : State) (why : CaptureReason) (p : MPort) (t : MemTag) (o : OpOwner) : CaptureRecord :=
  ⟨why, s.opWriter o, s.opBlock o, some (p, t), o.ttIndex, none, s.timeBase⟩

/-- The state in which a failure has been captured. -/
def State.failCaptured (s : State) (p : MPort) (t : MemTag) (o : OpOwner) (why : CaptureReason) (x : TagState) : State :=
  (s.modMP p fun y => y.setTag t x).offer (s.failRecord why p t o)

section
variable {s : State} {p : MPort} {op : MemOp} {w : WriteRec} (hw : (s.mp p).writeOf op.owner = some w) (t : MemTag)
  (why : CaptureReason) (x : TagState)

theorem State.failCaptured_failing (s : State) (o : OpOwner) : WriteFailing s (s.failCaptured p t o why x) p t x :=
  (WriteFailing.tagged s p t x).offer _

/-- R131: the record of the failure is held. -/
theorem State.failCaptured_holds (s : State) (o : OpOwner) :
    s.HoldsRecord (s.failCaptured p t o why x) (s.failRecord why p t o) :=
  (State.offer_holds _ _).before (congrArg CaptureSlot.record (State.slot_congr (State.modMP_slots s p _) _).symm)

include hw

/-- R82, R131: a superseded write is retired as if it had succeeded. -/
theorem State.failWrite_superseded (hs : w.superseded = true) : s.failWrite p t op why x = ((s.modMP p fun y =>
    { y with tags := y.tags.set t x, writes := y.writes.filter fun v => v.owner != op.owner }).deliverWrite op.owner true) := by
  have listed : ((s.modMP p fun y => y.setTag t x).mp p).writeOf op.owner = some w := by
    rw [(WriteFailing.tagged s p t x).mp]
    exact hw
  unfold State.failWrite
  simp only [listed, hs, if_true]
  cases p <;> rfl

/-- R131: a first failure is captured, and the write is placed again. -/
theorem State.failWrite_first (hs : w.superseded = false) (h2 : w.second = false) : s.failWrite p t op why x =
    ((s.failCaptured p t op.owner why x).modMP p fun y => (y.retryWrite op.owner).queueOp op).noteRetry op.owner := by
  have failing := WriteFailing.tagged s p t x
  have listed : ((s.modMP p fun y => y.setTag t x).mp p).writeOf op.owner = some w := by
    rw [failing.mp]
    exact hw
  unfold State.failWrite
  simp only [listed, hs, h2, Bool.false_eq_true, if_false,
    State.memRecord_congr failing.tt failing.wb failing.timeBase why p t op.owner]
  rfl

/-- R132: a second failure is captured twice, and ends the write. -/
theorem State.failWrite_second (hs : w.superseded = false) (h2 : w.second = true) : s.failWrite p t op why x =
    (((s.failCaptured p t op.owner why x).offer (s.failRecord .writeFailed p t op.owner)).modMP p fun y =>
      y.dropWrite op.owner).deliverWrite op.owner false := by
  have failing := WriteFailing.tagged s p t x
  have captured := s.failCaptured_failing (p := p) t why x op.owner
  have listed : ((s.modMP p fun y => y.setTag t x).mp p).writeOf op.owner = some w := by
    rw [failing.mp]
    exact hw
  have record := State.memRecord_congr captured.tt captured.wb captured.timeBase .writeFailed p t op.owner
  unfold State.failCaptured State.failRecord at record ⊢
  unfold State.failWrite
  simp only [listed, hs, h2, Bool.false_eq_true, if_false, if_true,
    State.memRecord_congr failing.tt failing.wb failing.timeBase why p t op.owner, record]

end

/-! ### A first failure (R131) -/

/-- R131: a write has failed for the first time. -/
structure FailedFirst (s u : State) (p : MPort) (t : MemTag) (op : MemOp) (why : CaptureReason) (x : TagState) : Prop where
  record : s.HoldsRecord u (s.failRecord why p t op.owner)
  mp : u.mp p = { s.mp p with
    tags := (s.mp p).tags.set t x
    issueQ := (s.mp p).issueQ ++ [op]
    writes := (s.mp p).writes.map fun v => if v.owner = op.owner then { v with second := true } else v }
  entry : ∀ i r, op.owner = .tt i r → u.entry i = (s.entry i).map fun e =>
    { e with memOp := e.memOp.map fun n => { n with tag := none } }
  wb : ∀ g e, op.owner = .wb g → s.wbEntry g = some e →
    u.wbEntry g = some { e with state := .queued, write := e.write.map fun y => { y with second := true } }

theorem State.failWrite_failedFirst {s : State} {p : MPort} {op : MemOp} {w : WriteRec}
    (hw : (s.mp p).writeOf op.owner = some w) (hs : w.superseded = false) (h2 : w.second = false) (t : MemTag)
    (why : CaptureReason) (x : TagState) : FailedFirst s (s.failWrite p t op why x) p t op why x := by
  rw [State.failWrite_first hw t why x hs h2]
  have failing := s.failCaptured_failing (p := p) t why x op.owner
  have holds := s.failCaptured_holds (p := p) t why x op.owner
  generalize s.failCaptured p t op.owner why x = u at failing holds
  obtain ⟨slots, port⟩ := (u.modMP p fun y => (y.retryWrite op.owner).queueOp op).noteRetry_beside op.owner
  refine ⟨holds.mono fun c y hy => ?_, ?_, fun i r ho => ?_, fun g e ho he => ?_⟩
  · rw [State.slot_congr (slots.trans (State.modMP_slots u p _))]
    exact hy
  · rw [port, State.modMP_mp, if_pos rfl, failing.mp]
    rfl
  · rw [ho]
    refine (State.modEntry_entry _ i i _).trans ((if_pos rfl).trans ?_)
    rw [State.modMP_entry, State.entry_congr failing.tt]
  · rw [ho]
    refine State.noteRetry_wbEntry ?_
    unfold State.wbEntry
    rw [State.modMP_wb, failing.wb]
    exact he

/-! ### A second failure (R132) -/

/-- R132, R115: a write has failed for the second time. -/
structure FailedTwice (s u : State) (p : MPort) (t : MemTag) (op : MemOp) (why : CaptureReason) (x : TagState) : Prop where
  record : s.HoldsRecord u (s.failRecord why p t op.owner)
  failed : s.HoldsRecord u (s.failRecord .writeFailed p t op.owner)
  mp : u.mp p = { s.mp p with
    tags := (s.mp p).tags.set t x
    writes := (s.mp p).writes.filter fun v => v.owner != op.owner }
  entry : ∀ i r, op.owner = .tt i r → u.entry i = (s.entry i).map (·.writeEnded false)
  answers : ∀ g e, op.owner = .wb g → s.wbEntry g = some e → e.fenced = false →
    u.wbEntry g = some { e with state := .donePending } ∧
    ∃ ms, (u.port e.writer).outbound = (s.port e.writer).outbound ++ ms ++ [⟨.done 0#8 e.block, .wb g⟩]
  leaves : ∀ g e, op.owner = .wb g → s.wbEntry g = some e → e.fenced = true → u.wbEntry g = none

theorem State.failWrite_failedTwice {s : State} {p : MPort} {op : MemOp} {w : WriteRec}
    (hw : (s.mp p).writeOf op.owner = some w) (hs : w.superseded = false) (h2 : w.second = true) (t : MemTag)
    {why : CaptureReason} (hc : why.cls = .memory) (x : TagState) :
    FailedTwice s (s.failWrite p t op why x) p t op why x := by
  rw [State.failWrite_second hw t why x hs h2]
  have first := s.failCaptured_failing (p := p) t why x op.owner
  have record := s.failCaptured_holds (p := p) t why x op.owner
  have apart : (s.failCaptured p t op.owner why x).slot .dataLoss = s.slot .dataLoss :=
    (State.offer_slot _ (s.failRecord why p t op.owner) .dataLoss).trans
      ((if_neg (by rw [show (s.failRecord why p t op.owner).reason.cls = .memory from hc]; exact nofun)).trans
        (State.slot_congr (State.modMP_slots s p _) _))
  generalize s.failCaptured p t op.owner why x = u at first record apart
  have failing := first.offer (s.failRecord .writeFailed p t op.owner)
  have both := record.mono (Gentle.offer u (s.failRecord .writeFailed p t op.owner)).record
  have failed := (u.offer_holds (s.failRecord .writeFailed p t op.owner)).before (congrArg CaptureSlot.record apart.symm)
  generalize u.offer (s.failRecord .writeFailed p t op.owner) = v at failing both failed
  obtain ⟨slots, port⟩ := (v.modMP p fun y => y.dropWrite op.owner).deliverWrite_beside op.owner false
  have kept : ∀ c y, (v.slot c).record = some y →
      (((v.modMP p fun y => y.dropWrite op.owner).deliverWrite op.owner false).slot c).record = some y := fun c y hy => by
    rw [State.slot_congr (slots.trans (State.modMP_slots v p _))]
    exact hy
  have buffered : ∀ g, (v.modMP p fun y => y.dropWrite op.owner).wbEntry g = s.wbEntry g := fun g => by
    rw [← failing.wbEntry g]
    unfold State.wbEntry
    rw [State.modMP_wb]
  refine ⟨both.mono kept, failed.mono kept, ?_, fun i r ho => ?_, fun g e ho he hf => ?_, fun g e ho he hf => ?_⟩
  · rw [port, State.modMP_mp, if_pos rfl, failing.mp]
    rfl
  · rw [ho]
    refine (State.modEntry_entry _ i i _).trans ((if_pos rfl).trans ?_)
    rw [State.modMP_entry, State.entry_congr failing.tt]
  · obtain ⟨ms, queued⟩ := failing.outbound e.writer
    rw [ho] at buffered ⊢
    rw [State.deliverWrite_answers ((buffered g).trans he) hf]
    refine ⟨(State.setWB_wbEntry _ g g _).trans (if_pos rfl), ms, ?_⟩
    rw [State.modPort_port_self, State.setWB_port, State.port_congr (State.modMP_ports v p _), queued]
  · rw [ho] at buffered ⊢
    rw [State.deliverWrite_fenced ((buffered g).trans he) hf]
    exact (State.setWB_wbEntry _ g g _).trans (if_pos rfl)

/-- Settles O33: the commands reach `failWrite`, whose three cases are `failWrite_superseded`, `FailedFirst` and
`FailedTwice`; the end of a write at its owner by `writeEnded_eq` and the two cases of a Writeback Buffer entry. -/
theorem failedWrites : Obligations.FailedWrites := by
  refine ⟨fun s p t op d got hr ht hk => ?_, fun s p t op why x w hw => ⟨State.failWrite_superseded hw t why x, fun hs h2 => ?_,
    fun hs h2 hc => ?_⟩, TTEntry.writeEnded_eq, fun _ _ _ _ => rfl,
    fun s g e success he => ⟨fun hf => State.deliverWrite_fenced he hf success,
      fun hf => State.deliverWrite_answers he hf success⟩⟩
  · have begun : (s.beginStep.mp p).tags[t] = .inFlight op d got := by
      rw [State.beginStep_mp]
      exact ht
    rw [exec_mfault hr, exec_mrefuse hr, exec_memoryDeadlineExpiry hr, State.memFault_write begun hk,
      State.memRefuse_write begun hk]
    exact ⟨rfl, rfl, fun hd => congrArg _ (State.memExpire_write begun hk hd)⟩
  · obtain ⟨record, mp, entry, wb⟩ := State.failWrite_failedFirst hw hs h2 t why x
    exact ⟨record, mp, entry, wb⟩
  · obtain ⟨record, failed, mp, entry, answers, leaves⟩ := State.failWrite_failedTwice hw hs h2 t hc x
    exact ⟨record, failed, mp, entry, answers, leaves⟩

end Sys2Proof.Machine
end

section
/-! RECLAIM_BLOCK, and the RECLAIM and POISON entries (chapter 5, section 5.10; chapter 11, section 11.3; R99, R100, R180, R181). -/

namespace Sys2Proof.Machine

/-! ### The command (R180) -/

section
variable {s : State} {c : ControlReq}

theorem AgentTakes.reclaimBlock {rest : List ControlReq} (h : AgentTakes s 0x0D#8 2 c rest) :
    exec .reclaimBlock s = .next ((s.taking rest).reclaimBlock c).settle :=
  h.performs rfl fun t c => (t.reclaimBlock c).settle

theorem State.reclaimBlock_badArgument (h : c.blockArg = none) : s.reclaimBlock c = s.replies c .badArgument [] := by
  unfold State.reclaimBlock
  rw [h]
  rfl

theorem State.reclaimBlock_waits {b : Block} (h : c.blockArg = some b) (ht : s.tracked b = true) :
    s.reclaimBlock c = { s with agent := .waiting ⟨c.sender, c.tag, b⟩ } := by
  unfold State.reclaimBlock
  rw [h]
  exact if_pos ht

theorem State.reclaimBlock_badState {b : Block} (h : c.blockArg = some b) (ht : ¬s.tracked b = true) :
    s.reclaimBlock c = s.replies c .badState [] := by
  unfold State.reclaimBlock
  rw [h]
  exact if_neg ht

end

/-! ### RESPONDING of a RECLAIM and of a POISON (R99, R100) -/

theorem TTEntry.grantsUp_of_kind {e : TTEntry} (h : e.kind ≠ .req .upgrade) : e.grantsUp = false :=
  Bool.eq_false_iff.mpr fun up => h (e.grantsUp_iff.mp up).1

section
variable {s : State} {i : TTIdx} {e : TTEntry} (he : s.entry i = some e)

theorem State.respond_reclaim (s : State) (i : TTIdx) (hk : e.kind = .reclaim) :
    s.respond i e = (s.respondReclaim i e).modEntry i fun x => { x with opened := true } := by
  have course : s.respondKind i e = s.respondReclaim i e := by
    unfold State.respondKind
    rw [hk]
  rw [State.respond_answers (s.upgradeOvertaken_false (TTEntry.grantsUp_of_kind (by rw [hk]; exact nofun))), course]

theorem State.respond_poison (s : State) (i : TTIdx) (hk : e.kind = .poison) :
    s.respond i e = (s.respondPoison e).modEntry i fun x => { x with opened := true } := by
  have course : s.respondKind i e = s.respondPoison e := by
    unfold State.respondKind
    rw [hk]
  rw [State.respond_answers (s.upgradeOvertaken_false (TTEntry.grantsUp_of_kind (by rw [hk]; exact nofun))), course]

include he

theorem State.removeEntry_entry (b : Block) : (s.removeEntry b).entry i = some e :=
  (State.entry_congr (s.removeEntry_fields b).1 i).trans he

/-- R99: a RECLAIM of a block that was found HELD and GOOD removes its entry, and notes whether there was one. -/
theorem State.respond_reclaim_held {w : WayIdx} {d : DirEntry} (hk : e.kind = .reclaim) (hl : e.lookup = some (.held w d))
    (hf : d.failed = false) : s.respond i e = (s.removeEntry e.block).setEntry i
      (some { e with reclaimed := decide (s.dirEntry e.block ≠ none), opened := true }) := by
  have removes : s.respondReclaim i e =
      (s.removeEntry e.block).modEntry i fun x => { x with reclaimed := (s.dirEntry e.block).isSome } := by
    unfold State.respondReclaim
    simp only [hl, hf, Bool.false_eq_true, if_false]
  have left : (s.dirEntry e.block).isSome = decide (s.dirEntry e.block ≠ none) := by
    cases s.dirEntry e.block <;> rfl
  rw [State.respond_reclaim s i hk, removes, State.modEntry_of_entry (State.removeEntry_entry he _), State.setEntry_modEntry,
    left]

/-- R99: a RECLAIM of a block that was not found, or was found FAILED, has nothing left to remove. -/
theorem State.respond_reclaim_unheld (hk : e.kind = .reclaim) (h : ∀ w d, e.lookup = some (.held w d) → d.failed = true) :
    s.respond i e = s.setEntry i (some { e with opened := true }) := by
  have nothing : s.respondReclaim i e = s := by
    unfold State.respondReclaim
    split
    · next w d hl => exact if_pos (h w d hl)
    · rfl
  rw [State.respond_reclaim s i hk, nothing, State.modEntry_of_entry he]

/-- R99: a RECLAIM answers nobody. -/
theorem State.respond_reclaim_beside (hk : e.kind = .reclaim) : (s.respond i e).ports = s.ports ∧
    (s.respond i e).slots = s.slots ∧ (s.respond i e).agent = s.agent := by
  by_cases h : ∃ w d, e.lookup = some (.held w d) ∧ d.failed = false
  · obtain ⟨w, d, hl, hf⟩ := h
    rw [State.respond_reclaim_held he hk hl hf, State.removeEntry_dirOnly]
    exact ⟨rfl, rfl, rfl⟩
  · rw [State.respond_reclaim_unheld he hk fun w d hl => by_contra fun hf => h ⟨w, d, hl, Bool.eq_false_iff.mpr hf⟩]
    exact ⟨rfl, rfl, rfl⟩

/-- R100: a POISON removes its entry and captures the loss. -/
theorem State.respond_poison_owned {w : WayIdx} {d : DirEntry} {n : NodeId} (hk : e.kind = .poison)
    (hl : e.lookup = some (.held w d)) (ho : d.rights = .owned n) : s.respond i e = ((s.removeEntry e.block).offer
      ⟨.ownerLost, some n, some e.block, none, none, none, s.timeBase⟩).setEntry i (some { e with opened := true }) := by
  have owner : e.ownerOf .primary = some n := (e.ownerOf_primary n).mpr ⟨w, d, hl, ho⟩
  have captures : s.respondPoison e =
      (s.removeEntry e.block).offer ⟨.ownerLost, some n, some e.block, none, none, none, s.timeBase⟩ := by
    unfold State.respondPoison
    rw [owner]
    rfl
  rw [State.respond_poison s i hk, captures,
    State.modEntry_of_entry ((State.offer_entry _ _ i).trans (State.removeEntry_entry he _))]

end

/-! ### The start of a POISON (R100) -/

/-- R61: a POISON entry as the walk fills it. -/
def TTEntry.poisoning (l : Option Loc) (w : WayIdx) (d : DirEntry) : TTEntry :=
  { TTEntry.fresh .poison .sweep none d.block l none with lookup := some (.held w d) }

theorem State.refusesPoison_poison (s : State) {e : TTEntry} (h : e.kind = .poison) : s.refusesPoison e = false := by
  refine Bool.eq_false_iff.mpr fun refuses => ?_
  obtain ⟨kind, -⟩ := (State.refusesPoison_iff s e).mp refuses
  simp [h] at kind

/-- A block that the lookup found HELD has a way in its set. -/
theorem TTEntry.situation_held {e : TTEntry} {w : WayIdx} {d : DirEntry} (h : e.lookup = some (.held w d)) :
    e.situation ≠ .setBusy := by
  cases hf : d.failed with
  | true => rw [TTEntry.situation_failed h hf]; exact nofun
  | false => cases hr : d.rights with
    | shared hs => rw [TTEntry.situation_shared h hf hr]; exact nofun
    | owned o => rw [TTEntry.situation_owned h hf hr]; exact nofun

/-- R100: a POISON recalls nobody, reads nothing and writes the owner-lost block. -/
theorem State.beginFlow_poison {s : State} {i : TTIdx} {e : TTEntry} {l : Loc} (he : s.entry i = some e)
    (hk : e.kind = .poison) (hb : e.situation ≠ .setBusy) (hl : e.loc = some l) : ∃ u, s.beginFlow i =
      ((s.setEntry i u).placeWrite (.tt i .primary) l.port l.addr (Vector.replicate 4 ⟨0#128, true⟩)).setEntry i
        (some { e.turned with phase := .writing, changed := true, memOp := some ⟨.write, .primary, none⟩ }) := by
  have agrees : ¬e.conflicts = true := fun hc => by
    obtain ⟨kind, -⟩ := TTEntry.conflicts_owned hc
    simp [hk] at kind
  have silent : ¬e.readsAtStart = true := fun hr => by
    obtain ⟨needs, -⟩ := TTEntry.readsAtStart_iff.mp hr
    exact Bool.false_ne_true ((TTEntry.needsData_false (.inr (.inl hk))).symm.trans needs)
  have kind : e.turned.kind = .poison := hk
  have place : e.turned.loc = some l := hl
  obtain ⟨u, complete⟩ := State.complete_writes (s.setEntry_self i (some e.turned)) place (TTEntry.toWrite_poison kind _)
  rw [State.refusesPoison_poison _ kind, State.setEntry_setEntry] at complete
  exact ⟨u, ((State.beginFlow_unplanned he hb agrees (TTEntry.planned_poison hk)).trans (if_neg silent)).trans complete⟩

theorem State.startPoison_writes {s : State} {d : DirEntry} {l : Loc} (h : s.locate d.block = some l) (i : TTIdx) (w : WayIdx) :
    ∃ u, s.startPoison i w d =
      ((s.setEntry i u).placeWrite (.tt i .primary) l.port l.addr (Vector.replicate 4 ⟨0#128, true⟩)).setEntry i
        (some { TTEntry.poisoning (some l) w d with
          phase := .writing, changed := true, memOp := some ⟨.write, .primary, none⟩ }) := by
  have filled : s.startPoison i w d = (s.setEntry i (some (TTEntry.poisoning (some l) w d))).beginFlow i := by
    rw [← h]
    rfl
  obtain ⟨u, writes⟩ := State.beginFlow_poison (s.setEntry_self i (some (TTEntry.poisoning (some l) w d))) rfl
    (TTEntry.situation_held rfl) rfl
  rw [State.setEntry_setEntry] at writes
  exact ⟨u, filled.trans writes⟩

/-! ### The agent, while an entry goes its way -/

section
variable (s : State) (i : TTIdx)

theorem State.sendTT_agent (n : NodeId) (m : Msg) : (s.sendTT i n m).agent = s.agent := by
  unfold State.sendTT State.queueTT
  split
  · rfl
  · dsimp only
    split <;> rfl

theorem State.sendRecall_agent (r : Role) (b : Block) (m : NodeId × RecallKind) : (s.sendRecall i r b m).agent = s.agent := by
  unfold State.sendRecall
  split
  · exact (SameBeside.of_eq (s.resolveAtFence_beside i r m.1)).agent
  · exact s.sendTT_agent i _ _

theorem State.formRecalls_agent (r : Role) (b : Block) (ms : List (NodeId × RecallKind)) :
    (s.formRecalls i r b ms).agent = s.agent := by
  have sent : ∀ t : State, (ms.foldl (fun u m => u.sendRecall i r b m) t).agent = t.agent := by
    induction ms with
    | nil => exact fun _ => rfl
    | cons m l ih => exact fun t => (ih _).trans (t.sendRecall_agent i r b m)
  exact sent _

theorem State.writeTT_agent (r : Role) (d : BlockData) : (s.writeTT i r d).agent = s.agent := by
  unfold State.writeTT
  split
  · rfl
  · exact State.modMP_agent _ _ _

theorem State.readTT_agent : (s.readTT i).agent = s.agent := by
  unfold State.readTT State.placeRead
  split
  · rfl
  · split
    · rfl
    · exact State.modMP_agent _ _ _

theorem State.complete_agent : (s.complete i).agent = s.agent := by
  unfold State.complete
  split
  · rfl
  · dsimp only
    split
    · exact State.writeTT_agent _ _ _ _
    · rfl

theorem State.readBeside_agent (e : TTEntry) : (s.readBeside i e).agent = s.agent := by
  unfold State.readBeside
  split
  · exact s.readTT_agent i
  · rfl

theorem State.enterFlow_agent (e : TTEntry) : (s.enterFlow i e).agent = s.agent := by
  unfold State.enterFlow
  split
  · rfl
  · split
    · rfl
    · split
      · split
        · exact State.readTT_agent _ i
        · exact s.complete_agent i
      · exact (State.readBeside_agent _ i e).trans (State.formRecalls_agent _ i _ _ _)

theorem State.beginFlow_agent : (s.beginFlow i).agent = s.agent := by
  unfold State.beginFlow
  split
  · rfl
  · exact State.enterFlow_agent _ i _

theorem State.recallVictim_agent (d : DirEntry) : (s.recallVictim i d).agent = s.agent := by
  unfold State.recallVictim
  split
  · exact s.formRecalls_agent i _ _ _
  · exact s.formRecalls_agent i _ _ _

theorem State.afterLookup_agent (b : Block) (r : LookupResult) : (s.afterLookup i b r).agent = s.agent := by
  unfold State.afterLookup
  split
  · split
    · exact State.formRecalls_agent _ i _ _ _
    · exact s.beginFlow_agent i
  · exact State.recallVictim_agent _ i _
  · exact s.beginFlow_agent i

theorem State.takeCheck_agent : s.takeCheck.2.agent = s.agent := by
  unfold State.takeCheck
  split <;> rfl

theorem State.readHeld_agent (k : SetIdx) (w : WayIdx) (e : DirEntry) : (s.readHeld k w e).2.agent = s.agent := by
  cases h : s.now.checks.headD false with
  | false => rw [s.readHeld_passes k w e h, s.takeCheck_agent]
  | true => rw [s.readHeld_fails k w e h]; exact s.takeCheck_agent

theorem State.lookup_agent (b : Block) (new : Bool) : (s.lookup i b new).2.agent = s.agent := by
  unfold State.lookup
  dsimp only
  split
  · exact s.readHeld_agent _ _ _
  · split
    · rfl
    · split
      · rfl
      · split
        · rfl
        · exact s.readHeld_agent _ _ _

theorem State.startEntry_agent (e : TTEntry) : (s.startEntry i e).agent = s.agent := by
  unfold State.startEntry State.beginEntry
  split
  · exact (State.afterLookup_agent _ i _ _).trans (State.lookup_agent (s.setEntry i (some e)) i _ _)
  · exact State.beginFlow_agent _ i

/-- R70: a handoff starts an entry, which concerns the agent not at all. -/
theorem State.handOff_agent (b : Block) : (s.handOff i b).agent = s.agent := by
  unfold State.handOff State.startHeld
  split
  · split
    · exact State.startEntry_agent _ i _
    · rfl
  · rfl

end

/-! ### The RECLAIM reported at its retirement (R178, R181) -/

section
variable (s : State) (i : TTIdx) (e : TTEntry)

/-- R70: the agent and the Outbound Queues of a retired entry are those that its report left, the queues with what the
handoff adds. -/
theorem State.retired_reports : ((s.released i e).handOff i e.block).agent = (s.reportReclaim i e).agent ∧
    ∀ n, ∃ ms, (((s.released i e).handOff i e.block).port n).outbound =
      ((s.reportReclaim i e).port n).outbound ++ ms := by
  have ports : (s.released i e).ports = (s.reportReclaim i e).ports := by rw [s.released_fields i e]
  refine ⟨((s.released i e).handOff_agent i e.block).trans (by rw [s.released_fields i e]), fun n => ?_⟩
  rw [← State.port_congr ports n]
  exact (Gentle.work (.handOff (s.released i e) i e.block)).outbound n

variable {c : ReclaimCmd} (h : s.agent = .reclaiming c i)
include h

theorem State.reportReclaim_replies (hn : (s.node c.sender).state ≠ .fenced) : s.reportReclaim i e =
    { s.enqueue c.sender .agent (.controlReply c.tag .ok
      [BitVec.ofNat 32 (2 + 256 * i.val + if e.reclaimed = true then 1 else 0)]) with agent := .replyPending } :=
  (s.reportReclaim_asked i e h).trans (if_neg hn)

theorem State.reportReclaim_discarded (hn : (s.node c.sender).state = .fenced) :
    s.reportReclaim i e = { s with agent := .ready } := (s.reportReclaim_asked i e h).trans (if_pos hn)

end

/-! ### The actions of an entry in RESPONDING (R62) -/

section
variable {s : State} {i : TTIdx} {e : TTEntry} (he : s.entry i = some e) (hm : e.memOp = none) (hp : e.phase = .responding)
include he hm hp

theorem State.entryStep_responds (ho : e.opened = false) : s.entryStep i = some (s.respond i e) := by
  unfold State.entryStep
  simp only [he, hm, hp, ho, Option.isSome_none, Bool.false_eq_true, if_false, Bool.not_false, if_true]

theorem State.entryStep_holds (ho : e.opened = true) (hh : e.held ≠ []) : s.entryStep i = none := by
  unfold State.entryStep
  simp only [he, hm, hp, ho, hh, Option.isSome_none, Bool.false_eq_true, if_false, Bool.not_true]

end

/-- Settles O55: the command by its block, RESPONDING by the kind and the lookup, the start of a POISON by its write, and
the retirement by what the report leaves to the agent. -/
theorem reclaimsAndPoisons : Obligations.ReclaimsAndPoisons := by
  refine ⟨fun s c rest h => ?_, fun s i e hc he hk => ⟨fun w d hl hf => ?_, fun hf => ?_, State.respond_reclaim_beside he hk⟩,
    fun s i w d l hl => ?_, fun s i e w d n hc he hk hl ho => ?_, fun s i e he hm hp =>
      ⟨State.entryStep_responds he hm hp, State.entryStep_holds he hm hp, fun ho hh =>
        ⟨_, State.entryStep_retires he hm hp ho hh, ?_⟩⟩⟩
  · rw [h.reclaimBlock]
    refine ⟨fun hb => ?_, fun b hb => ⟨fun ht => ?_, fun h1 h2 => ?_⟩⟩
    · rw [State.reclaimBlock_badArgument (ControlReq.blockArg_none hb)]
    · have tracked : (s.taking rest).tracked b = true := (s.tracked_iff b).mpr (exists_or.mpr ht)
      rw [State.reclaimBlock_waits (ControlReq.blockArg_some hb) tracked]
    · have untracked : ¬(s.taking rest).tracked b = true := fun ht => by
        obtain ⟨l, hl | hl⟩ := (s.tracked_iff b).mp ht
        · exact h1 l hl
        · exact h2 l hl
      rw [State.reclaimBlock_badState (ControlReq.blockArg_some hb) untracked]
  · rw [State.respond_reclaim_held he hk hl hf]
    exact ⟨(s.removeEntry_removes e.block hc).congr rfl, State.setEntry_self _ _ _⟩
  · rw [State.respond_reclaim_unheld he hk hf]
    exact ⟨rfl, State.setEntry_self _ _ _⟩
  · obtain ⟨u, writes⟩ := State.startPoison_writes hl i w
    have own := (OwnWork.setEntry i s u).trans ((OwnWork.placeWrite i (s.setEntry i u) (.tt i .primary) l.port l.addr
      (Vector.replicate 4 ⟨0#128, true⟩)).trans (OwnWork.setEntry i _ (some { TTEntry.poisoning (some l) w d with
        phase := .writing, changed := true, memOp := some ⟨.write, .primary, none⟩ })))
    rw [writes]
    exact ⟨State.setEntry_self _ _ _, ((s.setEntry i u).placeWrite_places _ l _).congr
      (fun p => (State.setEntry_mp _ _ _ p).symm) (fun p => State.setEntry_mp _ _ _ p), own.ports, own.dir, own.slots⟩
  · have slots : (s.removeEntry e.block).slots = s.slots := by rw [State.removeEntry_dirOnly]
    have record := ((s.removeEntry e.block).offer_holds ⟨.ownerLost, some n, some e.block, none, none, none, s.timeBase⟩).before
      (s' := s) (congrArg CaptureSlot.record (State.slot_congr slots _).symm)
    rw [State.respond_poison_owned he hk hl ho]
    exact ⟨(s.removeEntry_removes e.block hc).congr (State.offer_same _ _).dir, State.setEntry_self _ _ _, record⟩
  · obtain ⟨agent, outbound⟩ := s.retired_reports i e
    refine ⟨fun c ha hn => ?_, fun c ha hn => ?_, fun ha => ?_⟩
    · rw [s.reportReclaim_replies i e ha hn] at agent outbound
      exact ⟨agent, (s.enqueue_queued c.sender .agent _).mono (outbound c.sender)⟩
    · rw [agent, s.reportReclaim_discarded i e ha hn]
    · rw [agent, s.reportReclaim_unasked i e ha]

end Sys2Proof.Machine
end

section
/-! The beats of a read in flight, and the MACK of a write in flight (chapter 6, R115; chapter 7, section 7.4; R122, R123,
R130). -/

namespace Sys2Proof.Machine

/-! ### Commands for an operation in flight (R122, R130) -/

section
variable {s : State}

theorem exec_mbeat (hr : s.running = true) (p : MPort) (m : Nat) (k : Fin 4) (data : BitVec 128) (mark : Bool) :
    exec (.mbeat p m k.val data mark) s = .next (s.beginStep.beat p m k ⟨data, mark⟩).settle :=
  (run_running (fun s => if hk : k.val < 4 then (s.beat p m ⟨k.val, hk⟩ ⟨data, mark⟩).settle else s.badBeat p m) s hr).trans
    (congrArg Host.Outcome.next (dif_pos k.isLt))

theorem exec_mack (hr : s.running = true) (p : MPort) (m : Nat) : exec (.mack p m) s = .next (s.beginStep.ack p m).settle :=
  run_running (fun s => (s.ack p m).settle) s hr

variable {p : MPort} {t : MemTag} {op : MemOp} {d : Time} {got : Vector (Option Beat) 4}
  (h : (s.mp p).tags[t] = .inFlight op d got)
include h

theorem State.beginStep_flight : (s.beginStep.mp p).tags[t] = .inFlight op d got := by
  rw [State.beginStep_mp]
  exact h

theorem State.beat_read (hk : op.kind = .read) (k : Fin 4) (x : Beat) : s.beat p t.val k x = s.keepBeat p t op d got k x := by
  unfold State.beat
  simp only [State.tagView_flight h, hk]

theorem State.ack_write (hk : op.kind = .write) : s.ack p t.val = s.writeDone p t op := by
  unfold State.ack
  simp only [State.tagView_flight h, hk]

end

/-! ### A beat of a read (R122, R123) -/

/-- R164: the record of a fault of a read rests on the owner's own record. -/
theorem State.readRecord_congr {s u : State} (tt : u.tt = s.tt) (wb : u.wb = s.wb) (time : u.timeBase = s.timeBase)
    (why : CaptureReason) (p : MPort) (t : MemTag) (o : OpOwner) (n : Nat) : u.readRecord why p t o n =
      ⟨why, s.opWriter o, s.opBlock o, some (p, t), o.ttIndex, some (Fin.ofNat 5 n), s.timeBase⟩ := by
  unfold State.readRecord
  rw [State.memRecord_congr tt wb time]

section
variable (s : State) (p : MPort) (t : MemTag) (op : MemOp) (d : Time) {got : Vector (Option Beat) 4} {k : Fin 4} {x : Beat}

/-- R122: a beat that is not the last is kept. -/
theorem State.keepBeat_kept (hg : got[k] = none) (hc : gotCount (got.set k (some x)) ≠ 4) :
    s.keepBeat p t op d got k x = s.modMP p fun y => y.setTag t (.inFlight op d (got.set k (some x))) := by
  unfold State.keepBeat
  simp only [hg, Option.isSome_none, Bool.false_eq_true, if_false, hc]

/-- R123: the fourth beat frees the tag and gives the four beats to the owner. -/
theorem State.keepBeat_last (hg : got[k] = none) (hc : gotCount (got.set k (some x)) = 4) :
    s.keepBeat p t op d got k x =
      (s.modMP p fun y => y.setTag t .free).deliverRead op.owner (gotBeats (got.set k (some x))) := by
  unfold State.keepBeat
  simp only [hg, Option.isSome_none, Bool.false_eq_true, if_false, hc, if_true]

/-- R122: a duplicate is discarded and captured. -/
theorem State.keepBeat_duplicate (hg : got[k] ≠ none) :
    s.keepBeat p t op d got k x = s.offer (s.readRecord .duplicateBeat p t op.owner (gotCount got)) :=
  if_pos (Option.isSome_iff_ne_none.mpr hg)

end

/-! ### The success of a write (R115, R130) -/

/-- R115, R130: a write has succeeded: its tag is free and it has left its list, and a Writeback Buffer entry has answered
DONE or left the buffer. -/
structure WriteCompleted (s u : State) (p : MPort) (t : MemTag) (o : OpOwner) : Prop where
  tags : (u.mp p).tags = (s.mp p).tags.set t .free
  unlisted : ∀ w, o = .wb w → ∀ x ∈ (u.mp p).writes, x.owner ≠ .wb w
  answers : ∀ w e, o = .wb w → s.wbEntry w = some e → e.fenced = false →
    u.wbEntry w = some { e with state := .donePending } ∧ s.Queued u e.writer ⟨.done 0#8 e.block, .wb w⟩
  leaves : ∀ w e, o = .wb w → s.wbEntry w = some e → e.fenced = true → u.wbEntry w = none

/-- The bridge's own work leaves the tags and the Writeback Buffer as they are, lists no write of a Writeback Buffer entry,
and only lengthens the Outbound Queues. -/
theorem WriteCompleted.calm {s u v : State} {p : MPort} {t : MemTag} {o : OpOwner} (h : WriteCompleted s u p t o)
    (c : Calm u v) : WriteCompleted s v p t o := by
  have buffered : ∀ w, v.wbEntry w = u.wbEntry w := fun w => by
    unfold State.wbEntry
    rw [c.wb]
  refine ⟨(c.tags p).trans h.tags, fun w ho => c.wbWrites p w (h.unlisted w ho), fun w e ho he hf => ?_,
    fun w e ho he hf => (buffered w).trans (h.leaves w e ho he hf)⟩
  obtain ⟨done, queued⟩ := h.answers w e ho he hf
  exact ⟨(buffered w).trans done, queued.mono (c.outbound e.writer)⟩

section
variable (s : State) (p : MPort) (t : MemTag) (op : MemOp)

/-- R82: the write of an entry has succeeded. -/
theorem State.writeDone_entry {i : TTIdx} {r : Role} (ho : op.owner = .tt i r) :
    s.writeDone p t op = (s.modMP p fun x =>
      { x with tags := x.tags.set t .free, writes := x.writes.filter fun v => v.owner != op.owner }).modEntry i fun e =>
        e.writeEnded true := by
  unfold State.writeDone
  rw [ho]
  rfl

theorem State.writeDone_mp : (s.writeDone p t op).mp p = ((s.mp p).setTag t .free).dropWrite op.owner :=
  ((State.deliverWrite_beside _ op.owner true).2 p).trans ((State.modMP_mp s p p _).trans (if_pos rfl))

theorem State.writeDone_completed : WriteCompleted s (s.writeDone p t op) p t op.owner := by
  have buffered : ∀ w, (s.modMP p fun x => (x.setTag t .free).dropWrite op.owner).wbEntry w = s.wbEntry w := fun w => by
    unfold State.wbEntry
    rw [State.modMP_wb]
  refine ⟨?_, fun w ho x hx => ?_, fun w e ho he hf => ?_, fun w e ho he hf => ?_⟩
  · rw [State.writeDone_mp]
    rfl
  · rw [State.writeDone_mp, ho] at hx
    exact bne_iff_ne.mp (List.mem_filter.mp hx).2
  · unfold State.writeDone
    rw [ho] at buffered ⊢
    rw [State.deliverWrite_answers ((buffered w).trans he) hf]
    refine ⟨(State.setWB_wbEntry _ w w _).trans (if_pos rfl), [], ?_⟩
    rw [State.modPort_port_self, State.setWB_port, State.port_congr (State.modMP_ports s p _)]
  · unfold State.writeDone
    rw [ho] at buffered ⊢
    rw [State.deliverWrite_fenced ((buffered w).trans he) hf]
    exact (State.setWB_wbEntry _ w w _).trans (if_pos rfl)

end

/-- Settles O32: an MBEAT reaches `keepBeat`, by its three cases; an MACK reaches `writeDone`, whose `WriteCompleted` the
bridge's own work keeps. -/
theorem readsAndWritesComplete : Obligations.ReadsAndWritesComplete := by
  refine ⟨fun s p t k data mark op d got i r hr ht hk ho => ?_, fun s p t op d got hr ht hk => ?_⟩
  · rw [exec_mbeat hr, State.beat_read (State.beginStep_flight ht) hk]
    refine ⟨fun hg hc => ?_, fun hg hc => ?_, fun hg => ?_⟩
    · rw [State.keepBeat_kept _ p t op d hg hc]
      rfl
    · rw [State.keepBeat_last _ p t op d hg hc, ho]
      rfl
    · rw [State.keepBeat_duplicate _ p t op d hg, State.readRecord_congr (s := s) (u := s.beginStep) rfl rfl rfl, ho]
      rfl
  · rw [exec_mack hr, State.ack_write (State.beginStep_flight ht) hk]
    obtain ⟨tags, unlisted, answers, leaves⟩ := (s.beginStep.writeDone_completed p t op).calm (.settle _)
    rw [State.beginStep_mp] at tags
    exact ⟨_, rfl, tags, unlisted, answers, leaves, fun i r ho => congrArg _ (s.beginStep.writeDone_entry p t op ho)⟩

end Sys2Proof.Machine
end

section
/-! The issue of an operation on the Memory Link (chapter 7, sections 7.1 and 7.2; R119 to R121). -/

namespace Sys2Proof.Machine

/-! ### The lowest FREE tag -/

theorem allTags_ascending : allTags.Pairwise (· < ·) := by decide

theorem mem_allTags (t : MemTag) : t ∈ allTags := by revert t; decide

section
variable {x : MemPort}

theorem MemPort.freeTag_lowest {t : MemTag} (free : x.tags[t] = .free) (lowest : ∀ u : MemTag, u < t → x.tags[u] ≠ .free) :
    x.freeTag = some t :=
  (find?_ascending allTags_ascending _ t).mpr
    ⟨mem_allTags t, beq_iff_eq.mpr free, fun u _ lt => beq_eq_false_iff_ne.mpr (lowest u lt)⟩

theorem MemPort.freeTag_none (h : ∀ t : MemTag, x.tags[t] ≠ .free) : x.freeTag = none :=
  List.find?_eq_none.mpr fun t _ free => h t (beq_iff_eq.mp free)

/-- R120: MWRITE carries the beats of its owner's write. -/
theorem MemPort.command_write {op : MemOp} {w : WriteRec} (hk : op.kind = .write) (hw : x.writeOf op.owner = some w)
    (p : MPort) (t : MemTag) : x.command p t op = .mwrite p t op.addr w.beats := by
  unfold MemPort.command
  simp only [hk, hw, Option.map_some, Option.getD_some]

theorem MemPort.command_read {op : MemOp} (hk : op.kind = .read) (p : MPort) (t : MemTag) :
    x.command p t op = .mread p t op.addr := by
  unfold MemPort.command
  simp only [hk]

end

/-! ### The owner's note of its operation (R57, R120) -/

section
variable (s : State) (o : OpOwner)

/-- The note of an operation changes its owner's record. -/
theorem State.noteOp_beside (tag : Option MemTag) :
    (s.noteOp o tag).out = s.out ∧ (s.noteOp o tag).ports = s.ports ∧ (s.noteOp o tag).nodes = s.nodes ∧
      (s.noteOp o tag).dir = s.dir ∧ (s.noteOp o tag).slots = s.slots ∧ ∀ p, (s.noteOp o tag).mp p = s.mp p := by
  cases o <;> exact ⟨rfl, rfl, rfl, rfl, rfl, State.mp_congr rfl rfl⟩

theorem State.noteOp_entry (tag : Option MemTag) (i : TTIdx) :
    (∀ r, o = .tt i r → (s.noteOp o tag).entry i = (s.entry i).map fun e =>
      { e with memOp := e.memOp.map fun n => { n with tag := tag } }) ∧
    ((∀ r, o ≠ .tt i r) → (s.noteOp o tag).entry i = s.entry i) := by
  cases o with
  | wb w => exact ⟨nofun, fun _ => rfl⟩
  | tt j r =>
    refine ⟨fun r' e => ?_, fun h => ?_⟩
    · cases e
      exact (State.modEntry_entry s i i _).trans (if_pos rfl)
    · have other : i ≠ j := fun e => h r (by rw [e])
      exact (State.modEntry_entry s j i _).trans (if_neg other)

/-- R114, R120: a Writeback Buffer entry whose write has a tag is WRITING. -/
theorem State.noteOp_wbEntry (t : MemTag) (w : WBIdx) :
    (o = .wb w → (s.noteOp o (some t)).wbEntry w = (s.wbEntry w).map fun e => { e with state := .writing }) ∧
    (o ≠ .wb w → (s.noteOp o (some t)).wbEntry w = s.wbEntry w) := by
  cases o with
  | tt j r => exact ⟨nofun, fun _ => rfl⟩
  | wb g =>
    refine ⟨fun e => ?_, fun h => ?_⟩
    · cases e
      exact (State.setWB_wbEntry s w w _).trans (if_pos rfl)
    · have other : w ≠ g := fun e => h (by rw [e])
      exact (State.setWB_wbEntry s g w _).trans (if_neg other)

end

/-! ### The issue (R120) -/

/-- R120: the head of an Issue Queue has been sent under a tag. -/
def State.sent (s : State) (p : MPort) (t : MemTag) (op : MemOp) (rest : List MemOp) : State :=
  (s.emit ((s.mp p).command p t op)).modMP p fun x =>
    { x with
      issueQ := rest
      tags := x.tags.set t (.inFlight op (s.timeBase + (s.mp p).timeout.zeroExtend 32) (Vector.replicate 4 none)) }

theorem exec_memoryIssue {s : State} (hr : s.running = true) (p : MPort) :
    exec (.memoryIssue p) s = .next (s.beginStep.issue p) :=
  run_running (fun s => s.issue p) s hr

/-- Nothing is issued from an empty queue, nor without a FREE tag. -/
theorem State.issue_idle {s : State} {p : MPort} (h : (s.mp p).issueQ = [] ∨ ∀ t : MemTag, (s.mp p).tags[t] ≠ .free) :
    s.issue p = s := by
  unfold State.issue
  rcases h with empty | busy
  · rw [empty]
  · rw [MemPort.freeTag_none busy]
    cases (s.mp p).issueQ <;> rfl

/-- R120: the head is issued under the lowest-numbered FREE tag. -/
theorem State.issue_sends {s : State} {p : MPort} {t : MemTag} {op : MemOp} {rest : List MemOp}
    (queue : (s.mp p).issueQ = op :: rest) (free : (s.mp p).freeTag = some t) :
    s.issue p = (s.sent p t op rest).noteOp op.owner (some t) := by
  unfold State.issue
  rw [queue, free]
  rfl

section
variable (s : State) (p : MPort) (t : MemTag) (op : MemOp) (rest : List MemOp)

theorem State.sent_out : (s.sent p t op rest).out = s.out ++ [(s.mp p).command p t op] := State.modMP_out _ _ _

theorem State.sent_mp (q : MPort) : (s.sent p t op rest).mp q = if q = p then { s.mp p with
    issueQ := rest
    tags := (s.mp p).tags.set t (.inFlight op (s.timeBase + (s.mp p).timeout.zeroExtend 32) (Vector.replicate 4 none)) }
    else s.mp q := by
  have emitted : ∀ q, (s.emit ((s.mp p).command p t op)).mp q = s.mp q := State.mp_congr rfl rfl
  rw [State.sent, State.modMP_mp, emitted, emitted]

theorem State.sent_entry (i : TTIdx) : (s.sent p t op rest).entry i = s.entry i := State.modMP_entry _ i p _

theorem State.sent_wbEntry (w : WBIdx) : (s.sent p t op rest).wbEntry w = s.wbEntry w := by
  unfold State.wbEntry
  exact congrArg (·[w]) (State.modMP_wb (s.emit _) p _)

end

/-- Settles O31: `sent` gives the link and the port, `noteOp` the owner's record. -/
theorem memoryIssueTakesTheLowestTag : Obligations.MemoryIssueTakesTheLowestTag := by
  refine ⟨fun s p hr h => ?_, fun s p op rest t hr queue free lowest => ?_⟩
  · rw [exec_memoryIssue hr, State.issue_idle (by rw [State.beginStep_mp]; exact h)]
  · have port : s.beginStep.mp p = s.mp p := s.beginStep_mp p
    obtain ⟨out, ports, nodes, dir, slots, mp⟩ := (s.beginStep.sent p t op rest).noteOp_beside op.owner (some t)
    have entry := (s.beginStep.sent p t op rest).noteOp_entry op.owner (some t)
    have wb := (s.beginStep.sent p t op rest).noteOp_wbEntry op.owner t
    have sentMp := s.beginStep.sent_mp p t op rest
    simp only [State.sent_entry, State.sent_wbEntry] at entry wb
    rw [State.sent_out, port] at out
    simp only [sentMp, port] at mp
    rw [exec_memoryIssue hr, State.issue_sends ((congrArg MemPort.issueQ port).trans queue)
      ((congrArg MemPort.freeTag port).trans (MemPort.freeTag_lowest free lowest))]
    refine ⟨_, rfl, fun hk => ?_, fun x hk hw => ?_, (mp p).trans (if_pos rfl), fun q hq => ?_, fun i => (entry i).1,
      fun i => (entry i).2, fun w => (wb w).1, fun w => (wb w).2, ?_, ?_, ?_, ?_⟩
    · rw [out, MemPort.command_read hk]
      rfl
    · rw [out, MemPort.command_write hk hw]
      rfl
    · exact (mp q).trans ((if_neg hq).trans (s.beginStep_mp q))
    · exact ports.trans (State.modMP_ports _ p _)
    · exact nodes.trans (State.modMP_nodes _ p _)
    · exact dir.trans (State.modMP_dir _ p _)
    · exact slots.trans (State.modMP_slots _ p _)

end Sys2Proof.Machine
end

section
/-! The writes and the reads that are placed on a Memory Port (chapter 7, sections 7.1, 7.3 and 7.4; R119, R126 to R129). -/

namespace Sys2Proof.Machine

/-! ### The lists of the Write Order Table (R127, R128) -/

section
variable {x : MemPort} {a : MemAddr} {v : WriteRec}

theorem MemPort.mem_writesAt : v ∈ x.writesAt a ↔ v ∈ x.writes ∧ v.addr = a :=
  List.mem_filter.trans (and_congr_right fun _ => beq_iff_eq)

theorem MemPort.writesAt_empty (h : ∀ v ∈ x.writes, v.addr ≠ a) : x.writesAt a = [] :=
  List.eq_nil_iff_forall_not_mem.mpr fun v hv => h v (mem_writesAt.mp hv).1 (mem_writesAt.mp hv).2

theorem MemPort.newest_none (h : x.writesAt a = []) : x.newest a = none := by
  rw [MemPort.newest, h]
  rfl

end

section
variable (x : MemPort) (w : WriteRec)

/-- R128: a list once a write has been added, the marks of which keep every write in its list. -/
theorem MemPort.writesAt_addWrite (a : MemAddr) : (x.addWrite w).writesAt a =
    ((x.writesAt a).map fun v => if v.addr = w.addr then { v with superseded := true } else v) ++
      [w].filter (·.addr == a) := by
  have kept : ((·.addr == a) ∘ fun v : WriteRec => if v.addr = w.addr then { v with superseded := true } else v) =
      (·.addr == a) := funext fun v => by dsimp only [Function.comp]; split <;> rfl
  rw [MemPort.writesAt, MemPort.addWrite, List.filter_append, List.filter_map, kept]
  rfl

/-- R128: a write joins the end of the list of its address, in which all before it are superseded. -/
theorem MemPort.writesAt_addWrite_same : (x.addWrite w).writesAt w.addr =
    ((x.writesAt w.addr).map fun v => { v with superseded := true }) ++ [w] := by
  rw [MemPort.writesAt_addWrite, List.map_congr_left fun v hv => if_pos (MemPort.mem_writesAt.mp hv).2]
  simp

/-- R128: a write leaves the lists of the other addresses as they are. -/
theorem MemPort.writesAt_addWrite_other {a : MemAddr} (h : a ≠ w.addr) : (x.addWrite w).writesAt a = x.writesAt a := by
  have others : ∀ v ∈ x.writesAt a, (if v.addr = w.addr then { v with superseded := true } else v) = v := fun v hv =>
    if_neg fun e => h ((MemPort.mem_writesAt.mp hv).2.symm.trans e)
  rw [MemPort.writesAt_addWrite, List.map_congr_left others]
  simp [h.symm]

end

/-! ### A write placed (R119, R128) -/

theorem State.placeWrite_mp (s : State) (o : OpOwner) (p : MPort) (a : MemAddr) (d : BlockData) (q : MPort) :
    (s.placeWrite o p a d).mp q =
      if q = p then ((s.mp p).addWrite ⟨o, a, d, false, false⟩).queueOp ⟨o, .write, a, false⟩ else s.mp q :=
  State.modMP_mp s p q _

/-! ### A read placed (R119, R126, R129) -/

section
variable {s : State} {p : MPort} {a : MemAddr} (i : TTIdx) (x : Bool)

/-- R129: a read is forwarded from the newest write to its address. -/
theorem State.placeRead_forwards {w : WriteRec} (newest : (s.mp p).newest a = some w) : s.placeRead i p a x =
    s.modEntry i fun e => { e with buffer := ⟨w.beats, 15#4, some .forwarded⟩, memOp := none } := by
  unfold State.placeRead
  rw [newest]
  rfl

/-- R119: a read that no write forwards is queued. -/
theorem State.placeRead_queues (newest : (s.mp p).newest a = none) : s.placeRead i p a x =
    (s.modMP p fun q => { q with issueQ := q.issueQ ++ [⟨.tt i .primary, .read, a, x⟩] }).modEntry i fun e =>
      { e with memOp := some ⟨.read, .primary, none⟩ } := by
  unfold State.placeRead
  rw [newest]
  rfl

end

theorem State.modEntry_mp (s : State) (i : TTIdx) (f : TTEntry → TTEntry) : ∀ p, (s.modEntry i f).mp p = s.mp p :=
  State.mp_congr rfl rfl

theorem State.modEntry_self {s : State} {i : TTIdx} {e : TTEntry} (he : s.entry i = some e) (f : TTEntry → TTEntry) :
    (s.modEntry i f).entry i = some (f e) := by
  rw [State.modEntry_entry, if_pos rfl, he, Option.map_some]

/-- Settles O36: a write by `addWrite` and the lists of the two kinds of addresses, a read by its two cases. -/
theorem writeOrderAndForwarding : Obligations.WriteOrderAndForwarding := by
  refine ⟨fun s o p a d => ?_, fun s i p a e x he => ⟨fun w newest => ?_, fun unwritten => ?_⟩⟩
  · have port := (s.placeWrite_mp o p a d p).trans (if_pos rfl)
    rw [port]
    exact ⟨rfl, (s.mp p).writesAt_addWrite_same ⟨o, a, d, false, false⟩,
      fun c hc => (s.mp p).writesAt_addWrite_other ⟨o, a, d, false, false⟩ hc, rfl,
      fun q hq => (s.placeWrite_mp o p a d q).trans (if_neg hq)⟩
  · rw [State.placeRead_forwards i x newest]
    exact ⟨State.modEntry_self he _, State.modEntry_mp s i _ p⟩
  · rw [State.placeRead_queues i x (MemPort.newest_none unwritten)]
    exact ⟨State.modEntry_self ((s.modMP_entry i p _).trans he) _,
      (State.modEntry_mp _ i _ p).trans ((State.modMP_mp s p p _).trans (if_pos rfl))⟩

end Sys2Proof.Machine
end

section
/-! The ends of a read before its four beats have come (chapter 7, sections 7.3 and 7.4; R124 to R126, R129). -/

namespace Sys2Proof.Machine

theorem State.modMP_modMP (s : State) (p : MPort) (f g : MemPort → MemPort) :
    (s.modMP p f).modMP p g = s.modMP p fun x => g (f x) := by cases p <;> rfl

/-! ### A read ended early (R124, R125) -/

section
variable (s : State) (p : MPort) (t : MemTag) (op : MemOp) (got : Vector (Option Beat) 4) (why : CaptureReason) (x : TagState)

/-- R164: the record of a read that ends early. -/
def State.endRecord : CaptureRecord :=
  ⟨why, s.opWriter op.owner, s.opBlock op.owner, some (p, t), op.owner.ttIndex, some (Fin.ofNat 5 (gotCount got)), s.timeBase⟩

/-- The state in which the early end of a read has been captured. -/
def State.endCaptured : State := (s.modMP p fun y => y.setTag t x).offer (s.endRecord p t op got why)

theorem State.endReadEarly_eq : s.endReadEarly p t op got why x =
    (s.endCaptured p t op got why x).deliverRead op.owner (gotBeats got) := by
  have tagged := WriteFailing.tagged s p t x
  unfold State.endReadEarly
  dsimp only
  rw [State.readRecord_congr tagged.tt tagged.wb tagged.timeBase]
  rfl

theorem State.endCaptured_mp : (s.endCaptured p t op got why x).mp p = (s.mp p).setTag t x :=
  ((WriteFailing.tagged s p t x).offer _).mp

theorem State.endCaptured_entry (i : TTIdx) : (s.endCaptured p t op got why x).entry i = s.entry i :=
  State.entry_congr ((WriteFailing.tagged s p t x).offer _).tt i

/-- R164: the record of the early end is held. -/
theorem State.endCaptured_holds : s.HoldsRecord (s.endCaptured p t op got why x) (s.endRecord p t op got why) :=
  (State.offer_holds _ _).before (congrArg CaptureSlot.record (State.slot_congr (State.modMP_slots s p _) _).symm)

end

/-! ### Commands for a read in flight (R124 to R126) -/

section
variable {s : State} {p : MPort} {t : MemTag} {op : MemOp} {d : Time} {got : Vector (Option Beat) 4}

section
variable (h : (s.mp p).tags[t] = .inFlight op d got) (hk : op.kind = .read)
include h hk

theorem State.memFault_read : s.memFault p t.val = s.endReadEarly p t op got .readFault .free := by
  unfold State.memFault
  simp only [State.tagView_flight h, hk]

theorem State.memRefuse_read : s.memRefuse p t.val = s.refuseRead p t op := by
  unfold State.memRefuse
  simp only [State.tagView_flight h, hk]

theorem State.memExpire_read (hr : s.reached d = true) :
    s.memExpire p t = (s.endReadEarly p t op got .readTimeout (.stale .read (gotSet got))).settle := by
  unfold State.memExpire
  simp only [h, hk, hr, if_true]

end

/-- R126: a second refusal ends a read. -/
theorem State.refuseRead_second (hf : op.refused = true) :
    s.refuseRead p t op = s.endReadEarly p t op (Vector.replicate 4 none) .portRefused .free := if_pos hf

section
variable (hf : op.refused = false) {i : TTIdx} {r : Role} (ho : op.owner = .tt i r)
include hf ho

/-- R126: a first refusal frees the tag and places the read again. -/
theorem State.refuseRead_first : s.refuseRead p t op = (s.modMP p fun x => x.setTag t .free).placeRead i p op.addr true := by
  unfold State.refuseRead
  rw [if_neg (by rw [hf]; exact Bool.false_ne_true), ho]

theorem State.refuseRead_queues (unwritten : ∀ x ∈ (s.mp p).writes, x.addr ≠ op.addr) : s.refuseRead p t op =
    (s.modMP p fun x => { x with
      tags := x.tags.set t .free
      issueQ := x.issueQ ++ [⟨.tt i .primary, .read, op.addr, true⟩] }).modEntry i fun e =>
        { e with memOp := some ⟨.read, .primary, none⟩ } := by
  have newest : ((s.modMP p fun x => x.setTag t .free).mp p).newest op.addr = none := by
    rw [State.modMP_mp, if_pos rfl]
    exact MemPort.newest_none (MemPort.writesAt_empty unwritten)
  rw [State.refuseRead_first hf ho, State.placeRead_queues i true newest, State.modMP_modMP]
  rfl

theorem State.refuseRead_forwards {w : WriteRec} (newest : (s.mp p).newest op.addr = some w) : s.refuseRead p t op =
    (s.modMP p fun x => { x with tags := x.tags.set t .free }).modEntry i fun e =>
      { e with buffer := ⟨w.beats, 15#4, some .forwarded⟩, memOp := none } := by
  have kept : ((s.modMP p fun x => x.setTag t .free).mp p).newest op.addr = some w := by
    rw [State.modMP_mp, if_pos rfl]
    exact newest
  rw [State.refuseRead_first hf ho, State.placeRead_forwards i true kept]
  rfl

end

end

/-- Settles O34: the commands reach `endReadEarly` or the two cases of a read placed again; an early end by the state in
which it is captured. -/
theorem failedReads : Obligations.FailedReads := by
  refine ⟨fun s p t op d got hr ht hk => ?_, fun s p t op got why x i r e ho he => ?_⟩
  · have begun := State.beginStep_flight ht
    have port := s.beginStep_mp p
    rw [exec_mfault hr, exec_mrefuse hr, exec_memoryDeadlineExpiry hr, State.memFault_read begun hk,
      State.memRefuse_read begun hk]
    refine ⟨rfl, fun hd => congrArg _ (State.memExpire_read begun hk hd), fun hf => ?_, fun i r hf ho unwritten => ?_,
      fun i r w hf ho newest => ?_⟩
    · rw [State.refuseRead_second hf]
    · rw [State.refuseRead_queues hf ho (by rw [port]; exact unwritten)]
    · rw [State.refuseRead_forwards hf ho (by rw [port]; exact newest)]
  · have holds := s.endCaptured_holds p t op got why x
    unfold State.endRecord at holds
    rw [State.endReadEarly_eq]
    rw [ho] at holds ⊢
    exact ⟨State.modEntry_self ((s.endCaptured_entry p t op got why x i).trans he) _,
      fun k => Vector.getElem_map _ k.isLt, holds, (State.modEntry_mp _ i _ p).trans (s.endCaptured_mp p t op got why x)⟩

end Sys2Proof.Machine
end

section
/-! The responses that no operation in flight waits for, and the expiry of a deadline that is not due (chapter 7, section 7.6;
R121, R133, R134). -/

namespace Sys2Proof.Machine

/-! ### What a response meets (R121) -/

section
variable {s : State} {p : MPort}

theorem State.tagView_free {t : MemTag} (h : (s.mp p).tags[t] = .free) : s.tagView p t.val = .none t := by
  have tag : tagOf t.val = some t := dif_pos t.isLt
  unfold State.tagView
  simp only [tag, h]

theorem State.tagView_stale {t : MemTag} {kind : OpKind} {got : BitVec 4} (h : (s.mp p).tags[t] = .stale kind got) :
    s.tagView p t.val = .stale t kind got := by
  have tag : tagOf t.val = some t := dif_pos t.isLt
  unfold State.tagView
  simp only [tag, h]

/-- R121: a tag out of range is treated as a FREE one. -/
theorem State.tagView_outOfRange (s : State) (p : MPort) {m : Nat} (h : 16 ≤ m) :
    s.tagView p m = .none (Config.capturedTag m) := by
  have tag : tagOf m = none := dif_neg (Nat.not_lt.mpr h)
  unfold State.tagView
  simp only [tag]

end

/-! ### Responses discarded and captured (R134) -/

/-- R134: the record of a response that no operation in flight waits for. -/
theorem State.unexpectedResponse_eq (s : State) (p : MPort) (t : MemTag) : s.unexpectedResponse p t =
    s.offer ⟨.unexpectedResponse, none, none, some (p, t), none, none, s.timeBase⟩ := rfl

section
variable {s : State} {p : MPort} {m : Nat} {t : MemTag}

/-- R134: each response under a FREE tag is discarded and captured. -/
theorem State.responses_free (h : s.tagView p m = .none t) : (∀ k x, s.beat p m k x = s.unexpectedResponse p t) ∧
    s.ack p m = s.unexpectedResponse p t ∧ s.memFault p m = s.unexpectedResponse p t ∧
    s.memRefuse p m = s.unexpectedResponse p t := by
  unfold State.beat State.ack State.memFault State.memRefuse
  simp only [h, implies_true, and_self]

theorem exec_response_free (hr : s.running = true) (h : s.beginStep.tagView p m = .none t) (k : Fin 4) (data : BitVec 128)
    (mark : Bool) (i : Instr) (hi : i = .mbeat p m k.val data mark ∨ i = .mack p m ∨ i = .mfault p m ∨ i = .mrefuse p m) :
    exec i s = .next (s.beginStep.unexpectedResponse p t).settle := by
  obtain ⟨beat, ack, fault, refuse⟩ := State.responses_free h
  rcases hi with rfl | rfl | rfl | rfl
  · rw [exec_mbeat hr, beat]
  · rw [exec_mack hr, ack]
  · rw [exec_mfault hr, fault]
  · rw [exec_mrefuse hr, refuse]

/-- R134: a beat whose index is out of range is discarded and captured, whatever its tag. -/
theorem exec_mbeat_outOfRange (hr : s.running = true) (p : MPort) (t : MemTag) {beat : Nat} (hb : 4 ≤ beat)
    (data : BitVec 128) (mark : Bool) :
    exec (.mbeat p t.val beat data mark) s = .next (s.beginStep.unexpectedResponse p t) := by
  have tag : tagOf t.val = some t := dif_pos t.isLt
  refine (run_running (fun s => if hk : beat < 4 then (s.beat p t.val ⟨beat, hk⟩ ⟨data, mark⟩).settle
    else s.badBeat p t.val) s hr).trans (congrArg Host.Outcome.next ((dif_neg (Nat.not_lt.mpr hb)).trans ?_))
  rw [State.badBeat, tag, Option.getD_some]

end

section
variable {s : State} {p : MPort} {t : MemTag} {op : MemOp} {d : Time} {got : Vector (Option Beat) 4}
  (h : (s.mp p).tags[t] = .inFlight op d got)
include h

theorem State.beat_write (hk : op.kind = .write) (k : Fin 4) (x : Beat) : s.beat p t.val k x = s.wrongKind p t op.owner := by
  unfold State.beat
  simp only [State.tagView_flight h, hk]

theorem State.ack_read (hk : op.kind = .read) : s.ack p t.val = s.wrongKind p t op.owner := by
  unfold State.ack
  simp only [State.tagView_flight h, hk]

end

/-! ### Responses under a STALE tag (R133, R134) -/

section
variable {s : State} {p : MPort} {t : MemTag} {kind : OpKind} {got : BitVec 4} (h : (s.mp p).tags[t] = .stale kind got)
include h

/-- R133: MFAULT and MREFUSE end every operation. -/
theorem State.failure_stale : s.memFault p t.val = s.modMP p (fun x => x.setTag t .free) ∧
    s.memRefuse p t.val = s.modMP p (fun x => x.setTag t .free) := by
  unfold State.memFault State.memRefuse
  simp only [State.tagView_stale h, and_self]

theorem State.ack_stale : s.ack p t.val =
    if kind = .write then s.modMP p (fun x => x.setTag t .free) else s.unexpectedResponse p t := by
  unfold State.ack
  rw [State.tagView_stale h]
  cases kind <;> rfl

theorem State.beat_stale (k : Fin 4) (x : Beat) : s.beat p t.val k x =
    if kind = .read then s.staleBeat p t got k else s.unexpectedResponse p t := by
  unfold State.beat
  rw [State.tagView_stale h]
  cases kind <;> rfl

end

/-! ### A deadline that is not due -/

theorem State.memExpire_early {s : State} {p : MPort} {t : MemTag}
    (h : ∀ op d got, (s.mp p).tags[t] = .inFlight op d got → s.reached d = false) : s.memExpire p t = s := by
  unfold State.memExpire
  split
  · next op d got flight => exact if_neg (by rw [h op d got flight]; exact Bool.false_ne_true)
  · rfl

/-- Settles O35: by what the response meets: a FREE tag or none, an operation of the other kind, or a STALE tag. -/
theorem responsesOutOfTurn : Obligations.ResponsesOutOfTurn := by
  have begun : ∀ {s : State} {p : MPort} {t : MemTag} {x : TagState}, (s.mp p).tags[t] = x → (s.beginStep.mp p).tags[t] = x :=
    fun {s p t x} h => by rw [s.beginStep_mp]; exact h
  refine ⟨fun s p t k data mark hr ht i hi => exec_response_free hr (State.tagView_free (begun ht)) k data mark i hi,
    fun s p m k data mark hr hm i hi =>
      ⟨_, exec_response_free hr (s.beginStep.tagView_outOfRange p hm) k data mark i hi⟩,
    fun s p t beat data mark hr hb => exec_mbeat_outOfRange hr p t hb data mark,
    fun s p t k data mark op d got hr ht i hi => ?_, fun s p t kind got hr ht i hi => ?_,
    fun s p t got k data mark hr ht => ?_, fun s p t kind got k data mark hr ht i hi => ?_, fun s p t hr hd => ?_⟩
  · have record := State.memRecord_congr (s := s) (u := s.beginStep) rfl rfl rfl .unexpectedResponse p t op.owner
    rcases hi with ⟨hk, rfl⟩ | ⟨hk, rfl⟩
    · rw [exec_mbeat hr, State.beat_write (begun ht) hk, State.wrongKind, record]
    · rw [exec_mack hr, State.ack_read (begun ht) hk, State.wrongKind, record]
  · obtain ⟨fault, refuse⟩ := State.failure_stale (begun ht)
    rcases hi with rfl | rfl | ⟨hk, rfl⟩
    · rw [exec_mfault hr, fault]
      rfl
    · rw [exec_mrefuse hr, refuse]
      rfl
    · rw [exec_mack hr, State.ack_stale (begun ht), if_pos hk]
      rfl
  · rw [exec_mbeat hr, State.beat_stale (begun ht), if_pos rfl]
    rfl
  · rcases hi with ⟨rfl, rfl⟩ | ⟨rfl, rfl⟩
    · rw [exec_mbeat hr, State.beat_stale (begun ht), if_neg nofun]
      rfl
    · rw [exec_mack hr, State.ack_stale (begun ht), if_neg nofun]
      rfl
  · rw [exec_memoryDeadlineExpiry hr, State.memExpire_early fun op d got flight => ?_]
    rw [s.beginStep_mp] at flight
    exact hd op d got flight

end Sys2Proof.Machine
end

section
/-! SET_MEMORY_TIMEOUT and RESET_MEMORY_PORT (chapter 7, section 7.7; R135). -/

namespace Sys2Proof.Machine

/-! ### The arguments (12 section 12.3) -/

section
variable (s : State) {c : ControlReq} (f : MPort → State)

theorem State.withMemPort_code {p : MPort} (h : c.index = portCodeOf p) : s.withMemPort c f = f p := by
  unfold State.withMemPort
  rw [h, portOfCode_code]

theorem State.withMemPort_none (h : 1 < c.index) : s.withMemPort c f = s.replies c .badArgument [] := by
  unfold State.withMemPort
  rw [portOfCode_none h]
  rfl

end

/-! ### The tags of a port (R121, R135) -/

theorem TagState.isFlight_iff (x : TagState) : x.isFlight = true ↔ ∃ op d got, x = .inFlight op d got := by
  cases x <;> simp [TagState.isFlight]

theorem TagState.isStale_eq {x : TagState} (h : ∀ op d got, x ≠ .inFlight op d got) : x.isStale = (x != .free) := by
  cases x with
  | free => rfl
  | stale kind got => rfl
  | inFlight op d got => exact absurd rfl (h op d got)

section
variable {x : MemPort}

theorem MemPort.anyFlight_iff : x.tags.toList.any TagState.isFlight = true ↔
    ∃ (t : MemTag) (op : MemOp) (d : Time) (got : Vector (Option Beat) 4), x.tags[t] = .inFlight op d got := by
  simp only [List.any_eq_true, Vector.mem_toList_iff, Vector.mem_iff_getElem, TagState.isFlight_iff]
  constructor
  · rintro ⟨y, ⟨k, hk, rfl⟩, flight⟩
    exact ⟨⟨k, hk⟩, flight⟩
  · rintro ⟨t, flight⟩
    exact ⟨_, ⟨t.val, t.isLt, rfl⟩, flight⟩

variable (h : ∀ (t : MemTag) (op : MemOp) (d : Time) (got : Vector (Option Beat) 4), x.tags[t] ≠ .inFlight op d got)
include h

/-- R135: without an operation in flight every tag becomes FREE. -/
theorem MemPort.freeStale_idle : x.freeStale = { x with tags := Vector.replicate 16 .free } := by
  have freed : x.tags.map (fun t => if t.isStale then .free else t) = Vector.replicate 16 .free :=
    Vector.ext fun k hk => by
      have idle := TagState.isStale_eq (h ⟨k, hk⟩)
      rw [Vector.getElem_map, Vector.getElem_replicate]
      split
      · rfl
      · next kept => simpa [show x.tags[k].isStale = (x.tags[k] != .free) from idle] using kept
  unfold MemPort.freeStale
  rw [freed]

/-- R135: without an operation in flight the STALE tags are those that are not FREE. -/
theorem MemPort.countStale_idle : x.tags.toList.countP TagState.isStale = x.tags.toList.countP (· != .free) :=
  List.countP_congr fun y hy => by
    obtain ⟨k, hk, rfl⟩ := Vector.mem_iff_getElem.mp (Vector.mem_toList_iff.mp hy)
    rw [show x.tags[k].isStale = (x.tags[k] != .free) from TagState.isStale_eq (h ⟨k, hk⟩)]

end

/-! ### The commands -/

/-- R135: SET_MEMORY_TIMEOUT. -/
theorem setMemoryTimeout_outcomes {s : State} {c : ControlReq} {rest : List ControlReq} (h : AgentTakes s 0x11#8 1 c rest)
    {t : Nat} (ht : t = (c.arg 0).toNat / 65536) :
    (1 < c.index ∨ t = 0 ∨ 4095 < t → exec .setMemoryTimeout s = .next ((s.taking rest).replies c .badArgument [])) ∧
    (∀ p : MPort, c.index = portCodeOf p → 1 ≤ t → t ≤ 4095 → exec .setMemoryTimeout s =
      .next (((s.taking rest).modMP p fun x => { x with timeout := BitVec.ofNat 12 t }).replies c .ok [])) := by
  have performed : exec .setMemoryTimeout s = .next ((s.taking rest).setMemoryTimeout c) := h.performs rfl State.setMemoryTimeout
  subst ht
  rw [performed]
  refine ⟨fun hb => congrArg _ ?_, fun p hp h1 h2 => congrArg _ ?_⟩
  · rcases hb with hb | hb
    · exact State.withMemPort_none _ _ hb
    · unfold State.setMemoryTimeout State.withMemPort
      rw [ControlReq.timeout_none hb]
      cases portOfCode c.index <;> rfl
  · unfold State.setMemoryTimeout
    rw [State.withMemPort_code _ _ hp, ControlReq.timeout_some h1 h2]
    rfl

/-- R135: RESET_MEMORY_PORT with an operation in flight. -/
theorem State.resetMemoryPort_busy {s : State} {c : ControlReq} {p : MPort} (hp : c.index = portCodeOf p)
    (flight : (s.mp p).tags.toList.any TagState.isFlight = true) : s.resetMemoryPort c = s.replies c .busy [] :=
  (s.withMemPort_code _ hp).trans (if_pos flight)

/-- R135: RESET_MEMORY_PORT without an operation in flight. -/
theorem State.resetMemoryPort_frees {s : State} {c : ControlReq} {p : MPort} (hp : c.index = portCodeOf p)
    (idle : ∀ (t : MemTag) (op : MemOp) (d : Time) (got : Vector (Option Beat) 4), (s.mp p).tags[t] ≠ .inFlight op d got) :
    s.resetMemoryPort c = (s.modMP p fun x => { x with tags := Vector.replicate 16 .free }).replies c .ok
      [BitVec.ofNat 32 ((s.mp p).tags.toList.countP fun x => x != .free)] := by
  have resting : ¬(s.mp p).tags.toList.any TagState.isFlight = true := fun flight => by
    obtain ⟨t, op, d, got, e⟩ := MemPort.anyFlight_iff.mp flight
    exact idle t op d got e
  have freed : s.modMP p MemPort.freeStale = s.modMP p fun x => { x with tags := Vector.replicate 16 .free } := by
    have port := MemPort.freeStale_idle idle
    cases p
    · exact congrArg (fun y => { s with mp0 := y }) port
    · exact congrArg (fun y => { s with mp1 := y }) port
  refine (s.withMemPort_code _ hp).trans ((if_neg resting).trans ?_)
  rw [freed, MemPort.countStale_idle idle, place, BitVec.shiftLeft_zero]
  rfl

/-- Settles O56: SET_MEMORY_TIMEOUT by its arguments, RESET_MEMORY_PORT by the operations in flight. -/
theorem memoryPortCommands : Obligations.MemoryPortCommands := by
  refine ⟨fun s c rest t h ht => setMemoryTimeout_outcomes h ht, fun s c rest h => ?_⟩
  have performed : exec .resetMemoryPort s = .next ((s.taking rest).resetMemoryPort c) := h.performs rfl State.resetMemoryPort
  have port : ∀ p, (s.taking rest).mp p = s.mp p := State.mp_congr rfl rfl
  rw [performed]
  refine ⟨fun hb => congrArg _ (State.withMemPort_none _ _ hb), fun p hp => ⟨fun flight => congrArg _ ?_,
    fun idle => congrArg _ ?_⟩⟩
  · rw [← port p] at flight
    exact State.resetMemoryPort_busy hp (MemPort.anyFlight_iff.mpr flight)
  · rw [← port p] at idle ⊢
    exact State.resetMemoryPort_frees hp idle

end Sys2Proof.Machine
end

section
/-! A node with a live quiesce job is QUIESCING, at every step (chapter 8, section 8.3; R139, R140, R142, R160). -/

namespace Sys2Proof.Machine

/-! ### The quiesce jobs of one node -/

theorem Job.live_iff (j : Job) : j.live = true ↔ ∀ o x, j.phase ≠ .done o x := by
  unfold Job.live
  split
  · next o x e => simp [e]
  · next h => exact iff_of_true rfl h

/-- The invariant, node by node. -/
theorem State.quiescesTrue_iff (s : State) : s.QuiescesTrue ↔ ∀ n, (s.node n).state = .quiescing ∨ s.noQuiesce n := by
  refine ⟨fun h n => ?_, fun h j hj n hk hp => ?_⟩
  · by_cases hq : (s.node n).state = .quiescing
    · exact .inl hq
    · refine .inr fun j hj hk => ?_
      rw [← Bool.not_eq_true, Job.live_iff]
      exact fun hp => hq (h j hj n hk hp)
  · refine (h n).resolve_right fun none => ?_
    have live := j.live_iff.mpr hp
    rw [none j hj hk] at live
    cases live

theorem State.QuiescesTrue.congr {s t : State} (h : s.QuiescesTrue) (nodes : t.nodes = s.nodes) (jobs : t.jobs = s.jobs) :
    t.QuiescesTrue := fun j hj n => by
  rw [jobs] at hj
  rw [State.node_congr nodes]
  exact h j hj n

/-- No job left, none to answer for: both resets empty the Sweep List (R163). -/
theorem State.quiescesTrue_empty {s : State} (jobs : s.jobs = []) : s.QuiescesTrue := fun j hj => by
  rw [jobs] at hj
  exact absurd hj List.not_mem_nil

/-- A node record changed: a QUIESCING node stays QUIESCING. -/
theorem State.QuiescesTrue.modNode {s : State} (h : s.QuiescesTrue) (n : NodeId) (f : NodeRec → NodeRec)
    (k : (s.node n).state = .quiescing → (f (s.node n)).state = .quiescing) : (s.modNode n f).QuiescesTrue :=
  fun j hj m hk hp => by
    rw [State.modNode_node]
    split
    · next e => subst e; exact k (h j hj m hk hp)
    · exact h j hj m hk hp

/-- R151: a job placed on the Sweep List; a quiesce job, for a node that is QUIESCING. -/
theorem State.QuiescesTrue.placeJob {s : State} (h : s.QuiescesTrue) (k : JobKind)
    (hk : ∀ n, k = .quiesceNode n → (s.node n).state = .quiescing) : (s.placeJob k).QuiescesTrue := fun j hj n hj' hp => by
  rcases List.mem_append.mp hj with old | new
  · exact h j old n hj' hp
  · rw [List.mem_singleton.mp new] at hj'
    exact hk n hj'

/-- R161: jobs leave the Sweep List. -/
theorem State.QuiescesTrue.leave {s : State} (h : s.QuiescesTrue) (f : Job → Bool) :
    { s with jobs := s.jobs.filter f }.QuiescesTrue := fun j hj => h j (List.mem_of_mem_filter hj)

/-! ### The Sweep Engine and the fence (R140, R142, R160) -/

/-- R159: the quiesce job of a node that has reached DONE is no longer live. -/
theorem State.noQuiesce_done (s : State) (n : NodeId) (o : JobOutcome) (x : JobNotice) :
    (s.setPhase (.quiesceNode n) (.done o x)).noQuiesce n := fun j hj hk => by
  obtain ⟨y, -, rfl⟩ := List.mem_map.mp hj
  split at hk
  · next e => rw [if_pos e]; rfl
  · next e => exact absurd hk e

/-- R140: in the bridge's own work a node keeps its record unless its quiesce job has reached DONE. -/
theorem Work.noQuiesce_or_node {sw : Prop} {s t : State} (w : Work sw s t) (n : NodeId) :
    t.noQuiesce n ∨ t.node n = s.node n := by
  induction w with
  | trans _ later first second =>
    rcases second with ended | same
    · exact .inl ended
    · rcases first with ended | same'
      · exact .inl (later.noQuiesce n ended).1
      · exact .inr (same.trans same')
  | queueOp s p op => cases p <;> exact .inr rfl
  | addWrite s p x h => cases p <;> exact .inr rfl
  | refl | now | modTT | hold | dir | outbound | modSlot | jobs | agent | phase => exact .inr rfl
  | finish _ s k _ =>
    cases k with
    | closeRegion r u => exact .inr rfl
    | fenceNode m => exact .inr rfl
    | quiesceNode m =>
      by_cases e : n = m
      · subst e
        exact .inl (s.noQuiesce_done n .completed .pending)
      · refine .inr ((Calm.quiesceDone_node _ m n).trans ?_)
        rw [if_neg e]
        rfl

theorem State.QuiescesTrue.work {sw : Prop} {s t : State} (h : s.QuiescesTrue) (w : Work sw s t) : t.QuiescesTrue := by
  rw [State.quiescesTrue_iff] at h ⊢
  intro n
  rcases h n with quiescing | none
  · rcases w.noQuiesce_or_node n with ended | same
    · exact .inr ended
    · exact .inl (by rw [same]; exact quiescing)
  · exact .inr (w.noQuiesce n none).1

/-- R142, R160: a fence ends the quiesce job of its node; the other nodes keep their records and their quiesce jobs. -/
theorem State.QuiescesTrue.fence {s : State} (h : s.QuiescesTrue) (n : NodeId) (why : FenceReason) :
    (s.fence n why).QuiescesTrue := by
  have fenced := s.fence_fenced n why
  rw [State.quiescesTrue_iff] at h ⊢
  intro m
  by_cases e : m = n
  · subst e
    exact .inr fenced.noQuiesce
  · rw [fenced.others m e]
    refine (h m).imp_right fun none j hj hk => ?_
    rw [← Bool.not_eq_true]
    intro live
    rcases fenced.jobs j hj live with own | ⟨x, hx, kind, live'⟩
    · rw [hk] at own
      cases own
    · rw [none x hx (kind.trans hk)] at live'
      cases live'

/-! ### Every step -/

/-- Every update of the commands keeps the nodes of live quiesce jobs QUIESCING: QUIESCE_NODE makes its node QUIESCING, an
admission and a release find a node that is not, and a fence and the Sweep Engine end the job with the state. -/
theorem Deed.quiescesTrue {fr : Prop} {s t : State} (d : Deed fr s t) : s.QuiescesTrue → t.QuiescesTrue := by
  induction d with
  | work w => exact fun h => h.work w
  | trans _ _ h k => exact fun x => k (h x)
  | aside e =>
    simp only [State.guarded, Prod.mk.injEq] at e
    obtain ⟨-, -, -, nodes, -, -, -, jobs, -⟩ := e
    exact fun h => h.congr nodes jobs
  | record s n f same => exact fun h => h.modNode n f fun hq => (same _).trans hq
  | fence s n why => exact fun h => h.fence n why
  | makeActive s n offline =>
    refine fun h => (h.modNode n (fun r => { r with state := .active, fenceReason := none }) fun hq => ?_).congr rfl rfl
    rw [offline] at hq
    cases hq
  | quiesce s n _ =>
    refine fun h => (h.modNode n _ fun _ => rfl).placeJob (.quiesceNode n) fun m hm => ?_
    injection hm with hm
    subst hm
    rw [State.modNode_node, if_pos rfl]
  | release s n isFenced =>
    refine fun h => h.modNode n _ fun hq => ?_
    rw [isFenced] at hq
    cases hq
  | close s r u _ =>
    have kept : s.QuiescesTrue → (s.modRegion r fun x => { x with state := .closing }).QuiescesTrue := fun h => h.congr rfl rfl
    exact fun h => (kept h).placeJob (.closeRegion r u) nofun
  | leave s f => exact fun h => h.leave f
  | accept | taken | outbound | link | write | opened | slot | free | control | ask | hold => exact fun h => h.congr rfl rfl

/-- Settles O9: by induction over the updates of which a command is made; a node leaves QUIESCING only with the end of its
quiesce job. -/
theorem quiescesStayTrue : Obligations.QuiescesStayTrue := fun s t hs h =>
  step_keeps (P := State.QuiescesTrue) (fun _ _ k => k.congr rfl rfl) (fun _ _ _ d => d.quiescesTrue)
    (fun _ _ => State.quiescesTrue_empty rfl) (fun _ => State.quiescesTrue_empty rfl) (fun _ _ k => k.congr rfl rfl)
    s t hs h

end Sys2Proof.Machine
end

section
/-! The notices owed (R147, R161, R170), and the time base (R148). -/

namespace Sys2Proof.Machine

/-! ### Owed notices (R147, R161, R170) -/

theorem State.queueJobNotices_unreachable (s : State) (h : s.reachable = false) : s.queueJobNotices = s := by
  unfold State.queueJobNotices
  rw [h]
  rfl

/-- R147: while the notice node is not reachable no notice is queued. -/
theorem State.flushNotices_unreachable (s : State) (h : s.reachable = false) : s.flushNotices = s := by
  unfold State.flushNotices
  rw [s.queueNotice_unreachable .node h, s.queueNotice_unreachable .memory h, s.queueNotice_unreachable .dataLoss h,
    s.queueNotice_unreachable .directory h, s.queueJobNotices_unreachable h]

/-- R161: a DONE job whose notice is PENDING owes it. -/
theorem Job.owed_pending {j : Job} {o : JobOutcome} (h : j.phase = .done o .pending) :
    j.owed = some ⟨.jobNotice j.kind o, .job j.kind⟩ ∧ j.noticeQueued = { j with phase := .done o .queued } := by
  unfold Job.owed Job.noticeQueued
  rw [h]
  exact ⟨rfl, rfl⟩

/-- R161: any other job owes none. -/
theorem Job.owed_none {j : Job} (h : ∀ o, j.phase ≠ .done o .pending) : j.owed = none ∧ j.noticeQueued = j := by
  unfold Job.owed Job.noticeQueued
  split
  · next o e => exact absurd e (h o)
  · exact ⟨rfl, rfl⟩

/-- Settles O15: the ports, the slots and the jobs behind the notices, record by record. -/
theorem pendingNoticesAreQueued : Obligations.PendingNoticesAreQueued := by
  refine ⟨fun s h => s.flushNotices_unreachable h, fun s h => ⟨?_, fun n hn => ?_, fun k o ho => ?_, fun k ho => ?_, ?_⟩,
    fun j o h => Job.owed_pending h, fun j h => Job.owed_none h⟩
  · rw [State.flushNotices_port, if_pos ⟨rfl, h⟩, Port.send_outbound, List.append_assoc]
  · rw [State.flushNotices_port, if_neg fun e => hn e.1]
  · rw [State.flushNotices_slot, if_pos h, CaptureSlot.told_some ho]
  · rw [State.flushNotices_slot, if_pos h, CaptureSlot.told_none ho]
  · rw [State.flushNotices_jobs, if_pos h]

/-! ### The time base (R148) -/

/-- R148: no update of the commands but the tick and the resets touches the time base. -/
theorem Deed.timeBase {fr : Prop} {s t : State} (d : Deed fr s t) : t.timeBase = s.timeBase := by
  induction d with
  | work w => exact (Calm.of_work w).timeBase
  | trans _ _ h k => exact k.trans h
  | aside e =>
    simp only [State.guarded, Prod.mk.injEq] at e
    obtain ⟨-, time, -⟩ := e
    exact time
  | fence s n why =>
    have rest := (s.fence_fenced n why).rest
    simp only [Prod.mk.injEq] at rest
    obtain ⟨-, -, -, -, -, -, time, -⟩ := rest
    exact time
  | accept | taken | outbound | link | record | makeActive | quiesce | release | close | write | opened | slot | free
  | control | ask | hold | leave => rfl

/-- R148, R184: a warm reset keeps the time base. -/
theorem exec_restart_timeBase {s t : State} (h : exec .restart s = .next t) : t.timeBase = s.timeBase := by
  have kept := fun u : State => restart_keeps (P := fun v => v.timeBase = u.timeBase) (fun _ _ _ d e => d.timeBase.trans e)
    (fun _ e => e) u rfl
  injection h with h
  subst h
  split
  · exact kept s.beginStep
  · rfl

/-- Settles O6: RESTART by its warm reset, every other command by the updates of which it is made. -/
theorem timeBaseAdvances : Obligations.TimeBaseAdvances := by
  refine ⟨fun s hr => run_running (fun t => { t with timeBase := t.timeBase + 1#32 }) s hr, fun c s t h tick cold => ?_⟩
  by_cases warm : c = .restart
  · subst warm
    exact exec_restart_timeBase h
  · exact (Deed.exec c s t h tick warm cold).timeBase

end Sys2Proof.Machine
end

section
/-! The walk of a job through the Directory (chapter 9; R153 to R159). -/

namespace Sys2Proof.Machine

/-! ### Drains and final tests (R153, R159) -/

/-- A test of every TT index that a free one passes, and that asks of an entry in use what `q` says. -/
theorem State.all_entries_iff {s : State} {p : TTIdx → Bool} {q : TTEntry → Prop}
    (free : ∀ i, s.entry i = none → p i = true) (used : ∀ i e, s.entry i = some e → (p i = true ↔ q e)) :
    allTT.all p = true ↔ ∀ i e, s.entry i = some e → q e := by
  simp only [List.all_eq_true, mem_allTT, true_implies]
  refine forall_congr' fun i => ⟨fun h e he => (used i e he).mp h, fun h => ?_⟩
  cases he : s.entry i with
  | none => exact free i he
  | some e => exact (used i e he).mpr (h e he)

theorem State.regionDrained_iff (s : State) (r : RegionIdx) : s.regionDrained r = true ↔
    (∀ i e, s.entry i = some e → (s.region r).contains e.block = false ∧
      ∀ v, e.victim = some v → (s.region r).contains v.entry.block = false) ∧
    ∀ h ∈ s.hold, (s.region r).contains h.req.block = false := by
  refine Bool.and_eq_true_iff.trans (and_congr
    (State.all_entries_iff (fun i h => by rw [h]) fun i e h => ?_) ?_)
  · cases hv : e.victim <;> simp [h, TTEntry.blockOf, State.inRegion, hv]
  · simp [State.inRegion]

theorem State.nodeDrained_iff (s : State) (n : NodeId) : s.nodeDrained n = true ↔
    (∀ i e tag, s.entry i = some e → e.requester ≠ some (n, tag)) ∧ ∀ h ∈ s.hold, h.req.node ≠ n := by
  have unasked : ∀ e : TTEntry, (!e.requestedBy n) = true ↔ ∀ tag, e.requester ≠ some (n, tag) := fun e => by
    rw [Bool.not_eq_true', ← Bool.not_eq_true, TTEntry.requestedBy_iff, not_exists]
  refine Bool.and_eq_true_iff.trans (and_congr
    ((State.all_entries_iff (q := fun e => ∀ tag, e.requester ≠ some (n, tag)) (fun i h => by rw [h]) fun i e h => ?_).trans
      (forall₂_congr fun i e => forall_comm)) ?_)
  · rw [h]
    exact unasked e
  · simp

theorem TTEntry.openMember_isNone (e : TTEntry) (r : Role) (n : NodeId) :
    (e.openMember r n).isNone = true ↔ ∀ m ∈ e.recallsOf r, m.node = n → m.resolution ≠ none := by
  simp [TTEntry.openMember, ← Member.resolved_iff]

theorem State.noMember_iff (s : State) (n : NodeId) : s.noMember n = true ↔
    ∀ i e, s.entry i = some e → ∀ r, ∀ m ∈ e.recallsOf r, m.node = n → m.resolution ≠ none := by
  refine State.all_entries_iff (fun i h => by rw [h]) fun i e h => ?_
  simp only [h, Bool.and_eq_true, TTEntry.openMember_isNone]
  exact ⟨fun ⟨hp, hv⟩ r => match r with | .primary => hp | .victim => hv, fun hr => ⟨hr .primary, hr .victim⟩⟩

/-! ### The ways of a set that the walk must act on (R154, R155) -/

theorem State.mustAct_iff (s : State) (k : JobKind) (e : DirEntry) : s.mustAct k e = true ↔ s.WalkActs k e := by
  cases k with
  | closeRegion r u => exact Iff.rfl
  | quiesceNode n => exact Bool.or_eq_true_iff
  | fenceNode n => exact Bool.or_eq_true_iff

/-- R155, R158: a fence walk starts an entry on a way that its target owns; the others start one on every way. -/
theorem JobKind.needsEntry_iff (k : JobKind) (e : DirEntry) :
    k.needsEntry e = true ↔ ∀ n, k = .fenceNode n → e.rights = .owned n := by
  cases k with
  | fenceNode n => simp [JobKind.needsEntry, Rights.owner_iff]
  | closeRegion r u => simp [JobKind.needsEntry]
  | quiesceNode n => simp [JobKind.needsEntry]

section
variable (s : State) (k : JobKind) (pos : SetIdx)

/-- What a way contributes to the ways to act on. -/
theorem State.wayToAct_iff (w : WayIdx) (p : WayIdx × DirEntry) :
    (((s.dirSet pos).way w).entry?.bind fun e => if s.mustAct k e then some (w, e) else none) = some p ↔
      p.1 = w ∧ (s.dirSet pos).way w = .held p.2 ∧ s.WalkActs k p.2 := by
  obtain ⟨v, f⟩ := p
  simp only [Option.bind_eq_some_iff, Way.entry?_eq_some, Option.ite_none_right_eq_some, State.mustAct_iff,
    Option.some.injEq, Prod.mk.injEq]
  constructor
  · rintro ⟨e, he, acts, rfl, rfl⟩
    exact ⟨rfl, he, acts⟩
  · rintro ⟨rfl, he, acts⟩
    exact ⟨f, he, acts, rfl, rfl⟩

theorem State.mem_waysToAct (v : WayIdx) (e : DirEntry) :
    (v, e) ∈ s.waysToAct k pos ↔ (s.dirSet pos).way v = .held e ∧ s.WalkActs k e := by
  unfold State.waysToAct
  simp only [List.mem_filterMap, State.wayToAct_iff, mem_allWays, true_and]
  exact ⟨fun ⟨_, h, x⟩ => h ▸ x, fun x => ⟨v, rfl, x⟩⟩

theorem State.waysToAct_nil :
    s.waysToAct k pos = [] ↔ ∀ v e, (s.dirSet pos).way v = .held e → ¬s.WalkActs k e := by
  simp only [List.eq_nil_iff_forall_not_mem, Prod.forall, State.mem_waysToAct, not_and]

/-- The ways are listed in ascending order, each once. -/
theorem State.waysToAct_ascending : (s.waysToAct k pos).Pairwise fun p q => p.1 < q.1 := by
  refine List.Pairwise.filterMap _ (fun v w lt p hp q hq => ?_) allWays_ascending
  obtain ⟨rfl, -⟩ := (s.wayToAct_iff k pos v p).mp hp
  obtain ⟨rfl, -⟩ := (s.wayToAct_iff k pos w q).mp hq
  exact lt

theorem State.startsEntry_iff (v : WayIdx) (e : DirEntry) :
    ((v, e) ∈ s.waysToAct k pos ∧ (k.needsEntry e && !s.claimed e.block) = true) ↔ s.WalkStarts k pos v e := by
  rw [State.mem_waysToAct, Bool.and_eq_true, JobKind.needsEntry_iff, Bool.not_eq_true', and_assoc]
  rfl

theorem State.wayToStart_none : s.wayToStart k pos = none ↔ ∀ v e, ¬s.WalkStarts k pos v e := by
  unfold State.wayToStart
  simp only [List.find?_eq_none, Prod.forall, ← State.startsEntry_iff, not_and]

theorem State.wayToStart_isSome : (s.wayToStart k pos).isSome = true ↔ ∃ v e, s.WalkStarts k pos v e := by
  rw [Option.isSome_iff_ne_none, Ne, State.wayToStart_none]
  push Not
  rfl

/-- R155: the first way that must be acted on, needs an entry and is unclaimed. -/
theorem State.wayToStart_first {v : WayIdx} {e : DirEntry} (h : s.WalkStarts k pos v e)
    (first : ∀ u, u < v → ∀ f, ¬s.WalkStarts k pos u f) : s.wayToStart k pos = some (v, e) := by
  cases hf : s.wayToStart k pos with
  | none => exact absurd h ((s.wayToStart_none k pos).mp hf v e)
  | some p =>
    obtain ⟨u, f⟩ := p
    obtain ⟨starts, front, back, listed, skipped⟩ := List.find?_eq_some_iff_append.mp hf
    obtain ⟨member, needs⟩ := (s.startsEntry_iff k pos v e).mpr h
    have order := s.waysToAct_ascending k pos
    have founds : s.WalkStarts k pos u f := (s.startsEntry_iff k pos u f).mp ⟨by rw [listed]; simp, starts⟩
    rw [listed] at member order
    rcases List.mem_append.mp member with early | late
    · have := skipped _ early
      rw [needs] at this
      cases this
    · rcases List.mem_cons.mp late with here | later
      · rw [here]
      · have lt : u < v := (List.pairwise_cons.mp (List.pairwise_append.mp order).2.1).1 _ later
        exact absurd founds (first u lt f)

end

/-! ### The sharers that a fence walk removes (R158) -/

/-- R158: what a fence walk's reading makes of a way, given which blocks are claimed: a sharer of an unclaimed entry with
status GOOD leaves it, and the entry goes with its last sharer. -/
def Way.withoutSharer (claimed : Block → Bool) (n : NodeId) (x : Way) : Way :=
  match x with
  | .held ⟨b, .shared hs, false⟩ =>
    if hs.has n && !claimed b then (if hs.del n = NodeSet.none then .empty else .held ⟨b, .shared (hs.del n), false⟩) else x
  | _ => x

theorem Way.withoutSharer_removes {claimed : Block → Bool} {n : NodeId} {e : DirEntry} {hs : NodeSet} (hf : e.failed = false)
    (hr : e.rights = .shared hs) (hn : hs.has n = true) (hc : claimed e.block = false) : Way.withoutSharer claimed n (.held e) =
      if hs.del n = 0#8 then .empty else .held { e with rights := .shared (hs.del n) } := by
  obtain ⟨b, r, f⟩ := e
  subst hf hr
  exact if_pos (by rw [hn, hc]; rfl)

theorem Way.withoutSharer_keeps {claimed : Block → Bool} {n : NodeId} {x : Way}
    (h : ∀ e hs, x = .held e → e.failed = false → e.rights = .shared hs → hs.has n = true → claimed e.block = true) :
    x.withoutSharer claimed n = x := by
  unfold Way.withoutSharer
  split
  · next b hs =>
    refine if_neg fun removes => ?_
    obtain ⟨hn, hc⟩ := Bool.and_eq_true_iff.mp removes
    rw [h _ hs rfl rfl rfl hn] at hc
    cases hc
  · rfl

/-- Between two states, of which the first is sound, only the ways of one set have been rewritten, and the second is sound. -/
structure State.Rewrites (s t : State) (pos : SetIdx) (ways : WayIdx → Way) : Prop where
  sound : t.DirectorySound
  besides : t = { s with dir := t.dir }
  others : ∀ p, p ≠ pos → t.dirSet p = s.dirSet p
  ways : ∀ v, (t.dirSet pos).way v = ways v
  recency : (t.dirSet pos).recency.Sublist (s.dirSet pos).recency

theorem State.Rewrites.refl {s : State} (h : s.DirectorySound) (pos : SetIdx) : s.Rewrites s pos (s.dirSet pos).way :=
  ⟨h, rfl, fun _ _ => rfl, fun _ => rfl, .refl _⟩

theorem State.Rewrites.trans {s t u : State} {pos : SetIdx} {f g : WayIdx → Way} (h : s.Rewrites t pos f)
    (k : t.Rewrites u pos g) : s.Rewrites u pos g where
  sound := k.sound
  besides := by rw [k.besides, h.besides]
  others p hp := (k.others p hp).trans (h.others p hp)
  ways := k.ways
  recency := k.recency.trans h.recency

theorem State.Rewrites.congr {s t : State} {pos : SetIdx} {f g : WayIdx → Way} (h : s.Rewrites t pos f)
    (hg : ∀ v, f v = g v) : s.Rewrites t pos g := funext hg ▸ h

/-- The recency order of a set that lost HELD ways is the old order without them. -/
theorem DirSet.Sound.recency_eq_filter {old new : DirSet} {p q : SetIdx} (ho : old.Sound p) (hn : new.Sound q)
    (sub : new.recency.Sublist old.recency) : new.recency = old.recency.filter fun v => (new.way v).entry?.isSome := by
  have listed : ∀ v, v ∈ new.recency ↔ (new.way v).entry?.isSome = true := fun v => by
    rw [hn.order, Option.isSome_iff_exists]
    simp only [Way.entry?_eq_some]
  have within := sub.filter fun v => (new.way v).entry?.isSome
  rw [List.filter_eq_self.mpr fun v hv => (listed v).mp hv] at within
  refine within.eq_of_length_le ((ho.nodup.filter _).subperm fun v hv => ?_).length_le
  obtain ⟨-, held⟩ := List.mem_filter.mp hv
  exact (listed v).mpr held

/-- A HELD way of a sound set is the one that a search for its block finds. -/
theorem DirSet.Sound.findHeld_way {ds : DirSet} {k : SetIdx} (h : ds.Sound k) {v : WayIdx} {e : DirEntry} (hv : ds.way v = .held e) :
    ds.findHeld e.block = some (v, e) :=
  (ds.findHeld_iff _ v e).mpr ⟨hv, rfl, fun u lt f hu eq => absurd (h.once u v f e hu hv eq) (Fin.ne_of_lt lt)⟩

/-- A set of nodes whose last member leaves is that node alone. -/
theorem NodeSet.eq_only {hs : NodeSet} {n : NodeId} (hn : hs.has n = true) (hd : hs.del n = NodeSet.none) :
    hs = NodeSet.only n := by
  revert hs n
  decide

/-- R42, R43: an unclaimed entry with status GOOD loses a sharer. -/
theorem State.removeHolder_rewrites {t : State} {n : NodeId} {pos : SetIdx} {v : WayIdx} {e : DirEntry} {hs : NodeSet}
    (sound : t.DirectorySound) (hv : (t.dirSet pos).way v = .held e) (hf : e.failed = false) (hr : e.rights = .shared hs)
    (hn : hs.has n = true) (hc : t.claimed e.block = false) : t.Rewrites (t.removeHolder n e.block) pos
      fun u => if u = v then (if hs.del n = NodeSet.none then .empty else .held { e with rights := .shared (hs.del n) })
        else (t.dirSet pos).way u := by
  have set := t.dirSet_sound sound pos
  obtain rfl : setOf e.block = pos := set.own v e hv
  have found := set.findHeld_way hv
  obtain ⟨x, removed, ways, recency⟩ : ∃ x : DirSet, t.removeHolder n e.block = t.putSet (setOf e.block) x ∧
      (∀ u, x.way u = if u = v then (if hs.del n = NodeSet.none then .empty else .held { e with rights := .shared (hs.del n) })
        else (t.dirSet (setOf e.block)).way u) ∧ x.recency.Sublist (t.dirSet (setOf e.block)).recency := by
    by_cases hd : hs.del n = NodeSet.none
    · have unclaimed : t.claimant e.block = none := Option.isNone_iff_eq_none.mp (by simpa [State.claimed] using hc)
      refine ⟨(t.dirSet (setOf e.block)).vacate v .empty, ?_, fun u => ?_, List.erase_sublist⟩
      · rw [State.removeHolder_last found hf (.inr (by rw [hr, NodeSet.eq_only hn hd])), State.removeEntry_some found,
          State.vacated_unclaimed _ _ unclaimed]
      · rw [if_pos hd]
        exact DirSet.way_setWay _ v u _
    · refine ⟨_, State.removeHolder_sharer found hf hr hn hd, fun u => ?_, .refl _⟩
      rw [if_neg hd]
      exact DirSet.way_setWay _ v u _
  have read := fun p => t.dirSet_putSet (setOf e.block) p x sound.1
  refine ⟨(Calm.of_work (Work.removeHolder (sw := True) t n e.block)).dir.sound sound, t.removeHolder_dirOnly n e.block,
    fun p hp => ?_, fun u => ?_, ?_⟩
  · rw [removed, read, if_neg hp]
  · rw [removed, read, if_pos rfl, ways]
  · rw [removed, read, if_pos rfl]
    exact recency

/-- R158: what a fence walk's reading does for one of the ways that it must act on. -/
def State.dropSharer (claimed : Block → Bool) (n : NodeId) (t : State) (p : WayIdx × DirEntry) : State :=
  if p.2.failed || (JobKind.fenceNode n).needsEntry p.2 || claimed p.2.block then t else t.removeHolder n p.2.block

theorem State.removeSharers_fence (s : State) (n : NodeId) (pos : SetIdx) : s.removeSharers (.fenceNode n) pos =
    (s.waysToAct (.fenceNode n) pos).foldl (State.dropSharer s.claimed n) s := rfl

theorem State.dropSharer_rewrites {s t : State} {n : NodeId} {pos : SetIdx} {v : WayIdx} {e : DirEntry} (sound : t.DirectorySound)
    (tt : t.tt = s.tt) (hv : (t.dirSet pos).way v = .held e) (acts : s.WalkActs (.fenceNode n) e) :
    t.Rewrites (t.dropSharer s.claimed n (v, e)) pos fun u =>
      if u = v then (Way.held e).withoutSharer s.claimed n else (t.dirSet pos).way u := by
  have claimed : t.claimed e.block = s.claimed e.block := congrArg Option.isSome (State.claimant_congr tt _)
  by_cases removes : ∃ hs, e.failed = false ∧ e.rights = .shared hs ∧ hs.has n = true ∧ s.claimed e.block = false
  · obtain ⟨hs, hf, hr, hn, hc⟩ := removes
    have drops : t.dropSharer s.claimed n (v, e) = t.removeHolder n e.block :=
      if_neg (by simp [hf, hc, JobKind.needsEntry, hr, Rights.owner])
    rw [drops, Way.withoutSharer_removes hf hr hn hc]
    exact State.removeHolder_rewrites sound hv hf hr hn (claimed.trans hc)
  · have keeps : t.dropSharer s.claimed n (v, e) = t := by
      refine if_pos (Bool.of_not_eq_false fun kept => removes ?_)
      obtain ⟨skips, hc⟩ := Bool.or_eq_false_iff.mp kept
      obtain ⟨good, unowned⟩ := Bool.or_eq_false_iff.mp skips
      have hn : e.rights.holders.has n = true := acts.resolve_left (Bool.eq_false_iff.mp good)
      cases hr : e.rights with
      | shared hs =>
        rw [hr] at hn
        exact ⟨hs, good, rfl, hn, hc⟩
      | owned o =>
        rw [hr] at hn
        obtain rfl := (NodeSet.has_only_iff o n).mp hn
        exact absurd ((JobKind.needsEntry_iff _ e).mpr fun m hm => by cases hm; exact hr) (Bool.eq_false_iff.mp unowned)
    rw [keeps, Way.withoutSharer_keeps fun f hs hf good shared hn => ?_]
    · refine ⟨sound, rfl, fun _ _ => rfl, fun u => ?_, .refl _⟩
      split
      · next hu => rw [hu, hv]
      · rfl
    · cases hf
      exact Bool.of_not_eq_false fun hc => removes ⟨hs, good, shared, hn, hc⟩

/-- R158: what a reading makes of the ways of its set, one way after the other. -/
theorem State.foldl_dropSharer {s : State} {n : NodeId} {pos : SetIdx} (l : List (WayIdx × DirEntry)) {t : State}
    (sound : t.DirectorySound) (tt : t.tt = s.tt) (once : l.Pairwise fun p q => p.1 < q.1)
    (held : ∀ p ∈ l, (t.dirSet pos).way p.1 = .held p.2 ∧ s.WalkActs (.fenceNode n) p.2) :
    t.Rewrites (l.foldl (State.dropSharer s.claimed n) t) pos fun u =>
      if u ∈ l.map Prod.fst then ((t.dirSet pos).way u).withoutSharer s.claimed n else (t.dirSet pos).way u := by
  induction l generalizing t with
  | nil => exact .refl sound pos
  | cons p l ih =>
    obtain ⟨v, e⟩ := p
    obtain ⟨above, once⟩ := List.pairwise_cons.mp once
    obtain ⟨⟨hv, acts⟩, held⟩ := List.forall_mem_cons.mp held
    have first := State.dropSharer_rewrites sound tt hv acts
    have rest := ih first.sound (by rw [first.besides]; exact tt) once fun q hq => by
      rw [first.ways, if_neg (Fin.ne_of_gt (above q hq))]
      exact held q hq
    refine (first.trans rest).congr fun u => ?_
    simp only [first.ways, List.map_cons, List.mem_cons]
    by_cases hu : u = v
    · have out : v ∉ l.map Prod.fst := fun m => by
        obtain ⟨q, hq, eq⟩ := List.mem_map.mp m
        exact absurd eq (Fin.ne_of_gt (above q hq))
      simp [hu, hv, out]
    · simp only [if_neg hu]
      exact if_congr (or_iff_right hu).symm rfl rfl

/-- R158: a fence walk's reading takes its node from the sharers of every unclaimed entry of the set with status GOOD. -/
theorem State.removeSharers_rewrites {s : State} (sound : s.DirectorySound) (n : NodeId) (pos : SetIdx) :
    s.Rewrites (s.removeSharers (.fenceNode n) pos) pos fun v => ((s.dirSet pos).way v).withoutSharer s.claimed n := by
  have swept := State.foldl_dropSharer (s.waysToAct (.fenceNode n) pos) sound rfl (s.waysToAct_ascending _ _)
    fun p hp => (s.mem_waysToAct _ _ p.1 p.2).mp hp
  refine swept.congr fun v => ?_
  split
  · rfl
  · next out =>
    refine (Way.withoutSharer_keeps fun e hs he _ hr hn => absurd ?_ out).symm
    refine List.mem_map.mpr ⟨(v, e), (s.mem_waysToAct _ _ v e).mpr ⟨he, .inr ?_⟩, rfl⟩
    rw [hr]
    exact hn

/-- R154, R158: a reading writes nothing but the Directory before it sets its walk. -/
theorem State.removeSharers_besides {s : State} (sound : s.DirectorySound) (k : JobKind) (pos : SetIdx) :
    (s.removeSharers k pos).DirectorySound ∧ s.removeSharers k pos = { s with dir := (s.removeSharers k pos).dir } := by
  cases k with
  | fenceNode n =>
    have swept := State.removeSharers_rewrites sound n pos
    exact ⟨swept.sound, swept.besides⟩
  | closeRegion r u => exact ⟨sound, rfl⟩
  | quiesceNode n => exact ⟨sound, rfl⟩

/-! ### The set that the walk enters next (R154) -/

theorem Directory.nextSet_cons (k : SetIdx) (v : DirSet) (rest : Directory) (pos : SetIdx) :
    Directory.nextSet ((k, v) :: rest) pos = if pos < k then some k else rest.nextSet pos := by
  unfold Directory.nextSet
  rw [List.find?_cons]
  by_cases h : pos < k <;> simp [h]

/-- The next set is the next listed one. -/
theorem Directory.nextSet_some {d : Directory} {pos k : SetIdx} (h : d.wf = true) (behind : pos < k)
    (full : d.get k ≠ DirSet.empty) (between : ∀ j, pos < j → j < k → d.get j = DirSet.empty) : d.nextSet pos = some k := by
  induction d with
  | nil => exact absurd rfl full
  | cons p rest ih =>
    obtain ⟨m, v⟩ := p
    obtain ⟨hv, above, hr⟩ := (Directory.wf_cons m v rest).mp h
    have here : Directory.get ((m, v) :: rest) m = v := if_pos rfl
    have later : ∀ j, m ≠ j → Directory.get ((m, v) :: rest) j = Directory.get rest j := fun j hj => if_neg hj
    rw [Directory.nextSet_cons]
    split
    · next hm =>
      rcases lt_trichotomy m k with lt | eq | gt
      · exact absurd (here.symm.trans (between m hm lt)) hv
      · rw [eq]
      · refine absurd ?_ full
        rw [later k (ne_of_gt gt)]
        exact Directory.get_below rest k fun q hq => lt_trans gt (above q hq)
    · next hm =>
      have past : ∀ j, pos < j → m ≠ j := fun j hj eq => hm (eq ▸ hj)
      exact ih hr (later k (past k behind) ▸ full) fun j hj hk => later j (past j hj) ▸ between j hj hk

/-- Behind the last listed set there is none. -/
theorem Directory.nextSet_none {d : Directory} {pos : SetIdx} (h : d.wf = true)
    (behind : ∀ j, pos < j → d.get j = DirSet.empty) : d.nextSet pos = none := by
  induction d with
  | nil => rfl
  | cons p rest ih =>
    obtain ⟨m, v⟩ := p
    obtain ⟨hv, above, hr⟩ := (Directory.wf_cons m v rest).mp h
    have here : Directory.get ((m, v) :: rest) m = v := if_pos rfl
    have hm : ¬pos < m := fun lt => hv (here.symm.trans (behind m lt))
    have later : ∀ j, pos < j → Directory.get ((m, v) :: rest) j = Directory.get rest j :=
      fun j hj => if_neg fun eq => hm (lt_of_lt_of_eq hj eq.symm)
    rw [Directory.nextSet_cons, if_neg hm]
    exact ih hr fun j hj => later j hj ▸ behind j hj

/-! ### What a reading makes of the walk (R154) -/

section
variable {s : State} {k : JobKind} {w : Walk}

/-- R154: a reading that finds no way to act on, and no entry started that is left, leaves the set. -/
theorem State.afterReading_leaves (idle : ∀ v e, (s.dirSet w.pos).way v = .held e → ¬s.WalkActs k e)
    (ended : w.started = []) : s.afterReading k w = s.leaveSet w.pos := if_pos ⟨(s.waysToAct_nil k w.pos).mpr idle, ended⟩

theorem State.leaveSet_enters {pos p : SetIdx} (hc : s.DirectoryCanonical) (h : s.NextSet pos p) :
    s.leaveSet pos = ⟨p, [], false, true, false⟩ := by
  obtain ⟨behind, full, between⟩ := h
  unfold State.leaveSet
  rw [Directory.nextSet_some hc behind full between]
  rfl

theorem State.leaveSet_passes {pos : SetIdx} (hc : s.DirectoryCanonical) (h : ∀ p, pos < p → s.dirSet p = DirSet.empty) :
    s.leaveSet pos = ⟨2047, [], true, false, false⟩ := by
  unfold State.leaveSet
  rw [Directory.nextSet_none hc h]
  rfl

/-- R154, R155: a reading that finds a way to act on, or whose entries started have not all retired, stays in the set. -/
theorem State.afterReading_stays (busy : (∃ v e, (s.dirSet w.pos).way v = .held e ∧ s.WalkActs k e) ∨ w.started ≠ []) :
    s.afterReading k w = { w with due := false, wants := (s.wayToStart k w.pos).isSome } := by
  refine if_neg fun ⟨idle, ended⟩ => ?_
  rcases busy with ⟨v, e, hv, acts⟩ | left
  · exact (s.waysToAct_nil k w.pos).mp idle v e hv acts
  · exact left ended

end

/-! ### The parts of the statement -/

/-- R153, R154: what a job does that drains, and what a walk does that has sets to pass. -/
theorem State.sweepStep_drains {s : State} {j : Job} (h : s.runningJob = some j) :
    (∀ r, j.phase = .draining → j.kind = .closeRegion r false → s.sweepStep =
      if s.regionDrained r = true then some (s.setPhase j.kind (.walking ⟨0, [], false, true, false⟩)) else none) ∧
    (∀ r, j.phase = .draining → j.kind = .closeRegion r true → s.sweepStep =
      if s.regionDrained r = true then some (s.jobDone j.kind) else none) ∧
    (∀ n, j.phase = .draining → j.kind = .quiesceNode n → s.sweepStep =
      if s.nodeDrained n = true then some (s.setPhase j.kind (.walking ⟨0, [], false, true, false⟩)) else none) ∧
    (∀ w, j.phase = .walking w → w.passed = false →
      s.sweepStep = if w.due = true then some (s.readSet j.kind w) else none) := by
  refine ⟨fun r hp hk => ?_, fun r hp hk => ?_, fun n hp hk => ?_, fun w hp hw => ?_⟩
  · rw [State.sweepStep_draining h hp, hk]
    rfl
  · rw [State.sweepStep_draining h hp, hk]
    rfl
  · rw [State.sweepStep_draining h hp, hk]
    rfl
  · rw [State.sweepStep_walking h hp, if_neg (by rw [hw]; exact Bool.false_ne_true)]

/-- R158: what the reading of a fence walk leaves of the Directory. -/
theorem State.readSet_fence {s : State} (sound : s.DirectorySound) (n : NodeId) (w : Walk) {t : State}
    (ht : t = s.readSet (.fenceNode n) w) :
    (∀ p, p ≠ w.pos → t.dirSet p = s.dirSet p) ∧
    (∀ v e hs, (s.dirSet w.pos).way v = .held e → e.failed = false → e.rights = .shared hs → hs.has n = true →
      s.claimed e.block = false → (t.dirSet w.pos).way v =
        if hs.del n = 0#8 then .empty else .held { e with rights := .shared (hs.del n) }) ∧
    (∀ v, (∀ e hs, (s.dirSet w.pos).way v = .held e → e.failed = false → e.rights = .shared hs → hs.has n = true →
      s.claimed e.block = true) → (t.dirSet w.pos).way v = (s.dirSet w.pos).way v) ∧
    (t.dirSet w.pos).recency = (s.dirSet w.pos).recency.filter fun v => ((t.dirSet w.pos).way v).entry?.isSome := by
  subst ht
  have swept := State.removeSharers_rewrites sound n w.pos
  refine ⟨swept.others, fun v e hs hv hf hr hn hc => (swept.ways v).trans ?_,
    fun v h => (swept.ways v).trans (Way.withoutSharer_keeps h), ?_⟩
  · rw [hv]
    exact Way.withoutSharer_removes hf hr hn hc
  · exact (s.dirSet_sound sound w.pos).recency_eq_filter (State.dirSet_sound _ swept.sound w.pos) swept.recency

/-- R154: what a reading makes of the walk and of the job that it belongs to. -/
theorem State.readSet_walk {s : State} (sound : s.DirectorySound) (k : JobKind) (w : Walk) {t : State} (ht : t = s.readSet k w) :
    ∃ x : Walk, t.jobs = s.jobs.map (fun j => if j.kind = k then { j with phase := .walking x } else j) ∧
      ((∀ v e, (t.dirSet w.pos).way v = .held e → ¬t.WalkActs k e) → w.started = [] →
        (∀ p, t.NextSet w.pos p → x = ⟨p, [], false, true, false⟩) ∧
        ((∀ p, w.pos < p → t.dirSet p = DirSet.empty) → x = ⟨2047, [], true, false, false⟩)) ∧
      ((∃ v e, (t.dirSet w.pos).way v = .held e ∧ t.WalkActs k e) ∨ w.started ≠ [] →
        x.pos = w.pos ∧ x.started = w.started ∧ x.passed = w.passed ∧ x.due = false ∧
        (x.wants = true ↔ ∃ v e, t.WalkStarts k w.pos v e)) := by
  subst ht
  obtain ⟨swept, besides⟩ := State.removeSharers_besides sound k w.pos
  have jobs : (s.removeSharers k w.pos).jobs = s.jobs := by rw [besides]
  refine ⟨(s.removeSharers k w.pos).afterReading k w, congrArg (List.map _) jobs, fun idle ended => ?_, fun busy => ?_⟩
  · rw [State.afterReading_leaves (s := s.removeSharers k w.pos) idle ended]
    exact ⟨fun p hp => State.leaveSet_enters swept.1 hp, fun last => State.leaveSet_passes swept.1 last⟩
  · rw [State.afterReading_stays (s := s.removeSharers k w.pos) busy]
    exact ⟨rfl, rfl, rfl, rfl, State.wayToStart_isSome _ k w.pos⟩

/-- R155: what a grant to the walk starts. -/
theorem State.grantSweep_starts {s : State} {k : JobKind} {w : Walk} {v : WayIdx} {e : DirEntry} (i : TTIdx)
    (h : s.WalkStarts k w.pos v e) (first : ∀ u, u < v → ∀ f, ¬s.WalkStarts k w.pos u f) : s.grantSweep i k w =
      (s.setPhase k (.walking { w with started := w.started ++ [i], due := true, wants := false })).startForWalk i k v e := by
  unfold State.grantSweep
  rw [s.wayToStart_first k w.pos h first]

theorem State.grantSweep_unused {s : State} {k : JobKind} {w : Walk} (i : TTIdx) (h : ∀ v e, ¬s.WalkStarts k w.pos v e) :
    s.grantSweep i k w = s.setPhase k (.walking { w with due := true, wants := false }) := by
  unfold State.grantSweep
  rw [(s.wayToStart_none k w.pos).mpr h]

/-- Settles O60: the drains and final tests by what they ask of each entry, a reading by `State.removeSharers_rewrites` and by
what it makes of the walk, a grant by the first way that needs an entry. -/
theorem theWalk : Obligations.TheWalk := by
  refine ⟨State.regionDrained_iff, State.nodeDrained_iff, State.noMember_iff, fun s j h => State.sweepStep_drains h,
    fun s k => ⟨fun r hk => hk ▸ rfl, fun n hk => hk ▸ rfl, fun n hk => hk ▸ rfl⟩,
    fun s t k w sound ht => ⟨fun hk => ?_, fun n hk => State.readSet_fence sound n w (hk ▸ ht), ?_,
      State.readSet_walk sound k w ht⟩,
    fun s i k w => ⟨State.grantSweep_unused i, fun v e h first => ?_⟩, fun s i e => List.map_congr_left fun j _ => ?_⟩
  · subst ht
    cases k with
    | fenceNode n => exact absurd rfl (hk n)
    | closeRegion r u => rfl
    | quiesceNode n => rfl
  · obtain ⟨-, besides⟩ := State.removeSharers_besides sound k w.pos
    rw [ht, State.readSet, besides]
    exact ⟨rfl, rfl, rfl, rfl, rfl⟩
  · refine ⟨fun n hk => ?_, fun hk => ?_⟩
    · rw [State.grantSweep_starts i h first, hk]
      rfl
    · rw [State.grantSweep_starts i h first]
      cases k with
      | fenceNode n => exact absurd rfl (hk n)
      | closeRegion r u => rfl
      | quiesceNode n => rfl
  · obtain ⟨kind, phase⟩ := j
    cases phase with
    | walking w => cases hv : e.victim <;> simp [Job.modWalk, Walk.retired, TTEntry.blockOf, hv]
    | _ => rfl

end Sys2Proof.Machine
end

section
/-! The capture slots (chapter 10): a locked record stays until RELEASE_CAPTURE or a cold reset (R166), what an offer makes of a
slot and of the notice that it owes (R164 to R170), and RELEASE_CAPTURE (R173). -/

namespace Sys2Proof.Machine

/-! ### Locked records stay (R166) -/

/-- R166: every record locked in one state is the same record in the other. -/
def State.KeepsRecords (s t : State) : Prop :=
  ∀ c r, (s.slot c).record = some r → (t.slot c).record = some r

theorem State.KeepsRecords.trans {s t u : State} (h : s.KeepsRecords t) (k : t.KeepsRecords u) : s.KeepsRecords u :=
  fun c r e => k c r (h c r e)

/-- The records rest on the slots alone. -/
theorem State.KeepsRecords.of_slots {s t : State} (h : t.slots = s.slots) : s.KeepsRecords t := fun c r e => by
  rw [State.slot_congr h]
  exact e

/-- A slot changed otherwise than in its record. -/
theorem State.KeepsRecords.modSlot (s : State) (c : CaptureClass) {f : CaptureSlot → CaptureSlot}
    (same : ∀ t, (f t).record = t.record) : s.KeepsRecords (s.modSlot c f) := fun k r e => by
  rw [State.modSlot_slot]
  split
  · next hk => subst hk; exact (same _).trans e
  · exact e

/-- R166: every update of the commands but that of RELEASE_CAPTURE keeps the locked records. -/
theorem Deed.keepsRecords {fr : Prop} {s t : State} (d : Deed fr s t) (unfreed : ¬fr) : s.KeepsRecords t := by
  induction d with
  | work w => exact (Calm.of_work w).record
  | trans _ _ h k => exact h.trans k
  | aside e =>
    simp only [State.guarded, Prod.mk.injEq] at e
    obtain ⟨-, -, -, -, -, -, -, -, slots, -⟩ := e
    exact .of_slots slots
  | fence s n why => exact (s.fence_fenced n why).record
  | slot s c f same => exact .modSlot s c same
  | free x => exact absurd x unfreed
  | accept | taken | outbound | link | record | makeActive | quiesce | release | close | write | opened | control | ask | hold
  | leave => exact .of_slots rfl

/-- A take keeps the locked records when the command that it performs does. -/
theorem State.agentTake_keepsRecords (s : State) (mine : ControlReq → Bool) {perform : State → ControlReq → State}
    (kept : ∀ (t : State) (c : ControlReq), t.KeepsRecords (perform t c)) : s.KeepsRecords (s.agentTake mine perform) := by
  unfold State.agentTake
  split
  · next c rest _ _ =>
    split
    · have taken : s.KeepsRecords { s with controlQ := rest } := .of_slots rfl
      refine taken.trans ?_
      dsimp only
      split
      · exact kept _ c
      · exact (Deed.reply (fr := False) _ _ _ _ _).keepsRecords not_false
    · exact .of_slots rfl
  · exact .of_slots rfl

/-- R175: the warm reset of RESTART, and the notices behind it, keep the records. -/
theorem State.restart_keepsRecords (s : State) (c : ControlReq) : s.KeepsRecords (s.restart c) := fun k r e => by
  have warm : (s.slot k).warm.record = some r := e
  rw [s.restart_slot c]
  split
  · exact (CaptureSlot.told_record _ k).1.trans warm
  · exact warm

/-- A command keeps the locked records when its action does; while a cold reset holds the bridge it has none. -/
theorem run_keepsRecords {f : State → State} {s t : State} (h : run f s = .next t) (kept : ∀ u : State, u.KeepsRecords (f u)) :
    s.KeepsRecords t := by
  have begun : s.KeepsRecords s.beginStep := .of_slots rfl
  cases running : s.running with
  | true =>
    rw [run_running f s running] at h
    injection h with h
    exact h ▸ begun.trans (kept _)
  | false =>
    rw [run_held f s running] at h
    injection h with h
    exact h ▸ begun

/-- Settles O12: RESTART by its warm reset, the tick by its frame, every other command by the updates of which it is made. -/
theorem lockedRecordsStay : Obligations.LockedRecordsStay := by
  intro i s t c r unfreed h
  have kept : s.KeepsRecords t := by
    by_cases warm : i = .restart
    · subst warm
      exact run_keepsRecords (f := fun u => u.agentTake (ControlReq.is 0x13#8) State.restart) h fun u =>
        u.agentTake_keepsRecords _ State.restart_keepsRecords
    by_cases tick : i = .timeBaseAdvance
    · subst tick
      exact run_keepsRecords (f := fun u => { u with timeBase := u.timeBase + 1#32 }) h fun _ => .of_slots rfl
    · have cold : ∀ x, i ≠ .coldReset x := by rintro x rfl; cases unfreed
      exact (Deed.exec i s t h tick warm cold).keepsRecords (by rintro rfl; cases unfreed)
  exact kept c r

/-! ### What an offer makes of a slot (R166 to R168) -/

section
variable (t : CaptureSlot) (r : CaptureRecord) {x : CaptureRecord} (h : t.record = some x)
include h

/-- R168: a DATA_LOST record offered to a slot LOCKED by a RECOVERED one that is not escalated escalates it. -/
theorem CaptureSlot.offer_escalates (lost : r.reason.severity = .dataLost) (recovered : x.reason.severity = .recovered)
    (once : t.escalated = false) : t.offer r = { t with
      overflow := if t.overflow.toNat < 15 then t.overflow + 1#4 else t.overflow
      escalated := true
      escalationReason := some r.reason
      escalationNotice := .pending } := by
  unfold CaptureSlot.offer
  rw [h]
  exact if_pos ⟨lost, recovered, once⟩

/-- R167, R168: any other offer to a LOCKED slot is counted, and does nothing else. -/
theorem CaptureSlot.offer_counts
    (other : ¬(r.reason.severity = .dataLost ∧ x.reason.severity = .recovered ∧ t.escalated = false)) :
    t.offer r = { t with overflow := if t.overflow.toNat < 15 then t.overflow + 1#4 else t.overflow } := by
  unfold CaptureSlot.offer
  rw [h]
  exact if_neg other

/-- R167: what every offer to a LOCKED slot does, escalating or not. -/
theorem CaptureSlot.offer_locked_fields : (t.offer r).record = some x ∧
    (t.offer r).overflow = (if t.overflow.toNat < 15 then t.overflow + 1#4 else t.overflow) ∧
    (t.offer r).lockNotice = t.lockNotice ∧ (t.offer r).outstanding = t.outstanding := by
  by_cases escalates : r.reason.severity = .dataLost ∧ x.reason.severity = .recovered ∧ t.escalated = false
  · obtain ⟨lost, recovered, once⟩ := escalates
    rw [t.offer_escalates r h lost recovered once]
    exact ⟨h, rfl, rfl, rfl⟩
  · rw [t.offer_counts r h escalates]
    exact ⟨h, rfl, rfl, rfl⟩

end

/-! ### The notice that an offer queues (R170) -/

/-- Two changes of one slot are one. -/
theorem State.modSlot_modSlot (s : State) (k : CaptureClass) (f g : CaptureSlot → CaptureSlot) :
    (s.modSlot k f).modSlot k g = s.modSlot k fun t => g (f t) := by
  cases k <;> simp [State.modSlot, State.slot]

section
variable (s : State) (r : CaptureRecord)

/-- R170: the notice that the slot then owes stays PENDING while the notice node is not reachable; a slot may owe none. -/
theorem State.offer_unqueued (h : s.reachable = false ∨ ((s.slot r.reason.cls).offer r).owed r.reason.cls = none) :
    s.offer r = s.capture r := by
  rcases h with down | none
  · exact (s.capture r).queueNotice_unreachable _ down
  · refine (s.capture r).queueNotice_none _ ?_
    rw [State.capture_slot, if_pos rfl]
    exact none

/-- R170: the notice that the slot then owes is queued at once to a reachable notice node. -/
theorem State.offer_queues {o : OutMsg} (up : s.reachable = true)
    (owed : ((s.slot r.reason.cls).offer r).owed r.reason.cls = some o) :
    s.offer r = (s.modSlot r.reason.cls fun _ => ((s.slot r.reason.cls).offer r).told r.reason.cls).modPort s.noticeNode
      fun p => p.send [o] := by
  have captured : ((s.capture r).slot r.reason.cls).owed r.reason.cls = some o := by
    rw [State.capture_slot, if_pos rfl]
    exact owed
  refine ((s.capture r).queueNotice_some _ o up captured).trans ?_
  unfold State.capture
  rw [State.modSlot_modSlot]
  exact congrArg (fun u : State => u.modPort s.noticeNode fun p => p.send [o]) (State.modSlot_congr rfl)

end

/-! ### RELEASE_CAPTURE (R173) -/

/-- Section 12.3: the result word of RELEASE_CAPTURE, as a number. -/
theorem CaptureSlot.releaseWord_eq (t : CaptureSlot) :
    t.releaseWord = BitVec.ofNat 32 (t.overflow.toNat + if t.escalated = true then 16 else 0) := by
  have bound : t.overflow.toNat < 2 ^ 4 := t.overflow.isLt
  unfold CaptureSlot.releaseWord placeBit
  cases t.escalated with
  | false =>
    rw [Bool.toNat_false, place_zero, BitVec.or_zero]
    exact BitVec.shiftLeft_zero _
  | true =>
    have flag : place 4 true.toNat = BitVec.ofNat 32 (1 <<< 4) := rfl
    have count : place 0 t.overflow.toNat = BitVec.ofNat 32 t.overflow.toNat := BitVec.shiftLeft_zero _
    have sum : 1 <<< 4 + t.overflow.toNat = 1 <<< 4 ||| t.overflow.toNat := Nat.shiftLeft_add_eq_or_of_lt bound 1
    rw [flag, count, ← BitVec.ofNat_or, Nat.or_comm, ← sum, Nat.add_comm]
    rfl

/-- Settles O58: the offers by whether they escalate, their notices by whether they are queued, RELEASE_CAPTURE by its slot
number. -/
theorem captureSlots : Obligations.CaptureSlots := by
  refine ⟨fun t r h => t.offer_empty r h, fun t r x h => ?_, fun s r => ⟨s.offer_holds r, fun k hk => ?_⟩,
    fun s r k u hk hu => ?_, fun s c rest h => ?_⟩
  · obtain ⟨record, overflow, lockNotice, outstanding⟩ := t.offer_locked_fields r h
    refine ⟨record, overflow, lockNotice, outstanding, fun lost recovered once => ?_, fun other => ?_⟩
    · rw [t.offer_escalates r h lost recovered once]
      exact ⟨rfl, rfl, rfl⟩
    · rw [t.offer_counts r h]
      · exact ⟨rfl, rfl, rfl⟩
      · rintro ⟨lost, recovered, once⟩
        simp [lost, recovered, once] at other
  · rw [State.offer_slot, if_neg hk]
  · subst hk hu
    refine ⟨fun quiet => (s.offer_unqueued r quiet).trans (State.modSlot_congr rfl), fun o up owed => ?_⟩
    rw [s.offer_queues r up owed, CaptureSlot.told_some owed]
    rfl
  · have performed : exec .releaseCapture s = .next ((s.taking rest).releaseCapture c) := h.performs rfl State.releaseCapture
    rw [performed]
    refine ⟨fun hb => congrArg _ (State.withSlot_none _ _ hb), fun k hk => congrArg _ ?_⟩
    refine (State.withSlot_val _ _ hk).trans ?_
    rw [CaptureSlot.releaseWord_eq]
    rfl

end Sys2Proof.Machine
end

section
/-! The head of the Control Queue that each management command takes (R176, R177). -/

namespace Sys2Proof

/-- The heads that the step of a management command takes: those of its code, parted between the two rows of READ_STATUS
(log entry 18). -/
def Instr.accepts (i : Instr) : Machine.ControlReq → Bool :=
  match i with
  | .readStatusGeneral => fun c => c.is 0x10#8 && !c.asksJobs
  | .readStatusJobs => Machine.ControlReq.asksJobs
  | i => match i.command with
    | some (k, _) => Machine.ControlReq.is k
    | none => fun _ => false

end Sys2Proof

namespace Sys2Proof.Machine

variable {i : Instr} {k : BitVec 8} {count : Nat}

/-! ### The codes of the commands (12 section 12.3) -/

/-- The step of a management command is the agent's take of a head that it accepts, and its row has the number of
arguments that the table of codes gives. -/
theorem exec_command (h : i.command = some (k, count)) : commandArgs k = some count ∧
    ∃ perform : State → ControlReq → State, ∀ s, exec i s = run (fun t => t.agentTake i.accepts perform) s := by
  cases i with
  | readNode | writeNode | admitNode | quiesceNode | fenceNode | releaseNode | setNoticeNode | readRegion | writeRegion
  | openRegion | closeRegion | probeBlock | reclaimBlock | readCapture | releaseCapture | readStatusGeneral | readStatusJobs
  | setMemoryTimeout | resetMemoryPort | restart =>
    cases h
    exact ⟨rfl, _, fun _ => rfl⟩
  | _ => cases h

/-- One row for each of the nineteen commands. -/
def managementCommands : List Instr :=
  [.readNode, .writeNode, .admitNode, .quiesceNode, .fenceNode, .releaseNode, .setNoticeNode, .readRegion, .writeRegion,
    .openRegion, .closeRegion, .probeBlock, .reclaimBlock, .readCapture, .releaseCapture, .readStatusGeneral,
    .setMemoryTimeout, .resetMemoryPort, .restart]

theorem managementCommands_complete : ∀ k : BitVec 8, commandArgs k ≠ none →
    ∃ i ∈ managementCommands, i.command.map Prod.fst = some k := by decide +kernel

/-- R177: a code names no command exactly when no command's row has it. -/
theorem commandArgs_eq_none_iff : commandArgs k = none ↔ ∀ i x count, Instr.command i = some (x, count) → k ≠ x := by
  constructor
  · rintro unnamed i x count h rfl
    obtain ⟨named, -⟩ := exec_command h
    rw [unnamed] at named
    cases named
  · intro rows
    by_contra named
    obtain ⟨i, -, h⟩ := managementCommands_complete k named
    obtain ⟨⟨x, count⟩, row, rfl⟩ := Option.map_eq_some_iff.mp h
    exact rows i x count row rfl

/-! ### The heads that a command accepts -/

theorem ControlReq.is_iff (c : ControlReq) : c.is k = true ↔ c.code = k := beq_iff_eq

theorem ControlReq.asksJobs_iff (c : ControlReq) :
    c.asksJobs = true ↔ c.code = 0x10#8 ∧ c.args.length = 1 ∧ c.index = 1 := by
  simp [ControlReq.asksJobs, ControlReq.is_iff, and_assoc]

/-- Outside READ_STATUS a command accepts the heads of its code. -/
theorem accepts_eq_is (h : i.command = some (k, count)) (general : i ≠ .readStatusGeneral) (jobs : i ≠ .readStatusJobs) :
    i.accepts = ControlReq.is k := by
  unfold Instr.accepts
  split
  · exact absurd rfl general
  · exact absurd rfl jobs
  · rw [h]

/-- A command accepts heads of its own code alone. -/
theorem code_of_accepts (h : i.command = some (k, count)) {c : ControlReq} (accepted : i.accepts c = true) : c.code = k := by
  by_cases general : i = .readStatusGeneral
  · subst general
    cases h
    obtain ⟨status, -⟩ := Bool.and_eq_true_iff.mp accepted
    exact c.is_iff.mp status
  by_cases jobs : i = .readStatusJobs
  · subst jobs
    cases h
    exact (c.asksJobs_iff.mp accepted).1
  rw [accepts_eq_is h general jobs] at accepted
  exact c.is_iff.mp accepted

/-- A head of a command's code with a wrong number of arguments is the command's own; one of READ_STATUS is the GENERAL
row's (log entry 18). -/
theorem accepts_of_badCount (h : i.command = some (k, count)) (jobs : i ≠ .readStatusJobs) {c : ControlReq} (hc : c.code = k)
    (hn : c.args.length ≠ count) : i.accepts c = true := by
  by_cases general : i = .readStatusGeneral
  · subst general
    cases h
    have unasked : ¬ c.asksJobs = true := fun asks => hn (c.asksJobs_iff.mp asks).2.1
    exact Bool.and_eq_true_iff.mpr ⟨c.is_iff.mpr hc, by simpa using unasked⟩
  · rw [accepts_eq_is h general jobs]
    exact c.is_iff.mpr hc

/-! ### The take (R176, R177) -/

/-- R176: a command that finds the agent busy, no head, or another command's head changes nothing (log entry 2). -/
theorem exec_command_idle {s : State} (h : i.command = some (k, count)) (hr : s.running = true)
    (idle : s.agent ≠ .ready ∨ s.controlQ = [] ∨ ∃ c rest, s.controlQ = c :: rest ∧ c.code ≠ k) :
    exec i s = .next s.beginStep := by
  obtain ⟨-, perform, take⟩ := exec_command h
  rw [take, run_running _ s hr]
  refine congrArg _ (State.agentTake_none (idle.imp_right (Or.imp_right ?_)))
  rintro ⟨c, rest, hq, other⟩
  exact ⟨c, rest, hq, Bool.eq_false_iff.mpr fun accepted => other (code_of_accepts h accepted)⟩

/-- R177: a head of the command's code with a wrong number of arguments is answered BAD_ARGUMENT. -/
theorem exec_command_badCount {s : State} {c : ControlReq} {rest : List ControlReq} (h : i.command = some (k, count))
    (jobs : i ≠ .readStatusJobs) (hr : s.running = true) (ha : s.agent = .ready) (hq : s.controlQ = c :: rest)
    (hc : c.code = k) (hn : c.args.length ≠ count) : exec i s = .next ((s.taking rest).replies c .badArgument []) := by
  obtain ⟨named, perform, take⟩ := exec_command h
  have miscounted : commandArgs c.code ≠ some c.args.length := by
    rw [hc, named]
    exact fun e => hn (Option.some.inj e).symm
  rw [take, run_running _ s hr]
  exact congrArg _ (State.agentTake_badCount ha hq (accepts_of_badCount h jobs hc hn) miscounted)

/-- R177: BAD_COMMAND_CODE, by the code of the head. -/
theorem exec_badCommandCode {s : State} {c : ControlReq} {rest : List ControlReq} (hr : s.running = true)
    (ha : s.agent = .ready) (hq : s.controlQ = c :: rest) : exec .badCommandCode s = .next
      (if commandArgs c.code = none then (s.taking rest).replies c .badCommand [] else s.beginStep) := by
  have agent : s.beginStep.agent = .ready := ha
  have queue : s.beginStep.controlQ = c :: rest := hq
  refine (run_running _ s hr).trans (congrArg _ ?_)
  unfold State.badCommand
  rw [agent, queue]
  simp only [Option.isNone_iff_eq_none]
  rfl

/-- Settles O51: a command by the heads that it accepts, BAD_COMMAND_CODE by the table of codes, a reply by the state of its
sender. -/
theorem agentTakesTheHead : Obligations.AgentTakesTheHead := by
  refine ⟨fun i k count s h hr => exec_command_idle h hr,
    fun i k count s c rest h jobs hr ha hq hc hn => exec_command_badCount h jobs hr ha hq hc hn,
    fun s c rest hr ha hq => ?_, fun s c st results => ⟨s.replies_discarded c st results, s.replies_queued c st results⟩⟩
  rw [exec_badCommandCode hr ha hq]
  refine ⟨fun rows => ?_, fun ⟨i, k, count, row, named⟩ => ?_⟩
  · rw [if_pos (commandArgs_eq_none_iff.mpr rows)]
  · rw [if_neg fun unnamed => commandArgs_eq_none_iff.mp unnamed i k count row named]

end Sys2Proof.Machine
end

section
/-! The cold reset and its release (chapter 11, section 11.6). -/

namespace Sys2Proof.Machine

/-- R186: every command but the two of the cold reset acts only while the bridge runs. -/
theorem exec_eq_run {c : Instr} (assert : ∀ x, c ≠ .coldReset x) (release : ∀ x, c ≠ .coldResetRelease x) :
    ∃ f : State → State, ∀ s, exec c s = run f s := by
  unfold exec
  cases c with
  | coldReset x => exact absurd rfl (assert x)
  | coldResetRelease x => exact absurd rfl (release x)
  | _ => exact ⟨_, fun _ => rfl⟩

/-- R186: the assertion of one cause leaves the other cause as it is. -/
theorem exec_coldReset (cause : ResetCause) (s : State) : exec (.coldReset cause) s = .next
    { s.beginStep.cold with
      resetAsserted := s.resetAsserted || decide (cause = .resetInput)
      powerGood := s.powerGood && decide (cause = .resetInput) } := by
  cases cause with
  | resetInput =>
    rw [decide_eq_true rfl, Bool.or_true, Bool.and_true]
    rfl
  | powerUp =>
    rw [decide_eq_false nofun, Bool.or_false, Bool.and_false]
    rfl

/-- R186: the release of one cause leaves the other cause as it is. -/
theorem exec_coldResetRelease (cause : ResetCause) (s : State) : exec (.coldResetRelease cause) s = .next
    { s.beginStep with
      resetAsserted := s.resetAsserted && decide (cause = .powerUp)
      powerGood := s.powerGood || decide (cause = .powerUp) } := by
  cases cause with
  | resetInput =>
    rw [decide_eq_false nofun, Bool.or_false, Bool.and_false]
    rfl
  | powerUp =>
    rw [decide_eq_true rfl, Bool.or_true, Bool.and_true]
    rfl

/-- Settles O3: the assertion and the release by their cause; every other command by its test that the bridge runs. -/
theorem coldResetHoldsAndReleases : Obligations.ColdResetHoldsAndReleases := by
  refine ⟨exec_coldReset, exec_coldResetRelease, fun c s held assert release => ?_⟩
  obtain ⟨f, gated⟩ := exec_eq_run assert release
  rw [gated]
  exact run_held f s held

end Sys2Proof.Machine
end

section
/-! The step, and what waits for it: the commands and the inputs of the steps to come (log entries 2, 3 and 5). -/

namespace Sys2Proof.Machine

/-- What waits in front of the bridge: the commands, and the inputs of the steps to come. -/
def State.toCome (s : State) : List Instr × List StepInput := (s.pending, s.inputs)

/-! ### Shared operations -/

theorem State.toCome_congr {s t : State} (pending : t.pending = s.pending) (inputs : t.inputs = s.inputs) :
    t.toCome = s.toCome := congrArg₂ Prod.mk pending inputs

theorem Work.toCome {sw : Prop} {s t : State} (h : Work sw s t) : t.toCome = s.toCome :=
  State.toCome_congr (Calm.of_work h).pending (Calm.of_work h).inputs

namespace State

section
variable (s : State)

theorem settle_toCome : s.settle.toCome = s.toCome := (Work.settle s).toCome

theorem offer_toCome (r : CaptureRecord) : (s.offer r).toCome = s.toCome :=
  toCome_congr (s.offer_same r).pending (s.offer_same r).inputs

theorem flushNotices_toCome : s.flushNotices.toCome = s.toCome :=
  toCome_congr s.flushNotices_same.pending s.flushNotices_same.inputs

theorem modMP_toCome (p : MPort) (f : MemPort → MemPort) : (s.modMP p f).toCome = s.toCome :=
  toCome_congr (s.modMP_pending p f) (s.modMP_inputs p f)

theorem fence_toCome (n : NodeId) (why : FenceReason) : (s.fence n why).toCome = s.toCome := by
  have rest := (s.fence_fenced n why).rest
  simp only [Prod.mk.injEq] at rest
  obtain ⟨pending, inputs, -⟩ := rest
  exact toCome_congr pending inputs

theorem reply_toCome (n : NodeId) (tag : ReqTag) (st : Status) (ws : List Word) : (s.reply n tag st ws).toCome = s.toCome := by
  unfold State.reply
  split <;> rfl

end

/-! ### The agent (R176, R177) -/

section
variable {s : State} {c : ControlReq}

theorem agentTake_toCome {mine : ControlReq → Bool} {f : State → ControlReq → State}
    (h : ∀ t c, (f t c).toCome = t.toCome) : (s.agentTake mine f).toCome = s.toCome := by
  unfold State.agentTake
  split
  · next c rest _ _ =>
    split
    · dsimp only
      split
      · exact h { s with controlQ := rest } c
      · exact reply_toCome { s with controlQ := rest } _ _ _ _
    · rfl
  · rfl

theorem withNode_toCome {f : NodeId → State} (h : ∀ n, (f n).toCome = s.toCome) : (s.withNode c f).toCome = s.toCome := by
  unfold State.withNode
  split
  · exact reply_toCome s _ _ _ _
  · exact h _

theorem withRegion_toCome {f : RegionIdx → State} (h : ∀ r, (f r).toCome = s.toCome) :
    (s.withRegion c f).toCome = s.toCome := by
  unfold State.withRegion
  split
  · exact reply_toCome s _ _ _ _
  · exact h _

theorem withSlot_toCome {f : CaptureClass → State} (h : ∀ k, (f k).toCome = s.toCome) :
    (s.withSlot c f).toCome = s.toCome := by
  unfold State.withSlot
  split
  · exact reply_toCome s _ _ _ _
  · exact h _

theorem withMemPort_toCome {f : MPort → State} (h : ∀ p, (f p).toCome = s.toCome) :
    (s.withMemPort c f).toCome = s.toCome := by
  unfold State.withMemPort
  split
  · exact reply_toCome s _ _ _ _
  · exact h _

end

section
variable (s : State) (c : ControlReq)

theorem readNode_toCome : (s.readNode c).toCome = s.toCome := withNode_toCome fun _ => reply_toCome s _ _ _ _

theorem writeNode_toCome : (s.writeNode c).toCome = s.toCome := by
  refine withNode_toCome fun n => ?_
  split
  · exact reply_toCome s _ _ _ _
  · exact reply_toCome (s.modNode n _) _ _ _ _

theorem admitNode_toCome : (s.admitNode c).toCome = s.toCome := by
  refine withNode_toCome fun n => ?_
  split
  · exact reply_toCome (s.makeActive n) _ _ _ _
  · exact reply_toCome s _ _ _ _

theorem quiesceNode_toCome : (s.quiesceNode c).toCome = s.toCome := by
  refine withNode_toCome fun n => ?_
  split
  · exact reply_toCome s _ _ _ _
  · split
    · exact reply_toCome s _ _ _ _
    · exact reply_toCome ((s.modNode n _).placeJob _) _ _ _ _

theorem fenceNode_toCome : (s.fenceNode c).toCome = s.toCome := by
  refine withNode_toCome fun n => ?_
  split
  · exact (reply_toCome _ _ _ _ _).trans (fence_toCome s n _)
  · exact reply_toCome s _ _ _ _

theorem releaseNode_toCome : (s.releaseNode c).toCome = s.toCome := by
  refine withNode_toCome fun n => ?_
  split
  · exact reply_toCome s _ _ _ _
  · split
    · exact reply_toCome s _ _ _ _
    · exact (flushNotices_toCome _).trans (reply_toCome (s.modNode n _) _ _ _ _)

theorem setNoticeNode_toCome : (s.setNoticeNode c).toCome = s.toCome :=
  withNode_toCome fun n => (flushNotices_toCome _).trans (reply_toCome { s with noticeNode := n } _ _ _ _)

theorem readRegion_toCome : (s.readRegion c).toCome = s.toCome := withRegion_toCome fun _ => reply_toCome s _ _ _ _

theorem writeRegion_toCome : (s.writeRegion c).toCome = s.toCome := by
  refine withRegion_toCome fun r => ?_
  split
  · exact reply_toCome s _ _ _ _
  · split
    · exact reply_toCome s _ _ _ _
    · split
      · exact reply_toCome (s.modRegion r _) _ _ _ _
      · exact reply_toCome s _ _ _ _

theorem openRegion_toCome : (s.openRegion c).toCome = s.toCome := by
  unfold State.openRegion
  split
  · next r _ _ _ =>
    split
    · exact reply_toCome (s.modRegion r _) _ _ _ _
    · exact reply_toCome s _ _ _ _
  · exact reply_toCome s _ _ _ _

theorem closeRegion_toCome : (s.closeRegion c).toCome = s.toCome := by
  refine withRegion_toCome fun r => ?_
  split
  · exact reply_toCome s _ _ _ _
  · split
    · exact reply_toCome s _ _ _ _
    · exact reply_toCome ((s.modRegion r _).placeJob _) _ _ _ _

theorem probeBlock_toCome : (s.probeBlock c).toCome = s.toCome := by
  unfold State.probeBlock
  split <;> exact reply_toCome s _ _ _ _

theorem reclaimBlock_toCome : (s.reclaimBlock c).toCome = s.toCome := by
  unfold State.reclaimBlock
  split
  · exact reply_toCome s _ _ _ _
  · split
    · rfl
    · exact reply_toCome s _ _ _ _

theorem readCapture_toCome : (s.readCapture c).toCome = s.toCome := withSlot_toCome fun _ => reply_toCome s _ _ _ _

theorem releaseCapture_toCome : (s.releaseCapture c).toCome = s.toCome :=
  withSlot_toCome fun k => reply_toCome (s.modSlot k _) _ _ _ _

theorem readStatusGeneral_toCome : (s.readStatusGeneral c).toCome = s.toCome := by
  unfold State.readStatusGeneral
  split <;> exact reply_toCome s _ _ _ _

theorem readStatusJobs_toCome : (s.readStatusJobs c).toCome = s.toCome := reply_toCome s _ _ _ _

theorem setMemoryTimeout_toCome : (s.setMemoryTimeout c).toCome = s.toCome := by
  refine withMemPort_toCome fun p => ?_
  split
  · exact reply_toCome s _ _ _ _
  · exact (reply_toCome _ _ _ _ _).trans (modMP_toCome s p _)

theorem resetMemoryPort_toCome : (s.resetMemoryPort c).toCome = s.toCome := by
  refine withMemPort_toCome fun p => ?_
  split
  · exact reply_toCome s _ _ _ _
  · exact (reply_toCome _ _ _ _ _).trans (modMP_toCome s p _)

theorem restart_toCome : (s.restart c).toCome = s.toCome := by
  refine (flushNotices_toCome _).trans ?_
  split
  · exact reply_toCome s.warmReset _ _ _ _
  · rfl

theorem badCommand_toCome : s.badCommand.toCome = s.toCome := by
  unfold State.badCommand
  split
  · next rest _ _ =>
    split
    · exact reply_toCome { s with controlQ := rest } _ _ _ _
    · rfl
  · rfl

end

/-! ### The Pool Link ports -/

section
variable (s : State) (n : NodeId)

theorem arrive_toCome (cls : MsgClass) (m : InMsg) : (s.arrive n cls m).toCome = s.toCome := by
  have counted : (if (s.port n).credits cls = 0 then s.offer { s.stamped .creditOverrun with node := some n, block := m.block }
      else s.modPort n fun p => p.accept cls m).toCome = s.toCome := by
    split
    · exact offer_toCome s _
    · rfl
  have control : (s.arriveControl n m).toCome = s.toCome := by
    unfold State.arriveControl
    split
    · split
      · rfl
      · split
        · exact offer_toCome s _
        · rfl
    · exact offer_toCome s _
  unfold State.arrive
  split
  · rfl
  · split
    · exact counted
    · exact counted
    · split
      · exact control
      · rfl
    · rfl

theorem linkDown_toCome : (s.linkDown n).toCome = s.toCome := by
  unfold State.linkDown
  split
  · rfl
  · dsimp only
    split
    · exact ((settle_toCome _).trans (fence_toCome _ n _)).trans (offer_toCome (s.modPort n _) _)
    · rfl

theorem clearPacing_toCome (i : TTIdx) : (s.clearPacing i n).toCome = s.toCome := (Work.flushHeld (sw := True) _ i n).toCome

theorem departed_toCome (m : OutMsg) : (s.departed n m).toCome = s.toCome := by
  unfold State.departed
  split
  · split
    · exact clearPacing_toCome (s.recallDeparted _ n _) n _
    · exact clearPacing_toCome s n _
  · rfl
  · rfl
  · rfl
  · next k _ _ => exact (Work.queueNotice (sw := True) (s.modSlot k _) k).toCome
  · unfold State.jobLeaves
    dsimp only
    split <;> rfl
  · rfl

theorem depart_toCome : (s.depart n).toCome = s.toCome := by
  unfold State.depart
  split
  · rfl
  · exact (settle_toCome _).trans (departed_toCome _ n _)

/-! ### The Request Intake -/

theorem intakeAct_toCome (m : InMsg) (o : IntakeOutcome) : (s.intakeAct n m o).toCome = s.toCome := by
  unfold State.intakeAct
  split
  · dsimp only
    split
    · exact offer_toCome (s.refuse n _) _
    · rfl
  · rfl
  · rfl
  · split
    · exact (Work.startEntry (sw := True) s _ _).toCome
    · rfl

theorem intakeTake_toCome : s.intakeTake.toCome = s.toCome := by
  unfold State.intakeTake
  split
  · rfl
  · next n m _ => exact (settle_toCome _).trans (intakeAct_toCome { s.takeHead n .request with intakePos := n } n m _)

/-! ### The Return Handler -/

variable (b : Block)

theorem removeHolder_toCome : (s.removeHolder n b).toCome = s.toCome := (Work.removeHolder (sw := True) s n b).toCome

theorem makeWriteback_toCome (w : WBIdx) (d : BlockData) : (s.makeWriteback w n b d).toCome = s.toCome := by
  unfold State.makeWriteback
  split
  · exact modMP_toCome (s.setWB w _) _ _
  · rfl

theorem strayWriteback_toCome (w : WBIdx) : (s.strayWriteback w n b).toCome = s.toCome :=
  offer_toCome ((s.setWB w _).enqueue n _ _) _

theorem lateWriteback_toCome (w : WBIdx) (i : TTIdx) (r : Role) (e : TTEntry) :
    (s.lateWriteback w n b i r e).toCome = s.toCome := by
  have stray : ((s.markMember i r n .absorbedWb).strayWriteback w n b).toCome = s.toCome :=
    strayWriteback_toCome (s.markMember i r n .absorbedWb) n b w
  unfold State.lateWriteback
  dsimp only
  split
  · exact (offer_toCome _ _).trans stray
  · exact stray

theorem repairWriteback_toCome (w : WBIdx) (d : BlockData) : (s.repairWriteback w n b d).toCome = s.toCome := by
  unfold State.repairWriteback
  split
  · exact strayWriteback_toCome s n b w
  · split
    · exact lateWriteback_toCome s n b w _ _ _
    · split
      · exact makeWriteback_toCome (s.absorbWriteback _ _ n d) n b w d
      · exact strayWriteback_toCome s n b w

theorem ownerWriteback_toCome (w : WBIdx) (d : BlockData) : (s.ownerWriteback w n b d).toCome = s.toCome := by
  refine (makeWriteback_toCome _ n b w d).trans ?_
  split <;> exact removeHolder_toCome s n b

theorem takeWriteback_toCome (w : WBIdx) (d : BlockData) : (s.takeWriteback w n b d).toCome = s.toCome := by
  unfold State.takeWriteback
  split
  · exact ownerWriteback_toCome s n b w d
  · exact strayWriteback_toCome s n b w
  · exact strayWriteback_toCome s n b w
  · exact repairWriteback_toCome s n b w d

theorem absorbEvict_toCome : (s.absorbEvict n b).toCome = s.toCome := by
  unfold State.absorbEvict
  split <;> rfl

theorem takeEvict_toCome : (s.takeEvict n b).toCome = s.toCome := by
  unfold State.takeEvict
  split
  · exact (absorbEvict_toCome _ n b).trans (removeHolder_toCome s n b)
  · exact (absorbEvict_toCome _ n b).trans (removeHolder_toCome s n b)
  · rfl
  · exact absorbEvict_toCome s n b

section
variable (i : TTIdx) (r : Role) (a : AckResult)

theorem ackAbsorbed_toCome : (s.ackAbsorbed i r n b a).toCome = s.toCome := by
  unfold State.ackAbsorbed
  dsimp only
  split
  · exact offer_toCome (s.resolveBy i r n _) _
  · rfl

theorem ackOwner_toCome : (s.ackOwner i r n b a).toCome = s.toCome := by
  cases a with
  | data d => rfl
  | clean => rfl
  | absent => exact offer_toCome (s.resolveWith i r n _ _) _

theorem ackSharer_toCome : (s.ackSharer i r n b a).toCome = s.toCome := by
  cases a with
  | data d => exact offer_toCome (s.resolveBy i r n _) _
  | clean => rfl
  | absent => rfl

theorem ackRepair_toCome (e : TTEntry) : (s.ackRepair i r e n b a).toCome = s.toCome := by
  cases a with
  | data d =>
    unfold State.ackRepair
    dsimp only
    split
    · rfl
    · exact offer_toCome (s.resolveBy i r n _) _
  | clean => rfl
  | absent => rfl

end

theorem takeAck_toCome (a : AckResult) : (s.takeAck n b a).toCome = s.toCome := by
  unfold State.takeAck
  dsimp only
  split
  · exact offer_toCome s _
  · split
    · exact offer_toCome s _
    · split
      · exact ackAbsorbed_toCome s n b _ _ a
      · split
        · exact ackRepair_toCome s n b _ _ a _
        · split
          · exact ackOwner_toCome s n b _ _ a
          · exact ackSharer_toCome s n b _ _ a

theorem returnAct_toCome (m : InMsg) (w : Option WBIdx) : (s.returnAct n m w).toCome = s.toCome := by
  unfold State.returnAct
  split
  · split
    · exact takeWriteback_toCome s n _ _ _
    · rfl
  · exact takeEvict_toCome s n _
  · exact takeAck_toCome s n _ _
  · exact offer_toCome s _

theorem returnTake_toCome : (s.returnTake n).toCome = s.toCome := by
  unfold State.returnTake
  split
  · rfl
  · split
    · exact (settle_toCome _).trans (returnAct_toCome (s.takeHead n .ret) n _ _)
    · rfl

end

/-! ### Recall deadlines and the Memory Ports -/

section
variable (s : State)

theorem expireRecall_toCome (i : TTIdx) (n : NodeId) : (s.expireRecall i n).toCome = s.toCome := by
  unfold State.expireRecall
  split
  · rfl
  · split
    · rfl
    · refine (settle_toCome _).trans ?_
      split
      · exact (fence_toCome _ n _).trans (offer_toCome s _)
      · exact offer_toCome s _

theorem noteOp_toCome (o : OpOwner) (t : Option MemTag) : (s.noteOp o t).toCome = s.toCome := by cases o <;> rfl

theorem noteRetry_toCome (o : OpOwner) : (s.noteRetry o).toCome = s.toCome := by cases o <;> rfl

theorem deliverRead_toCome (o : OpOwner) (d : BlockData) : (s.deliverRead o d).toCome = s.toCome := by cases o <;> rfl

theorem donePending_toCome (w : WBIdx) : (s.donePending w).toCome = s.toCome := by
  unfold State.donePending
  split
  · rfl
  · split <;> rfl

theorem deliverWrite_toCome (o : OpOwner) (ok : Bool) : (s.deliverWrite o ok).toCome = s.toCome := by
  cases o with
  | tt i r => rfl
  | wb w => exact donePending_toCome s w

variable (mp : MPort)

theorem issue_toCome : (s.issue mp).toCome = s.toCome := by
  unfold State.issue
  split
  · exact (noteOp_toCome _ _ _).trans (modMP_toCome (s.emit _) mp _)
  · rfl

theorem failWrite_toCome (t : MemTag) (op : MemOp) (reason : CaptureReason) (x : TagState) :
    (s.failWrite mp t op reason x).toCome = s.toCome := by
  unfold State.failWrite
  refine Eq.trans ?_ (modMP_toCome s mp fun p => p.setTag t x)
  dsimp only
  split
  · exact deliverWrite_toCome _ _ _
  · split
    · exact (deliverWrite_toCome _ _ _).trans (modMP_toCome _ mp _)
    · split
      · exact (((deliverWrite_toCome _ _ _).trans (modMP_toCome _ mp _)).trans (offer_toCome _ _)).trans (offer_toCome _ _)
      · exact ((noteRetry_toCome _ _).trans (modMP_toCome _ mp _)).trans (offer_toCome _ _)

theorem endReadEarly_toCome (t : MemTag) (op : MemOp) (got : Vector (Option Beat) 4) (reason : CaptureReason) (x : TagState) :
    (s.endReadEarly mp t op got reason x).toCome = s.toCome :=
  ((deliverRead_toCome _ _ _).trans (offer_toCome _ _)).trans (modMP_toCome s mp _)

theorem refuseRead_toCome (t : MemTag) (op : MemOp) : (s.refuseRead mp t op).toCome = s.toCome := by
  unfold State.refuseRead
  split
  · exact endReadEarly_toCome s mp t op _ _ _
  · refine Eq.trans ?_ (modMP_toCome s mp fun p => p.setTag t .free)
    dsimp only
    split
    · exact (Work.placeRead (sw := True) _ _ _ _ _).toCome
    · rfl

theorem keepBeat_toCome (t : MemTag) (op : MemOp) (d : Time) (got : Vector (Option Beat) 4) (k : Fin 4) (x : Beat) :
    (s.keepBeat mp t op d got k x).toCome = s.toCome := by
  unfold State.keepBeat
  split
  · exact offer_toCome s _
  · dsimp only
    split
    · exact (deliverRead_toCome _ _ _).trans (modMP_toCome s mp _)
    · exact modMP_toCome s mp _

variable (tag : Nat)

theorem beat_toCome (k : Fin 4) (x : Beat) : (s.beat mp tag k x).toCome = s.toCome := by
  unfold State.beat
  split
  · exact offer_toCome s _
  · split
    · exact keepBeat_toCome s mp _ _ _ _ k x
    · exact offer_toCome s _
  · split
    · exact modMP_toCome s mp _
    · exact offer_toCome s _

theorem ack_toCome : (s.ack mp tag).toCome = s.toCome := by
  unfold State.ack
  split
  · exact offer_toCome s _
  · split
    · exact (deliverWrite_toCome _ _ _).trans (modMP_toCome s mp _)
    · exact offer_toCome s _
  · split
    · exact modMP_toCome s mp _
    · exact offer_toCome s _

theorem memFault_toCome : (s.memFault mp tag).toCome = s.toCome := by
  unfold State.memFault
  split
  · exact offer_toCome s _
  · split
    · exact endReadEarly_toCome s mp _ _ _ _ _
    · exact failWrite_toCome s mp _ _ _ _
  · exact modMP_toCome s mp _

theorem memRefuse_toCome : (s.memRefuse mp tag).toCome = s.toCome := by
  unfold State.memRefuse
  split
  · exact offer_toCome s _
  · split
    · exact refuseRead_toCome s mp _ _
    · exact failWrite_toCome s mp _ _ _ _
  · exact modMP_toCome s mp _

theorem memExpire_toCome (t : MemTag) : (s.memExpire mp t).toCome = s.toCome := by
  unfold State.memExpire
  split
  · split
    · refine (settle_toCome _).trans ?_
      split
      · exact endReadEarly_toCome s mp t _ _ _ _
      · exact failWrite_toCome s mp t _ _ _
    · rfl
  · rfl

end

end State

/-! ### Every command -/

/-- A command whose work touches nothing that is to come takes one step's input, whether the bridge runs or a cold reset
holds it. -/
theorem run_toCome {f : State → State} (h : ∀ u, (f u).toCome = u.toCome) (s : State) :
    ∃ t, run f s = .next t ∧ t.toCome = s.beginStep.toCome := by
  refine ⟨_, rfl, ?_⟩
  split
  · exact h s.beginStep
  · rfl

/-- A command of the agent takes one step's input, whether the agent performs it, refuses it or does not take it. -/
theorem run_agentTake_toCome {mine : ControlReq → Bool} {f : State → ControlReq → State}
    (h : ∀ t c, (f t c).toCome = t.toCome) (s : State) :
    ∃ t, run (fun u => u.agentTake mine f) s = .next t ∧ t.toCome = s.beginStep.toCome :=
  run_toCome (fun _ => State.agentTake_toCome h) s

/-- Every command answers a next state, with what is to come as the start of its step left it. -/
theorem exec_toCome (c : Instr) (s : State) : ∃ t, exec c s = .next t ∧ t.toCome = s.beginStep.toCome := by
  unfold exec
  cases c with
  | messageArrival n cls ws =>
    refine run_toCome (fun u => ?_) s
    split
    · rfl
    · exact u.arrive_toCome n cls _
  | linkUp n =>
    refine run_toCome (fun u => ?_) s
    split
    · rfl
    · exact State.flushNotices_toCome (u.modPort n _)
  | linkDown n => exact run_toCome (fun u => u.linkDown_toCome n) s
  | departure n => exact run_toCome (fun u => u.depart_toCome n) s
  | intakeTake => exact run_toCome State.intakeTake_toCome s
  | returnTake n => exact run_toCome (fun u => u.returnTake_toCome n) s
  | recallDeadlineExpiry i n => exact run_toCome (fun u => u.expireRecall_toCome i n) s
  | memoryIssue mp => exact run_toCome (fun u => u.issue_toCome mp) s
  | mbeat mp tag k d x =>
    refine run_toCome (fun u => ?_) s
    split
    · exact (State.settle_toCome _).trans (u.beat_toCome mp tag _ _)
    · exact u.offer_toCome _
  | mack mp tag => exact run_toCome (fun u => (State.settle_toCome _).trans (u.ack_toCome mp tag)) s
  | mfault mp tag => exact run_toCome (fun u => (State.settle_toCome _).trans (u.memFault_toCome mp tag)) s
  | mrefuse mp tag => exact run_toCome (fun u => (State.settle_toCome _).trans (u.memRefuse_toCome mp tag)) s
  | memoryDeadlineExpiry mp t => exact run_toCome (fun u => u.memExpire_toCome mp t) s
  | readNode => exact run_agentTake_toCome State.readNode_toCome s
  | writeNode => exact run_agentTake_toCome State.writeNode_toCome s
  | admitNode => exact run_agentTake_toCome State.admitNode_toCome s
  | quiesceNode => exact run_agentTake_toCome (fun t c => (State.settle_toCome _).trans (t.quiesceNode_toCome c)) s
  | fenceNode => exact run_agentTake_toCome (fun t c => (State.settle_toCome _).trans (t.fenceNode_toCome c)) s
  | releaseNode => exact run_agentTake_toCome State.releaseNode_toCome s
  | setNoticeNode => exact run_agentTake_toCome State.setNoticeNode_toCome s
  | readRegion => exact run_agentTake_toCome State.readRegion_toCome s
  | writeRegion => exact run_agentTake_toCome State.writeRegion_toCome s
  | openRegion => exact run_agentTake_toCome State.openRegion_toCome s
  | closeRegion => exact run_agentTake_toCome (fun t c => (State.settle_toCome _).trans (t.closeRegion_toCome c)) s
  | probeBlock => exact run_agentTake_toCome State.probeBlock_toCome s
  | reclaimBlock => exact run_agentTake_toCome (fun t c => (State.settle_toCome _).trans (t.reclaimBlock_toCome c)) s
  | readCapture => exact run_agentTake_toCome State.readCapture_toCome s
  | releaseCapture => exact run_agentTake_toCome State.releaseCapture_toCome s
  | readStatusGeneral => exact run_agentTake_toCome State.readStatusGeneral_toCome s
  | readStatusJobs => exact run_agentTake_toCome State.readStatusJobs_toCome s
  | setMemoryTimeout => exact run_agentTake_toCome State.setMemoryTimeout_toCome s
  | resetMemoryPort => exact run_agentTake_toCome State.resetMemoryPort_toCome s
  | restart => exact run_agentTake_toCome State.restart_toCome s
  | badCommandCode => exact run_toCome State.badCommand_toCome s
  | coldReset cause => exact ⟨_, exec_coldReset cause s, rfl⟩
  | coldResetRelease cause => exact ⟨_, exec_coldResetRelease cause s, rfl⟩
  | timeBaseAdvance => exact run_toCome (f := fun u => { u with timeBase := u.timeBase + 1#32 }) (fun _ => rfl) s

/-- Settles O2: the start of a step takes its input and leaves the queue, and no command's work touches either. -/
theorem everyCommandAnswersNext : Obligations.EveryCommandAnswersNext := by
  intro c s
  obtain ⟨t, answers, kept⟩ := exec_toCome c s
  exact ⟨t, answers, congrArg Prod.fst kept, congrArg Prod.snd kept⟩

/-! ### The step -/

theorem step_cons {s : State} {c : Instr} {rest : List Instr} (h : s.pending = c :: rest) :
    step s = exec c { s with pending := rest } := by
  unfold step
  rw [h]

theorem step_nil {s : State} (h : s.pending = []) : step s = .next s := by
  unfold step
  rw [h]

/-- Settles O1: the queue has a command at its front, or it is empty. -/
theorem stepRunsFrontCommand : Obligations.StepRunsFrontCommand :=
  ⟨fun _ _ _ => step_cons, fun _ => step_nil⟩

end Sys2Proof.Machine
end
